-- ==== Sys2Proof/Word.lean ====
section
/-! DEFINITION. The word types of the IXK-8400: bytes and 32-bit set-up registers (00 R8, R11). -/
namespace Sys2Proof

/-- A byte of memory (00 R8). -/
abbrev Byte := BitVec 8

/-- A set-up register (00 R11). -/
abbrev Word := BitVec 32

end Sys2Proof
end

