-- ==== Sys2Proof/Syntax.lean ====
section
/-! DEFINITION. The commands of the block: one constructor of `Instr` for each row of spec/opcode_table.json,
in the table's order, with the operands that the row's rule names. What arrives from outside the die (a camera
line, a fabric packet, a training result, a verdict of a published algorithm the manual does not restate) is an
operand of the row that brings it. -/
namespace Sys2Proof

/-- Who writes a register, as log code 0x0501 tells them apart (14 R467). -/
inductive Writer where
  | core | rrp | sprout | debug
deriving DecidableEq, Repr

/-- Who orders a reset (13 R415, R440; 14 R467 codes 0x0009 and 0x000A). -/
inductive ResetOrder where
  /-- a write of the value to MGMT.RESET -/
  | mgmt (w : Writer) (value : Word)
  /-- the Supervisor, for a fault class (14 R455) -/
  | supervisor (cls : Nat)
deriving DecidableEq, Repr

/-- The identity-record NOR device as the boot ROM reads it in step 2: the record's bytes 0 to 8,722, and the
verdicts of the two checks whose algorithms are published standards (13 R418, 15 R475). -/
structure Nor where
  bytes : List Byte
  sigOk : Bool
  keyOk : Bool
deriving DecidableEq, Repr

/-- Result of the march test of one LPDDR block (13 R428). -/
inductive MarchResult where
  | clean
  | corrected
  | failed (channel addr : Nat)
deriving DecidableEq, Repr

/-- Where an image offer or chunk arrives (12 R406, 13 R419). -/
inductive BootPort where
  | fabric (p : Nat)
  | eth (q : Nat) (server : List Nat)
deriving DecidableEq, Repr

/-- What an RRP message carries before its payload: the source of its datagram (address words as ETH.RRP_PEER_ADDR holds them,
and port), whether MACsec protected the frame, and the header fields that R313 uses. -/
structure RrpHdr where
  src : List Nat
  srcPort : Nat
  secured : Bool
  session : Nat
  seq : Nat
  ack : Nat
deriving DecidableEq, Repr

/-- A Pelud packet (12 R387). -/
structure Packet where
  type : Nat
  vc : Nat
  ll : Bool
  dst : Nat
  src : Nat
  stream : Nat
  dlen : Nat
  addr : Nat
  hops : Nat
  tag : Nat
  data : List Byte
deriving DecidableEq, Repr

/-- A link frame as the receiver's decoder hands it on (12 R379, R381): whether both codewords decoded and how
many bytes were corrected, and the frame's bytes 0 to 263 after correction. -/
structure LinkFrameIn where
  decoded : Bool
  corrected : Nat
  bytes : List Byte
deriving DecidableEq, Repr

/-- A reduction that is divided among the pods of a group or among devices (08 R261), as the schedule states it: whether this
device combines and which member of a pod group does, the combiner's node, the first and the number of the reduction groups
that this device forms, the place of this device's partial blocks in the stream's partition, where a sender's blocks go on the
combiner's node, and the places of the other devices' blocks, by which the combiner reads them. -/
structure CrossOp where
  combiner : Bool
  lead : Nat
  node : Nat
  first : Nat
  count : Nat
  own : Nat
  remote : Nat
  others : List Nat
deriving DecidableEq, Repr

/-- An operation that a stream's schedule issues: its operation block and its mapping records, number i for 96 - i active
pods (05 R145), the critical head to which it belongs, if any, with its run, 0 or 1 (08 R276), how its reduction is divided,
the lines of the band, counted from its first, that depend on it (05 R159), and the band counters that its tiles wait for: of
the next band or of its own, with the producing operation and the rows needed (06 R200). -/
structure SchedOp where
  opBlock : Nat
  mappings : List Nat
  crit : Option (Nat × Nat)
  cross : Option CrossOp
  lines : List Nat
  waits : List (Bool × Nat × Nat)
deriving DecidableEq, Repr

/-- What a band's schedule does besides its array operations: a plane-set commit (11 R364), an allocation from a frame
pool (10 R333) or a free of a buffer (10 R335). -/
inductive SchedAct where
  | commit (d record : Nat)
  | alloc (p : Nat)
  | free (p index : Nat)
deriving DecidableEq, Repr

/-- A step of a band's schedule that is no array operation, and how many of the band's operations come before it. -/
structure SchedStep where
  after : Nat
  act : SchedAct
deriving DecidableEq, Repr

/-- Places of one camera's rings in the stream's partition, as the package's schedule names them (06 R186). -/
structure CamPlace where
  port : Nat
  pixBase : Nat
  expBase : Nat
  hdrBase : Nat
  ringRows : Nat
  rowPitch : Nat
  groupSize : Nat
  tagBase : Nat
deriving DecidableEq, Repr

/-- Places of one resampler channel: its output header ring, and the tensor records (04 R101) of the enhanced lines it
reads and of its output pixel ring, whose format word OUTFMT replaces (07 R239, R245). -/
structure ChanPlace where
  chan : Nat
  hdrBase : Nat
  enh : List Byte
  out : List Byte
deriving DecidableEq, Repr

/-- A buffer that the schedule fills only by copying a source that the stream never writes (10 R339). -/
structure Refetch where
  base : Nat
  len : Nat
  src : Nat
deriving DecidableEq, Repr

/-- What one variant's schedule of a package declares. Its stored format is the toolchain's and is not in the
spec; the model takes what the schedules say, one for each variant, as an operand of the ADMIT row. -/
structure Sched where
  cams : List CamPlace
  chans : List ChanPlace
  /-- association group, 0 for none (07 R252) -/
  group : Nat
  /-- LPDDR buffers that can be fetched again (10 R339) -/
  refetch : List Refetch
  /-- records the result staging holds, at least 256 (09 R301) -/
  staging : Nat
  /-- line-locked stream whose bands feed a deferrable stream, 0 for none (06 R212, R219) -/
  fedBy : Nat
  /-- bands into which an area frame is divided, 0 or 1 for whole frames (06 R197) -/
  frameBands : Nat
  /-- input lines before a band's first that its operations read again (06 R189) -/
  halo : Nat
deriving DecidableEq, Repr

/-- A schedule that declares nothing. -/
def Sched.none : Sched := ⟨[], [], 0, [], 0, 0, 0, 0⟩

/-- A fault of 06 R210 as it is detected: what the position record will hold (06 R211), whether a pointer list drove
the operation, and the ring-issued operation it struck. -/
structure FaultInfo where
  cause : Nat
  addr : Nat
  window : Nat
  detail : Nat
  op : Nat
  tile : Nat
  ptr : Bool
  wid : Option Nat
deriving DecidableEq, Repr

/-- What the memories' check bits find while a command reads them (10 R344, R347): addresses whose read returns an
uncorrectable error, addresses corrected, and link corrections. -/
structure MemErrs where
  bad : List Nat
  corrected : List Nat
  link : Nat
deriving DecidableEq, Repr

/-- A head's result for a kept band (09 R302). -/
structure HeadResult where
  head : Nat
  elements : Nat
  addr : Nat
deriving DecidableEq, Repr

/-- What a deferrable stream asks of the spool pool (06 R216). -/
inductive SpoolAsk where
  | take (n : Nat)
  | give (n : Nat)
deriving DecidableEq, Repr

/-- The phase order of an encoder transition (07 R226): a forward edge, a backward edge, or both phases changed
within one debounce time. -/
inductive Quad where
  | fwd | bwd | both
deriving DecidableEq, Repr

/-- What happens on a display's HPD line (11 R357). -/
inductive HpdEvent where
  | high
  | lowOver2ms
  | pulseLost
deriving DecidableEq, Repr

/-- Reply that ends an AUX transaction (11 R356, R377): bytes returned and the status code 0 to 4. -/
structure AuxReply where
  code : Nat
  data : List Byte
deriving DecidableEq, Repr

/-- What an Ethernet frame carries (12 R408). -/
inductive EthProto where
  | rrp (srcAddr : List Nat) (srcPort dstPort : Nat) (payload : List Byte)
  | posMsg (dstPort : Nat) (payload : List Byte)
  | gptp | eapol | arp | ndp | icmpEcho | ipFragment | other
deriving DecidableEq, Repr

/-- An Ethernet frame as the MAC hands it on (12 R409, R412, R413): its destination MAC address, its VLAN (0 where it is
untagged), the bytes of its SDU, the sequence number of its R-TAG, the IP address that it is for (that it asks for, of ARP and NDP)
as words like ETH.RRP_PEER_ADDR's, whether it is protected and its MACsec verdict, and what it carries. -/
structure EthFrameIn where
  dst : Nat
  vid : Nat
  size : Nat
  rtag : Option Nat
  ip : List Nat
  secured : Bool
  secOk : Bool
  proto : EthProto
deriving DecidableEq, Repr

/-- A gPTP synchronisation result (12 R411): the port, the role the algorithm gives, whether the follower is
locked, and the signed offset from the source in ns. -/
structure GptpIn where
  port : Nat
  role : Nat
  locked : Bool
  offset : Int
deriving DecidableEq, Repr

/-- Outcome of one training attempt of a Pelud port (12 R393, R394): good lanes at both ends, lane order. -/
structure TrainIn where
  ok : Bool
  good : Nat
  reversed : Bool
deriving DecidableEq, Repr

/-- A core's load or store (02 R32), or an atomic OR or add of a little-endian number (05 R167, R168). -/
inductive CoreAccess where
  | load (addr len : Nat)
  | store (addr : Nat) (data : List Byte)
  | atomicOr (addr : Nat) (data : List Byte)
  | atomicAdd (addr : Nat) (data : List Byte)
deriving DecidableEq, Repr

/-- What comes with ADMIT: whether the Supervisor's recomputation agrees (14 R459), what the schedules of the package's four
variants declare, and what the check bits find as the package is read. -/
structure AdmitIn where
  agree : Bool
  scheds : List Sched
  errs : MemErrs
deriving DecidableEq, Repr

/-- What comes with CRITICAL_COMPARE: the detection records that the programme has from the head's two runs for the band (08
R277), the operations of its third run, which the schedule issues where the two differ (R278), and what the check bits find as
the outputs are read. -/
structure CompareIn where
  detsA : List (List Byte)
  detsB : List (List Byte)
  third : List SchedOp
  errs : MemErrs
deriving DecidableEq, Repr

/-- What comes with CRITICAL_THIRD_RUN: the detection records of the three runs, and what the check bits find. -/
structure ThirdIn where
  detsA : List (List Byte)
  detsB : List (List Byte)
  detsC : List (List Byte)
  errs : MemErrs
deriving DecidableEq, Repr

/-- A detection record of a stream's ring (07 R253), and, where a critical head produced it, that head, its band and its run (08
R277). -/
structure DetIn where
  bytes : List Byte
  crit : Option (Nat × Nat × Nat)
deriving DecidableEq, Repr

/-- The commands, one constructor per row of spec/opcode_table.json. `wid` is the number the model gives a started
descriptor or an operation in flight; `width` counts bytes; `agree` says whether the Supervisor's recomputation agrees with
the Sprout's decision (14 R459). -/
inductive Instr where
  | registerWrite (w : Writer) (addr width : Nat) (value : Word)
  | loReadCapture (w : Writer) (addr width : Nat)
  | rcCounterRead (w : Writer) (addr width : Nat)
  | powerUp (group1 group2 refclk : Bool)
  | resetNRelease (bootSel : Nat) (nor : Nor)
  | resetNAssert
  | fullReset (order : ResetOrder)
  | partialReset (order : ResetOrder)
  | arrRangeTimeout
  | wavePowerUp (wave : Nat) (inRange : Bool)
  | podSelfTestDone (failed : List (Nat × Nat))
  | lpddrTrainingDone (gib failedMask : Nat)
  | marchBlockDone (result : MarchResult)
  | leekTestDone (fail0 fail1 : Option Nat)
  | microcodeLoaded
  | topoGo (w : Writer) (value : Word)
  | topoCtrlWrite (w : Writer) (value : Word)
  | imageVerify (stavcorOk certOk ownerOk : Bool)
  | offerTimer
  | offer (port : BootPort) (id len : Nat)
  | pull (port : Nat) (id chunk tag : Nat)
  | relayData (port : BootPort) (chunk tag : Nat) (data : List Byte)
  | sqDb (w : Writer) (pair : Nat) (value : Word)
  | cqDb (w : Writer) (pair : Nat) (value : Word)
  | resDb (w : Writer) (stream : Nat) (value : Word)
  | pairCfgWrite (w : Writer) (pair : Nat) (value : Word)
  | descriptorFetch
  | nop (wid : Nat)
  | arrayOp (wid : Nat)
  | conv (wid : Nat) (e : MemErrs)
  | convDw (wid : Nat) (e : MemErrs)
  | matmul (wid : Nat) (e : MemErrs)
  | wino3 (wid : Nat) (e : MemErrs)
  | s2d (wid : Nat) (e : MemErrs)
  | d2s (wid : Nat) (e : MemErrs)
  | pool (wid : Nat) (e : MemErrs)
  | argmaxC (wid : Nat) (e : MemErrs)
  | eltw (wid : Nat) (e : MemErrs)
  | convert (wid : Nat) (e : MemErrs)
  | copy (wid : Nat) (e : MemErrs)
  | measure (wid : Nat) (e : MemErrs)
  | prefetchBlock (stream wid addr dst step : Nat) (e : MemErrs)
  | multicastSlotRelease (dst member : Nat)
  | bandCounterWake (stream lidx band op rows : Nat)
  | tileCompletion (wid lidx tile : Nat)
  | operationComplete (wid : Nat)
  | partialCombine (stream band op : Nat) (e : MemErrs)
  | bandReady (stream : Nat) (ops : List SchedOp) (steps : List SchedStep)
  | bandKept (stream : Nat) (heads : List HeadResult)
  | preempt (wid : Nat)
  | dma (wid : Nat) (e : MemErrs)
  | dmaDone (wid : Nat)
  | admit_ (wid : Nat) (x : AdmitIn)
  | release (wid : Nat)
  | streamDrained (stream : Nat)
  | start (wid : Nat) (e : MemErrs)
  | resume (wid : Nat) (e : MemErrs)
  | halt (wid : Nat)
  | streamFault (stream : Nat) (f : FaultInfo)
  | haltRecord (stream : Nat)
  | cancel (wid : Nat)
  | cancelDrained (wid : Nat)
  | camCtrl (wid : Nat)
  | cameraAck (wid code : Nat) (data : List Byte)
  | camCtrlTimeout (wid : Nat)
  | flushTracks (wid : Nat)
  | flip (wid : Nat)
  | resultRing (wid : Nat)
  | attest (wid : Nat)
  | sign (wid : Nat)
  | hash (wid : Nat)
  | verify (wid : Nat) (valid : Bool)
  | seal (wid : Nat)
  | macsecCak (wid : Nat) (opened : Option (List Byte))
  | random (wid : Nat)
  | readCert (wid : Nat)
  | completionWrite (pair : Nat)
  | resultRecordWrite (stream : Nat)
  | coalesceTimer (pair : Nat)
  | open_ (sigOk : Bool)
  | openFragmentTimeout
  | doorbell (h : RrpHdr) (target n : Nat) (index : Word)
  | readResp (h : RrpHdr) (req : Nat) (data : List Byte)
  | ack (h : RrpHdr)
  | regRead (h : RrpHdr) (addr : Nat)
  | regWrite (h : RrpHdr) (addr : Nat) (value : Word)
  | keepalive (h : RrpHdr)
  | rrpRetransmit
  | lineHeader (port image line : Nat) (area gap triggered : Bool)
  | lineArrival (port : Nat) (pixels : List Nat) (bad : Bool)
  | cameraLinkUp (port lanes rate : Nat)
  | cameraEventPacket (port : Nat) (data : List Byte)
  | cameraLoss (port : Nat) (linkDown : Bool)
  | encoderEdge (e : Nat) (q : Quad)
  | triggerDeferred (chan : Nat)
  | odoSourceReturn
  | positionMessage (payload : List Byte)
  | correctionStart
  | ppsEdge
  | linePositionEval (chan : Nat)
  | outputLine (chan : Nat)
  | standstill (chan : Nat)
  | areaFrame (chan : Nat)
  | lineReserveRelease (chan : Nat)
  | degradeStep (stream : Nat)
  | shedStep
  | lineDueDeadline (chan : Nat)
  | returnStep (stream : Nat)
  | detection (stream : Nat) (x : DetIn)
  | watermark (group src time : Nat)
  | sourceTimeout (group src : Nat)
  | criticalCompare (stream head : Nat) (x : CompareIn)
  | criticalThirdRun (stream head : Nat) (x : ThirdIn)
  | spoolBufferRequest (stream : Nat) (ask : SpoolAsk)
  | spoolDeadlockCheck
  | spillRestore (stream : Nat)
  | enforcementWindow
  | ddrShareWrite (w : Writer) (value : Word)
  | selfRefreshEntry (pair : Nat)
  | rtbW3Write (w : Writer) (n : Nat) (value : Word)
  | windowCtrlWrite (w : Writer) (n : Nat) (value : Word)
  | resSet (w : Writer) (value : Word)
  | resClr (w : Writer) (value : Word)
  | autoRefill (stream : Nat)
  | poolAlloc (w : Writer) (p : Nat)
  | poolFree (w : Writer) (p : Nat) (value : Word)
  | leekHalfPowerDown (half : Nat)
  | displayEnable (d : Nat) (trains : List (Nat × Nat)) (psrSink : Bool)
  | displayDisable (w : Writer) (d : Nat)
  | hpdEvent (d : Nat) (ev : HpdEvent)
  | auxCmd (w : Writer) (d : Nat) (value : Word)
  | auxDone (d : Nat) (reply : AuxReply)
  | commit (w : Writer) (d : Nat) (value : Word)
  | frameLatch (d : Nat)
  | frameStart (d : Nat)
  | underrun (d : Nat)
  | linkFrame (port : Nat) (frame : LinkFrameIn)
  | linkAckTimeout (port : Nat)
  | linkRetry (port expected : Nat)
  | credit (port vc cells : Nat)
  | ident (port : Nat) (data : List Byte)
  | fabricWrite (p : Packet)
  | fabricRead (p : Packet)
  | readData (p : Packet)
  | done (p : Packet)
  | refuse (p : Packet)
  | assoc (p : Packet)
  | wmark (p : Packet)
  | e2eTimeout (tag : Nat)
  | assocResend
  | portTraining (port : Nat) (t : TrainIn)
  | portDown (port reason : Nat)
  | reconcileReq (port : Nat) (p : Packet)
  | reconcileRsp (port : Nat) (p : Packet)
  | reconcileTimeout (port : Nat)
  | routeNotice (port : Nat) (origin originPort pstate seq : Nat)
  | routeRebuild
  | portRetrain (port : Nat)
  | holdTimeout
  | ethFrame (q : Nat) (f : EthFrameIn)
  | gptpMessage (g : GptpIn)
  | syncTimeout
  | timeSet (w : Writer) (hi : Word)
  | qbvCycleStart (q : Nat)
  | mkaFailover (q : Nat)
  | sakRotate (q : Nat)
  | debugUnlock (valid : Bool)
  | governorTick (rates : List Nat) (power : Nat) (agree : Bool)
  | thermalTick (temps : List (Option Int))
  | hardwareTrip
  | supplyFault (rail : Nat) (microvolt : Int)
  | pllLockLoss (kind inst : Nat)
  | podFailure (pod : Nat) (agree : Bool)
  | conservationCheck
  | sproutHeartbeatTimeout
  | supervisorHeartbeatTimeout
  | idleEntry
  | dormantRequest (w : Writer) (value : Word)
  | wake (source : Nat) (digestOk : Bool)
  | maintStart (w : Writer) (value : Word) (agree : Bool)
  | maintStop (w : Writer) (value : Word)
  | maintPeriodicStart (activity target : Nat)
  | maintUnitDone (token : Nat) (last failed : Bool) (e : MemErrs)
  | consSnap (w : Writer) (value : Word)
  | cameraHeartbeat (port : Nat)
  | ethernetLinkChange (q : Nat) (up : Bool)
  | pllRelock (kind inst : Nat)
  | supplyRestored (rail : Nat)
  | suppliesRemoved
  | selfRefreshExit (pair : Nat)
  | wckDqCheck (ch : Nat)
  | perBankRefresh (ch accesses : Nat)
  | coreMemoryAccess (a : CoreAccess) (e : MemErrs)
deriving DecidableEq, Repr

end Sys2Proof
end

