-- ==== Sys2Proof/Decode.lean ====
section
/-! DEFINITION. The block has no instruction words: no row of spec/opcode_table.json gives bits, so no word spells a
command. Descriptors, which do have an encoding, are decoded in Machine/Operands.lean. -/
namespace Sys2Proof

/-- The command that a word spells: the table gives none. -/
def decodeTableWord (_nbits _w : Nat) : Option Instr := none

end Sys2Proof
end

