-- ==== Sys2Proof/Machine/State.lean ====
section
/-! DEFINITION. The state of the IXK-8400: plain data, one home for each piece of state the manual names
(INVENTORY.md lists them with their rules). Registers with no home of their own lie in `regs`, keyed by their
address less 0x60_0000_0000; the others are read out of the structure that is their home (Machine/Ops.lean). -/
namespace Sys2Proof.Machine

/-- A table of numbered things, sorted by number, each at most once. -/
abbrev Tab (α : Type) := List (Nat × α)

/-- Why the machine stops. -/
inductive Fault where
  /-- Raised by the supply rows only: a rail went beyond the absolute limits of 16 R512, after which no statement
  of the manual holds. Safe: the model says nothing where the manual says nothing. -/
  | beyondAbsoluteLimits
deriving DecidableEq, Repr

/-- Why a command has no meaning. -/
inductive Refusal where
  /-- Raised by an arm of Dispatch.lean that has no meaning yet. Safe: nothing is claimed of the command. -/
  | notModelled (mnemonic : String)
deriving DecidableEq, Repr

/-- Stream states (06 R193, R224). -/
inductive StState where
  | free | admitted | running | bypass | shed | halted | releasing
deriving DecidableEq, Repr

/-- Stream classes (06 R181). -/
inductive Cls where
  | lineLocked | deferrable
deriving DecidableEq, Repr

/-- A log entry (14 R465); a continuation entry holds its 12 bytes in `time` (8) and `arg` (4). -/
structure LogEntry where
  time : Nat
  code : Nat
  source : Nat
  flags : Nat
  arg : Nat
deriving DecidableEq, Repr

/-- Response of the last register or core access (00 R11, 02 R32). -/
structure Resp where
  value : Nat
  error : Bool
deriving DecidableEq, Repr

/-- A window entry that is not free (10 R320): `state` 1 held, 2 valid; `holder` the stream for which admission
reserved the entry, 0 for none. -/
structure Window where
  base : Nat
  len : Nat
  kind : Nat
  read : Bool
  write : Bool
  fabric : Bool
  tracked : Bool
  owner : Nat
  reader : Nat
  resFirst : Nat
  back : Nat
  auto : Bool
  state : Nat
  lock : Bool
  holder : Nat
deriving DecidableEq, Repr

/-- A Leek partition (05 R160, R164). -/
structure Part where
  stream : Nat
  half : Nat
  base : Nat
  len : Nat
deriving DecidableEq, Repr

/-- A frame pool's buffers (10 R332 to R336): held, pending, and the reader references as (buffer, holder of the
reference). -/
structure Pool where
  held : List Nat
  pending : List Nat
  refs : List (Nat × Nat)
deriving DecidableEq, Repr

/-- A variant cost record (05 R169). -/
structure Cost where
  beats : List Nat
  leekBytes : List Nat
  slots : List Nat
  ddrRead : Nat
  ddrWrite : Nat
  ddrRemote : Nat
  fabric : List Nat
  sbSlots : Nat
  trackSlots : Nat
  windows : Nat
  latBands : Nat
  bandLines : Nat
  latFixed : Nat
  edition : Nat
  mode : Nat
  streamedLayers : Nat
  streamedBytes : Nat
deriving DecidableEq, Repr

/-- A stream's result ring (09 R300, R301): records waiting in staging are 64 bytes each. -/
structure ResRing where
  base : Nat
  log2 : Nat
  tail : Nat
  cons : Nat
  staging : List (List Byte)
deriving DecidableEq, Repr

/-- How a piece of a band lies in the spool (06 R219, 04 R139): its bytes as they are, its bytes as zero-run segments, or the
slot of a segment that it was before, of so many source bytes. -/
inductive SpoolForm where
  | raw
  | packed
  | slot (n : Nat)
deriving DecidableEq, Repr

/-- A piece of a spooled band: the live address and length it was read from, its place in memory, and how it lies there. -/
structure SpoolPiece where
  live : Nat
  len : Nat
  at_ : Nat
  form : SpoolForm
deriving DecidableEq, Repr

/-- Run-time bounds of an operation: h, w, n and entry count (05 R157). -/
structure RtBound where
  h : Nat
  w : Nat
  n : Nat
  count : Nat
deriving DecidableEq, Repr

/-- A band spooled while its stream was shed or halted (06 R212, R219): its number, its place and bytes in the spool window,
its pieces, the bound words of the register sets that its operations name (05 R158), and the byte ranges that its operations
will write. -/
structure Spooled where
  band : Nat
  place : Nat
  size : Nat
  pieces : List SpoolPiece
  bounds : Tab RtBound
  made : List (Nat × Nat)
deriving DecidableEq, Repr

/-- The hold of a step of 02 R24 (06 R223): its length in band periods, and the elapsed times of the step's last taking
and last undoing. -/
structure Hold where
  periods : Nat
  took : Nat
  undone : Option Nat
deriving DecidableEq, Repr

/-- A critical head whose runs of the oldest band not kept have been compared (08 R277, R278): the outcome, 0 equal, 1
resolved by the third run, 2 not; the run whose result is released; and what the head's record holds: the tiles that differ,
the elements of its output, the output's address and the first differing tile. -/
structure CritDone where
  head : Nat
  outcome : Nat
  released : Nat
  tiles : Nat
  elements : Nat
  addr : Nat
  first : Nat
deriving DecidableEq, Repr

/-- A stream identifier's record (06 R193 to R224). -/
structure Stream where
  state : StState
  cause : Nat
  cls : Cls
  record : Bool
  pos : List Word
  variant : Nat
  cost : Cost
  maxRate : Nat
  reserve : Nat
  order : Nat
  camMask : Nat
  /-- first line of band 0 of each port: (port, sequence number) (06 R194) -/
  camBase : List (Nat × Nat)
  rsmpMask : Nat
  dispMask : Nat
  home : Nat
  ring : Option ResRing
  sched : Option Sched
  /-- in bypass under 02 R47, so that it takes no Return -/
  bypass47 : Bool
  /-- the stream was in BYPASS when it halted (06 R211) -/
  wasBypass : Bool
  /-- next band of the schedule to issue, and the first band not kept -/
  band : Nat
  kept : Nat
  /-- bands produced in bypass, and bands of which some output line was (06 R214) -/
  bypassed : List Nat
  bypassOut : List Nat
  /-- bands not kept in which an operation was empty, once for each (04 R142) -/
  empties : List Nat
  /-- lines produced in bypass in bands that are not, as (band, line of the band) (05 R159) -/
  bypassLines : List (Nat × Nat)
  /-- critical heads of the oldest band not kept whose runs have been compared (08 R277) -/
  critDone : List CritDone
  /-- critical heads and bands, and the run whose result was released, none where no output of the head for the band ever is
  (08 R278) -/
  critRuns : List (Nat × Nat × Option Nat)
  /-- detections in the stream's ring that have not gone to their homes, oldest first, each with the time of the first line of its
  band (07 R253, R254, 08 R277) -/
  dets : List (DetIn × Nat)
  /-- number of the first band whose input has not come (06 R212, R219) -/
  front : Nat
  /-- no further band is spooled (06 R219) -/
  spoolStop : Bool
  /-- fault detected, with its time, and the position record still to be written (06 R213 step 1) -/
  faulting : Option (FaultInfo × Nat)
  /-- step of 02 R24 taken, and the holds of steps 2 to 4 (06 R221 to R223) -/
  step : Nat
  hold2 : Hold
  hold4 : Hold
  /-- since when the margin has been at least 90 % of the reserve (06 R223) -/
  highSince : Option Nat
  /-- when a step was last undone, and the margin when a stream was last shed for it (06 R221, R223) -/
  lastUndo : Option Nat
  shedMargin : Nat
  /-- bands spooled while shed, oldest first (06 R219, 10 R337) -/
  spooled : List Spooled
  /-- pool buffers asked for and the time of asking (06 R217) -/
  wants : Option (Nat × Nat)
  /-- pool buffers spilled to the overflow window: the buffer and its place there (06 R218) -/
  spilled : List (Nat × Nat)
  /-- a buffer that lies in the reserve window: its base, length and new base (10 R340) -/
  moved : Option (Nat × Nat × Nat)
  /-- prefetch stopped at a block (10 R327) -/
  prefStop : Bool
  /-- bands wait for room in the result staging before they are kept (09 R301) -/
  stalled : Bool
deriving DecidableEq, Repr

/-- A completion or event waiting for its slot (09 R295). -/
structure Compl where
  /-- the work that ends with it, none for an event -/
  wid : Option Nat
  tag : Nat
  status : Nat
  opcode : Nat
  stream : Nat
  event : Bool
  slot : Option Nat
  detail : Nat
  notify : Bool
deriving DecidableEq, Repr

/-- A ring pair (09 R282 to R288, R299, R308). -/
structure Pair where
  fetch : Nat
  sqDb : Nat
  cqTail : Nat
  cqCons : Nat
  wait : List Compl
  events : List Compl
  stopped : Bool
  /-- a notification is due at this time (09 R308) -/
  timer : Option Nat
  /-- descriptors of a remote pair that READ_RESP brought (09 R312) -/
  fetched : Tab (List Byte)
  /-- fetches by other pairs since this pair became ready (09 R287) -/
  passed : Nat
  /-- ring indices not yet fetched that a CANCEL struck (09 R306) -/
  cancels : List Nat
deriving DecidableEq, Repr

/-- What the fetch engine has fetched ahead for an operation (05 R152, 06 R203): the tile step and the unit (a block of 4 KiB,
or the slot of a zero-run segment of `seg` source bytes), the logical indices it is for, and the bytes, by address. -/
structure Fetch where
  step : Nat
  unit : Nat
  seg : Option Nat
  members : List Nat
  pieces : List (Nat × List Byte)
deriving DecidableEq, Repr

/-- An array operation in flight: what the device read at issue (04 R99, R137; 05 R143, R154, R157), and the
tiles kept (05 R166), as (logical index, tile). -/
structure Op where
  block : List Byte
  map : List Byte
  scale : Option (List Nat)
  /-- standing scale entries as they stood at issue, by logical index and channel (03 R87, 00 R20) -/
  stand : Tab Nat
  lut : List Int
  exps : List Nat
  ptrs : List (List Byte)
  rt : Option RtBound
  band : Nat
  opIdx : Nat
  /-- run of a critical head: 0 the first, 1 the second, 2 the third (08 R276, R278) -/
  pass : Nat
  /-- addresses of the mapping records for 96, 95, ... active pods (05 R145) -/
  maps : List Nat
  /-- the critical head that the run belongs to (08 R276) -/
  head : Option Nat
  /-- how the reduction crosses devices (08 R261) -/
  cross : Option CrossOp
  kept : List (Nat × Nat)
  /-- tiles taken by a pod that then failed, still to be re-issued (05 R165) -/
  reissue : List (Nat × Nat)
  /-- what was fetched ahead (05 R152) -/
  fetched : List Fetch
  /-- blocks fetched again for a spare alone (05 R153) -/
  refetched : Nat
  /-- the last operation of its band (06 R199) -/
  last : Bool
  /-- counts that its keeping adds (03 R88): clips, escapes, full lists, saturations, rises, falls, direct-form tiles -/
  counts : List Nat
  /-- the adaptation record as its keeping leaves it: address and bytes (03 R92) -/
  adapt : Option (Nat × List Byte)
  /-- band counters that its tiles wait for: of the next band or its own, operation, rows (06 R200) -/
  waits : List (Bool × Nat × Nat)
  /-- a saturation of it has been logged (03 R79) -/
  satLogged : Bool
  /-- its LPDDR accesses have been requested (06 R208) -/
  asked : Bool
  /-- logical indices that stand at a preemption point (06 R196) -/
  stopped : List Nat
  /-- rows before this one are not written again: they are of bands before the one it restarted from (02 R47) -/
  fromRow : Nat
deriving DecidableEq, Repr

/-- How far a started descriptor or a scheduled operation has come. -/
inductive Phase where
  | fetched     -- started, its row not yet run
  | heldOff     -- ARRAY_OP of a stream in SHED or HALTED (09 R293)
  | running     -- issued, or a transfer under way
  | yielded     -- preempted (06 R196)
  | partials    -- partial blocks written, the combiner's sum to follow (08 R263)
  | computed    -- outputs written, its tiles' completions to follow
  | parked      -- preempted with tiles not yet kept (06 R196)
  | waiting     -- waits for an event: RELEASE, CANCEL, FLIP, HALT, CAM_CTRL
deriving DecidableEq, Repr

/-- A started descriptor (pair and ring index) or an operation its stream's schedule issued (no pair). -/
structure Work where
  pair : Option Nat
  index : Nat
  desc : List Byte
  stream : Nat
  slot : Option Nat
  phase : Phase
  op : Option Op
  status : Nat
  detail : Nat
  /-- CANCEL's count, CAM_CTRL's time of sending, FLIP's frame, DMA's credits -/
  aux : Nat
  /-- cancelled: it ends as cancelled (09 R306) -/
  cancelled : Bool
  /-- works a CANCEL or RELEASE waits for -/
  targets : List Nat
  /-- ring indices of posted descriptors that a CANCEL waits for -/
  posted : List Nat
  /-- bytes that came from a fabric node or the host, by source address (09 R292) -/
  buf : List (Nat × List Byte)
deriving DecidableEq, Repr

/-- A staging slot of the fetch engine (06 R203, 05 R152): its work, its block and place, and the members of its multicast
group that have not accepted it. -/
structure Staging where
  stream : Nat
  wid : Nat
  step : Nat
  src : Nat
  dst : Nat
  members : List Nat
deriving DecidableEq, Repr

/-- A line header as ingest takes it (06 R185, R188). -/
structure LineHdr where
  time : Nat
  image : Nat
  line : Nat
  area : Bool
  gap : Bool
  triggered : Bool
  trigPos : Nat
deriving DecidableEq, Repr

/-- A line stored in a camera's rings (06 R186 to R191). -/
structure LineRec where
  seq : Nat
  time : Nat
  gap : Bool
  replaced : Bool
  afterLoss : Bool
  image : Nat
  /-- a line before it was not stored, because the ring was full (02 R49) -/
  missed : Bool
  /-- row of an area frame, and the frame's number since Start; none for a frame that had begun before it (06 R197) -/
  area : Bool
  row : Nat
  frame : Option Nat
  /-- its row's token has not returned (06 R189) -/
  tok : Bool
deriving DecidableEq, Repr

/-- A camera port (06 R182 to R192): lines in its rings, newest first; the last heartbeat or discovery. -/
structure Camera where
  seq : Nat
  lastPixels : Option (List Nat)
  hdr : Option LineHdr
  lines : List LineRec
  evSeq : Nat
  heartbeat : Option Nat
  lost : Bool
  afterLoss : Bool
  /-- the newest image header: its number, its stamp and its newest line (06 R185) -/
  image : Option (Nat × Nat × Nat)
  /-- area frames begun since Start, and the image that was under way at Start (06 R197) -/
  frames : Nat
  skip : Option Nat
  /-- lines have not been stored since the newest one (02 R49) -/
  missed : Bool
  /-- positions of the triggers sent and not answered, oldest first (07 R248) -/
  trigs : List Nat
deriving DecidableEq, Repr

/-- An encoder input (07 R226, R227): accepted edges as a signed count, time of the last edge, and its samples,
newest first, as (time, distance in 2^-24 mm). -/
structure Encoder where
  count : Int
  lastEdge : Option Nat
  samples : List (Nat × Int)
deriving DecidableEq, Repr

/-- Odometry (07 R228 to R231): samples newest first as (time, position in 2^-24 mm before the 48-bit cut). -/
structure Odo where
  pos : Int
  samples : List (Nat × Int)
  /-- the encoder in use in mode 3, the distance last taken from the source, the time of the last difference -/
  using1 : Bool
  lastDist : Int
  diffAt : Option Nat
  /-- times in mode 2 at which a sample of the mean is still to be taken, in order (07 R228) -/
  means : List Nat
  /-- accepted messages whose correction has not begun, in order of their times, as (time, position), and the error still to be slewed, in
  2^-24 mm -/
  pending : List (Nat × Nat)
  remaining : Int
  lastSeq : Option Nat
deriving DecidableEq, Repr

/-- An input line whose position has been evaluated (07 R233). -/
structure PosLine where
  line : LineRec
  pos : Nat
deriving DecidableEq, Repr

/-- An output line held in the line reserve (02 R37, 06 R220). -/
structure OutRec where
  seq : Nat
  pos : Nat
  status : Nat
  ready : Nat
  due : Nat
deriving DecidableEq, Repr

/-- What one position of D receives, group by group, with its counts (03 R61, 07 R237). -/
structure PosOut where
  codes : List Int
  exps : List Int
  sides : List (List Byte)
  sums : List Int
  clips : List Bool
  escapes : Nat
  full : Nat
  ovf : Nat
  sat : Bool
deriving DecidableEq, Repr

/-- A row of an area output frame as it was made (07 R245, R250): its pixels, and the fields of its header. -/
structure FrameRow where
  px : List PosOut
  pos : Nat
  status : Nat
  time : Nat
  src : Nat
  phase : Nat
  rho : Nat
deriving DecidableEq, Repr

/-- A change of direction whose lines have not begun, because lines of the direction before are still to come (07 R234,
R242): when it took place, the extreme reached before it, and the first grid position after it with its direction. -/
structure Leg where
  at_ : Nat
  /-- when that extreme was reached -/
  since : Nat
  was : Nat
  first : Nat
  back : Bool
deriving DecidableEq, Repr

/-- A resampler channel that an admitted stream holds (07 R232 to R250): evaluated lines, newest first. -/
structure Chan where
  /-- motion: 1 forward, 2 reverse, 3 standstill, 4 reversal pending; 0 not held -/
  motion : Nat
  back : Bool
  extreme : Nat
  /-- grid position of the next output line, none before the first line; its direction; the changes of direction still to
  come for the lines -/
  next : Option Nat
  lineBack : Bool
  /-- when the extreme before that direction was reached, and the present one (07 R242) -/
  legFrom : Nat
  extremeAt : Nat
  legs : List Leg
  /-- the extreme at which standstill began, while it lasts (07 R241) -/
  stopAt : Option Nat
  lastMove : Nat
  lastMovePos : Nat
  lines : List PosLine
  coef : List Byte
  outSeq : Nat
  turn : Bool
  afterStop : Bool
  dirLast : Bool
  held : List OutRec
  /-- output lines released, oldest last -/
  released : Nat
  trigLast : Option Nat
  trigHeld : Option Nat
  /-- latches of the display whose area frames are still to be made, oldest first; the time of the last frame made for one,
  and the rows of the last frame (07 R249, R250) -/
  latches : List Nat
  lastOut : Nat
  lastFrame : List FrameRow
deriving DecidableEq, Repr

/-- A track (07 R258). -/
structure Track where
  slot : Nat
  serial : Nat
  pos : Nat
  closed : Bool
  lat : Int
  cls : Nat
  conf : Nat
  sightings : Nat
  cams : Nat
  firstPos : Nat
  lastPos : Nat
  lastTime : Nat
  along : Nat
  latExt : Nat
  stream : Nat
deriving DecidableEq, Repr

/-- A detection waiting for its place in the order of application (07 R254). -/
structure Det where
  time : Nat
  src : Nat
  cam : Nat
  index : Nat
  stream : Nat
  bytes : List Byte
deriving DecidableEq, Repr

/-- An association group (07 R252 to R259). -/
structure Group where
  record : List Byte
  streams : List Nat
  tracks : List Track
  marks : Tab Nat
  notAwaited : List Nat
  stalls : Tab Nat
  queue : List Det
  /-- order keys of the detections taken from other devices: (time, source, camera, index) -/
  seen : List (Nat × Nat × Nat × Nat)
  applied : Nat
  nextIndex : Nat
deriving DecidableEq, Repr

/-- A plane set that an output holds (11 R361, R364, R365): the record, the owner that committed it, the FLIP's
work if any, whether the commit was late, and the number under which it holds frame-pool references. -/
structure Plane where
  bytes : List Byte
  owner : Nat
  wid : Option Nat
  late : Bool
  holder : Nat
deriving DecidableEq, Repr

/-- Where an output's frame stands (11 R358): before its latch point, or in its vertical blanking. -/
inductive FramePart where
  | active | blank
deriving DecidableEq, Repr

/-- A display output (11 R352 to R376). -/
structure Disp where
  current : Option Plane
  pending : Option Plane
  faulted : Bool
  /-- enabled: the timing generator runs unless PSR stops it -/
  running : Bool
  part : FramePart
  /-- elapsed time at line 0 of the frame in progress -/
  started : Nat
  /-- frames started in a row with no set latched and none pending (11 R373) -/
  idle : Nat
  psr : Bool
  psrSink : Bool
  /-- the sink receives the frame in progress: its link has been up since line 0 (11 R357) -/
  linked : Bool
  /-- a set became current and its first frame has not started -/
  fresh : Bool
  /-- the frame in progress is recorded as aborted, and its underrun counted -/
  aborted : Bool
  underrun : Bool
  auxCmd : Nat
  /-- plane bytes in the pixel buffer, the reads of the frame made so far, and the chroma row in use (11 R369, R361) -/
  buf : List Byte
  fetched : Nat
  chroma : List Byte
  /-- the next line of the frame to be sent, and the number of lines that it has: fewer than v_active after an underrun with
  variable blanking (11 R371) -/
  line : Nat
  last : Nat
  /-- the line in which pixels of the frame were missing, and its pixels sent before -/
  under : Option (Nat × Nat)
  /-- elapsed time of the latch point, and of the last latch of a set in this blanking (11 R360) -/
  blankAt : Nat
  latchedAt : Option Nat
  /-- the timing generator starts anew: line 0 comes next (11 R374, R375) -/
  restart : Bool
deriving DecidableEq, Repr

/-- A sent link frame kept for retry (12 R382). -/
structure TxFrame where
  seq : Nat
  /-- the 256 bytes of its body, and the packets whose last byte lies in it -/
  body : List Byte
  packets : List Packet
  cvc : Nat
  ccnt : Nat
  resent : Nat
  sent : Nat
deriving DecidableEq, Repr

/-- A packet that waits to leave on a port: the input port, VC and cells that it still holds there, none for a packet of this
node's own (12 R385, 01 R23). -/
structure Waiting where
  packet : Packet
  holds : Option (Nat × Nat × Nat)
deriving DecidableEq, Repr

/-- A Pelud port (12 R378 to R405). -/
structure FPort where
  /-- bytes of a packet received in part (12 R379) -/
  rxPart : List Byte
  rxSeq : Nat
  txSeq : Nat
  retry : List TxFrame
  /-- cells per VC: granted by the peer, consumed, returned -/
  granted : List Nat
  consumed : List Nat
  returned : List Nat
  /-- cells of our own buffer in use per VC, to be returned to the peer -/
  owed : List Nat
  queue : List Waiting
  /-- the class served last in the first rank, and the input queue served last in each rank, for the rotation of 12 R386 -/
  lastClass : Nat
  lastInput : List Nat
  attempts : Nat
  reversed : Bool
  good : Nat
  peer : List Byte
  recorded : Option (List Byte)
  retrySince : Option Nat
  recon : Bool
  lastFrame : Nat
deriving DecidableEq, Repr

/-- A routed request without its response (12 R391): the work or stream it belongs to. -/
structure OutReq where
  tag : Nat
  packet : Packet
  wid : Option Nat
  stream : Nat
  sent : Nat
deriving DecidableEq, Repr

/-- The fabric router (12 R396 to R406). -/
structure Fab where
  ports : List FPort
  outstanding : List OutReq
  held : List (Packet × Nat)
  /-- links known to be out of routing, as (node, port), and those of the route table as last built (12 R398) -/
  excluded : List (Nat × Nat)
  built : List (Nat × Nat)
  /-- a notice has come since the last rebuild -/
  rebuild : Bool
  notices : List (Nat × Nat × Nat)
  noticeSeq : Nat
  nextTag : Nat
deriving DecidableEq, Repr

/-- An image being pulled (12 R406, 13 R420). -/
structure Pull where
  port : BootPort
  id : Nat
  len : Nat
  data : List Byte
  chunks : Nat
  early : List (Nat × List Byte)
deriving DecidableEq, Repr

/-- A verified image (15 R476, R488): its header bytes 0 to 255 and the bytes as offered. -/
structure Image where
  header : List Byte
  bytes : List Byte
deriving DecidableEq, Repr

/-- The start sequence (13 R415 to R436). -/
structure Boot where
  bootSel : Nat
  nor : Nor
  quick : Bool
  residue : Nat
  /-- kind of start under way: 0 full, 1 partial, 2 Dormant exit (14 R467 code 0x0001) -/
  kind : Nat
  /-- step 11 had passed before a partial reset (13 R440 step 8) -/
  wasReady : Bool
  /-- waves powered and waves that failed, of the present step 6 (13 R421) -/
  waves : List Nat
  failedWaves : List Nat
  marchDone : Bool
  pull : Option Pull
  offers : List (BootPort × Nat × Nat)
  topo : Option (List Byte)
  diffs : List (List Byte)
  /-- partial reset in its steps 1 to 3 with the partition held unpowered by a trip (14 R450) -/
  tripped : Bool
  /-- step of 13 R417 in progress, whichever the kind of start; 0 while the device is held in reset, 12 once the
  start has ended, 13 once it has failed or while a trip holds it -/
  step : Nat
  /-- the application cores are released (09 R317) -/
  cores : Bool
  /-- the microcode digest of the save area matches the always-on copy (14 R454 step 5) -/
  digestOk : Bool
  /-- bytes of a topology record being read from the host, and how many are still to come (13 R433) -/
  topoBuf : List (Nat × List Byte)
  topoLeft : Nat
  /-- reads of the record that wait for room among the READ_REQs outstanding (09 R313) -/
  topoWant : List (Nat × Nat)
deriving DecidableEq, Repr

/-- Pods (13 R421 to R425, 14 R456): good physical pods, those fenced in service, the physical pod of each
logical index, and the spares. -/
structure Pods where
  good : List Nat
  fenced : List Nat
  lmap : List Nat
  spares : List Nat
  /-- waves that failed to power, as MGMT.HARVEST_STATUS shows them (13 R421, R443) -/
  failedWaves : List Nat
  /-- edition and cost column stand for fewer than 88 pods (02 R48) -/
  below : Bool
  selfTest : Option Nat
  /-- spare that the last periodic self-test took (14 R460) -/
  lastTest : Option Nat
deriving DecidableEq, Repr

/-- Pins and rails (16 R504 to R511): in range per rail of R504, and the levels the device drives or samples. -/
structure Pins where
  rails : List Bool
  refclk : Bool
  resetN : Bool
  arrEn : Bool
  thermTripN : Bool
  ddrResetN : Bool
  lasers : Bool
deriving DecidableEq, Repr

/-- Power control (14 R448 to R454). -/
structure Power where
  /-- 0 Active, 1 Idle, 2 entering or in Dormant, 3 leaving Dormant, as PWR.STATE.state -/
  mode : Nat
  dormant : Bool
  /-- hardware trip: only a full reset or power-off leaves it (14 R450) -/
  tripLatched : Bool
  limiter : Bool
  powerCap : Option Nat
  thermCap : Option Nat
  lastRaise : Nat
  /-- when the voltage was last lowered for heat or power (14 R449, R450) -/
  lastLower : Nat
  lastArray : Nat
  /-- elapsed time of the last periodic start under each token (14 R460) -/
  maintAt : Tab Nat
  invalidSince : Option Nat
  saved : Option (Tab Window × List (Nat × Nat) × Tab Part)
  /-- PLLs without lock, as (domain kind, index) -/
  unlocked : List (Nat × Nat)
  /-- elapsed time at which the array rail's supply fault was found (14 R455 class 9) -/
  arrOutAt : Option Nat
  /-- elapsed times of the last encoder edges accepted in Dormant, newest first, by input (14 R454) -/
  wakeEdges : Tab (List Nat)
deriving DecidableEq, Repr

/-- A conserved pool's counters (14 R463, R464). -/
structure Cons where
  issued : Nat
  returned : Nat
  outstanding : Nat
  capacity : Nat
  failed : Nat
deriving DecidableEq, Repr

/-- A maintenance token that is held (14 R460, R469). -/
structure Token where
  activity : Nat
  target : Nat
  stop : Bool
deriving DecidableEq, Repr

/-- An adopted owner (15 R478 to R480). -/
structure Owner where
  key : List Byte
  number : Nat
  commanders : List (List Byte)
  requireOwner : Bool
  cert : List Byte
deriving DecidableEq, Repr

/-- A CAK slot (15 R491). -/
structure Cak where
  port : Nat
  slot : Nat
  ckn : List Byte
  cak : List Byte
deriving DecidableEq, Repr

/-- The security engine (15 R471 to R495). -/
structure Sec where
  keyReady : Bool
  owner : Option Owner
  debug : Bool
  bootId : Nat
  resets : Nat
  mgmt : Option Image
  pod : Option Image
  openTimes : Tab Nat
  caks : List Cak
  /-- per port: live peer, on secondary slot, SAK rotations -/
  live : List Bool
  secondary : List Bool
  rotations : List Nat
deriving DecidableEq, Repr

/-- An RRP message that is not acknowledged, how often it has been resent and when it was last sent (09 R312, R313). -/
structure RrpMsg where
  seq : Nat
  type : Nat
  payload : List Byte
  retries : Nat
  sent : Nat
deriving DecidableEq, Repr

/-- An RRP message held during a partial reset (09 R316). -/
inductive HeldMsg where
  | doorbell (target n : Nat) (index : Word)
  | readResp (req : Nat) (data : List Byte)
  | regRead (addr : Nat)
  | regWrite (addr : Nat) (value : Word)
  | open_ (sigOk : Bool)
deriving DecidableEq, Repr

/-- The RRP session (09 R309 to R316, 15 R481 to R483). -/
structure Rrp where
  /-- 0 closed, 1 open, 2 lost -/
  state : Nat
  session : Nat
  rxSeq : Nat
  txSeq : Nat
  /-- messages not acknowledged, oldest first; those after the first 256 wait to be sent -/
  unacked : List RrpMsg
  reads : Tab (Nat × Nat × Nat)
  nextRead : Nat
  /-- OPEN fragments: session, n, received by index, time of the first, source address and port -/
  fragSession : Nat
  fragCount : Nat
  frags : Tab (List Byte)
  fragTime : Nat
  srcAddr : List Nat
  srcPort : Nat
  bound : Bool
  /-- messages held during a partial reset (09 R316), as (seq, time of arrival, message) -/
  heldMsgs : List (Nat × Nat × HeldMsg)
deriving DecidableEq, Repr

/-- Ethernet (12 R408 to R413). -/
structure Eth where
  gateLists : List (List (Nat × Nat))
  newList : List Bool
  follower : Option Nat
  /-- phase still to be slewed into the time base, ns -/
  slew : Int
  setAtPps : Option Nat
  /-- of each receive stream (12 R412): the sequence number it stands at, the numbers before it seen, one bit each, and the elapsed
  time of the last frame it passed -/
  frer : Tab (Nat × Nat × Nat)
  /-- of each flow meter (12 R412): its two token counts, in units of 10⁻⁶ bit, and the elapsed time they hold for -/
  meters : Tab (Nat × Nat × Nat)
deriving DecidableEq, Repr

/-- LPDDR state that rows show (06 R207, R208, 10 R345, R346): the start of the enforcement window, the accesses that
line-locked streams made in it, as (stream, class 0 read, 1 write or 2 remote, count), those that wait for a later window in
the same form, the accesses that refresh took from it, the channel pairs in self refresh, the time of each channel's last WCK-to-DQ check, and a share held back. -/
structure Ddr where
  /-- link ECC as the last training set it (10 R350) -/
  linkEcc : Bool
  /-- elapsed time of each channel pair's last request (10 R346) -/
  touched : Tab Nat
  window : Nat
  used : List (Nat × Nat × Nat)
  queued : List (Nat × Nat × Nat)
  refreshTaken : Nat
  selfRefresh : List Nat
  wckAt : Tab Nat
  heldShare : Option Word
deriving DecidableEq, Repr

/-- What the device has sent that no buffer keeps: trigger packets, interrupts, boot messages (output trace). -/
inductive OutMsg where
  | irq (source : Nat)
  | trigger (port pos : Nat)
  /-- a PULL packet over UDP to a boot server's link-local address (13 R419) -/
  | ethPull (q : Nat) (server : List Nat) (packet : List Byte)
  | camera (port dir addr len : Nat) (data : List Byte)
  /-- an AUX transaction: its command, and the bytes it writes (11 R356) -/
  | aux (d cmd : Nat) (data : List Byte)
  /-- what the link tells the sink of a frame: the timing with its sync positions, colorimetry and range (11 R358, R363) -/
  | frame (d number : Nat) (attrs : List Nat)
  /-- entry to and exit from panel self refresh (11 R373, R374) -/
  | psr (d : Nat) (entry : Bool)
  /-- the pixels of a line on a display link, three components each (11 R363) -/
  | pixels (d frame line : Nat) (px : List (Nat × Nat × Nat))
  | rrpAck (ack : Nat)
  /-- IDENT on a fabric port (12 R393) -/
  | ident (port : Nat) (data : List Byte)
  /-- an RRP message outside the open session, to the source of a datagram -/
  | rrpTo (addr : List Nat) (port session type : Nat) (payload : List Byte)
  /-- an answer of a protocol that ends in the port: 0 ARP, 1 NDP, 2 ICMP echo -/
  | ethReply (q kind : Nat)
  | assocResult (stream : Nat) (rec : List Byte)
deriving DecidableEq, Repr

/-- The IXK-8400. -/
structure State where
  /-- commands that wait, first in, first out (the model's own) -/
  pending : List Instr
  /-- the TSN time base, ns (12 R410), and the ns elapsed since power-on, which no step of the time base moves -/
  time : Nat
  elapsed : Nat
  regs : Tab Word
  held : Tab Word
  capture : Tab Word
  shadow : Tab Word
  resp : Resp
  mem : List Host.Cell
  poison : List Nat
  log : List LogEntry
  logHead : Nat
  wins : Tab Window
  resident : List (Nat × Nat)
  pools : Tab Pool
  parts : Tab Part
  leekUp : List Bool
  streams : Tab Stream
  admitSeq : Nat
  spool : Tab Nat
  pairs : Tab Pair
  lastPair : Nat
  works : Tab Work
  /-- number of the next work; 0 holds no reference, and 1 to 4 hold those of the displays' plane sets -/
  nextWid : Nat
  slots : Tab Nat
  staging : List Staging
  /-- elapsed times at which a stream was last shed and last restored (06 R221, R223) -/
  shedAt : Option Nat
  restoredAt : Option Nat
  /-- hold of step 3, which is the device's (06 R221, R223) -/
  hold3 : Hold
  /-- numbers of array operations that have ended, whose late completions are duplicates (05 R166) -/
  endedOps : List Nat
  cams : Tab Camera
  encs : Tab Encoder
  odo : Odo
  chans : Tab Chan
  groups : Tab Group
  /-- serial of this home's next track (07 R257) -/
  trackSerial : Nat
  disps : Tab Disp
  fab : Fab
  boot : Boot
  pods : Pods
  pins : Pins
  power : Power
  cons : List Cons
  snap : List Cons
  tokens : Tab Token
  sec : Sec
  rrp : Rrp
  eth : Eth
  ddr : Ddr
  out : List OutMsg
  /-- number of the next free value (the model's own) -/
  freeNo : Nat
deriving DecidableEq, Repr

/-- Capacities of the conserved pools before any configuration (14 R463): pools whose capacity follows from a
partition, SPOOL_CFG, a POOL.CFG, a link or a ring hold 0 until those set it. -/
def consCapacities : List Nat :=
  [1024, 40960, 256, 64, 512, 0, 1024, 0] ++ List.replicate 8 0 ++ List.replicate 6 0 ++ List.replicate 16 0 ++ [19]

/-- Every pool with nothing issued. -/
def consReset : List Cons :=
  consCapacities.map fun c => ⟨0, 0, 0, c, 0⟩

/-- A Pelud port before training. -/
def FPort.reset : FPort :=
  { rxPart := [], rxSeq := 0, txSeq := 0, retry := [], granted := List.replicate 10 0, consumed := List.replicate 10 0,
    returned := List.replicate 10 0, owed := List.replicate 10 0, queue := [], lastClass := 0, lastInput := [0, 0, 0, 0],
    attempts := 0, reversed := false, good := 0, peer := [], recorded := none, retrySince := none, recon := false, lastFrame := 0 }

def Fab.reset : Fab :=
  { ports := List.replicate 6 FPort.reset, outstanding := [], held := [], excluded := [], built := [], rebuild := false,
    notices := [], noticeSeq := 0, nextTag := 0 }

def Odo.reset : Odo :=
  { pos := 0, samples := [], using1 := false, lastDist := 0, diffAt := none, means := [], pending := [], remaining := 0,
    lastSeq := none }

/-- Little-endian bytes of a number (00 R8). -/
def leBytes : Nat → Nat → List Byte
  | 0, _ => []
  | n + 1, v => BitVec.ofNat 8 v :: leBytes n (v / 256)

/-- The identity record that the model's part carries: format 1, signed length 4,096, stepping 0xB0, grade H and
its shipped limits (13 R437, R439); the rest of the signed bytes 0 (DESIGN CHOICE, log entry 3). -/
def norReset : Nor :=
  { bytes := leBytes 4 1 ++ leBytes 4 4096 ++ List.replicate 14 0 ++ [0xB0, 0] ++ leBytes 2 900 ++ leBytes 2 850 ++
      leBytes 2 600 ++ leBytes 2 1520 ++ leBytes 2 1050 ++ List.replicate 8689 0,
    sigOk := true, keyOk := true }

def Boot.reset : Boot :=
  { bootSel := 0, nor := norReset, quick := false, residue := 0, kind := 0, wasReady := false, waves := [],
    failedWaves := [], marchDone := false, pull := none, offers := [], topo := none, diffs := [], tripped := false, step := 0,
    cores := false, digestOk := true, topoBuf := [], topoLeft := 0, topoWant := [] }

def Pods.reset : Pods :=
  { good := [], fenced := [], lmap := [], spares := [], failedWaves := [], below := false, selfTest := none, lastTest := none }

/-- Full reset holds ARR_EN low, the DDR resets low and every laser off (16 R508, R509); THERM_TRIP_N is high. -/
def Pins.reset : Pins :=
  { rails := List.replicate 11 false, refclk := false, resetN := false, arrEn := false, thermTripN := true,
    ddrResetN := false, lasers := false }

def Power.reset : Power :=
  { mode := 0, dormant := false, tripLatched := false, limiter := false, powerCap := none, thermCap := none,
    lastRaise := 0, lastLower := 0, lastArray := 0, maintAt := [], invalidSince := none, saved := none, unlocked := [],
    arrOutAt := none, wakeEdges := [] }

def Sec.reset : Sec :=
  { keyReady := false, owner := none, debug := false, bootId := 0, resets := 0, mgmt := none, pod := none,
    openTimes := [], caks := [], live := [false, false], secondary := [false, false], rotations := [0, 0] }

def Rrp.reset : Rrp :=
  { state := 0, session := 0, rxSeq := 0, txSeq := 0, unacked := [], reads := [], nextRead := 0,
    fragSession := 0, fragCount := 0, frags := [], fragTime := 0, srcAddr := [0, 0, 0, 0], srcPort := 0,
    bound := false, heldMsgs := [] }

def Eth.reset : Eth :=
  { gateLists := [[], []], newList := [false, false], follower := none, slew := 0,
    setAtPps := none, frer := [], meters := [] }

def Ddr.reset : Ddr :=
  { linkEcc := false, touched := [], window := 0, used := [], queued := [], refreshTaken := 0, selfRefresh := [], wckAt := [], heldShare := none }

/-- The machine in full reset after power-on, before step 1 of the start sequence (13 R417, 16 R508). -/
def State.reset : State :=
  { pending := [], time := 0, elapsed := 0, regs := [], held := [], capture := [], shadow := [], resp := ⟨0, false⟩, mem := [],
    poison := [], log := [], logHead := 0, wins := [], resident := [], pools := [], parts := [],
    leekUp := [false, false], streams := [], admitSeq := 0, spool := [], pairs := [], lastPair := 0, works := [],
    nextWid := 16, slots := [], staging := [], shedAt := none, restoredAt := none, hold3 := ⟨16, 0, none⟩, endedOps := [], cams := [], encs := [],
    odo := Odo.reset, chans := [], groups := [], trackSerial := 0, disps := [], fab := Fab.reset, boot := Boot.reset,
    pods := Pods.reset, pins := Pins.reset, power := Power.reset, cons := consReset, snap := consReset.map
      fun c => (⟨0, 0, 0, 0, c.failed⟩ : Cons), tokens := [], sec := Sec.reset, rrp := Rrp.reset, eth := Eth.reset, ddr := Ddr.reset,
    out := [], freeNo := 0 }

end Sys2Proof.Machine
end

