-- ==== Sys2Proof/Machine/Arith.lean ====
section
/-! DEFINITION. The manual's notation as functions: bit fields, little-endian bytes, the named narrowings of
00 R21, serial comparison, and numbered tables. -/
namespace Sys2Proof.Machine

/-- Field [hi:lo] of a word (00 R7). -/
def f (v hi lo : Nat) : Nat := (v >>> lo) % 2 ^ (hi + 1 - lo)

/-- The word with field [hi:lo] set. -/
def setF (v hi lo x : Nat) : Nat := v - f v hi lo * 2 ^ lo + x % 2 ^ (hi + 1 - lo) * 2 ^ lo

/-- The bits that a mask selects from one number, the others from another. -/
def blend (mask v x : Nat) : Nat := x ^^^ (x &&& mask) ^^^ (v &&& mask)

/-- Bit [n] as a truth value. -/
def bitOf (v n : Nat) : Bool := v / 2 ^ n % 2 == 1

/-- A truth value as a bit. -/
def b2n (b : Bool) : Nat := if b then 1 else 0

/-- The signed value of the low n bits. -/
def sx (n v : Nat) : Int :=
  let u := v % 2 ^ n
  if 2 * u < 2 ^ n then (u : Int) else (u : Int) - 2 ^ n

/-- The low n bits of an integer (00 R21 `low`). -/
def low (x : Int) (n : Nat) : Nat := (x % (2 ^ n : Int)).toNat

/-- 00 R21 `round_even`: shift right by k, to nearest, ties to even. -/
def roundEven (x : Int) (k : Nat) : Int :=
  let q := x / (2 ^ k : Int)
  let r := x - q * 2 ^ k
  if 2 * r < 2 ^ k then q else if 2 ^ k < 2 * r then q + 1 else if q % 2 = 0 then q else q + 1

/-- 07 R233 `round_even_div`: exact division to nearest, ties to even (d positive). -/
def roundEvenDiv (x : Int) (d : Nat) : Int :=
  let q := x / (d : Int)
  let r := x - q * d
  if 2 * r < d then q else if (d : Int) < 2 * r then q + 1 else if q % 2 = 0 then q else q + 1

/-- Clamp to [lo, hi] (00 R21 `saturate`). -/
def clamp (lo hi x : Int) : Int := if x < lo then lo else if hi < x then hi else x

/-- Largest and least value of a signed n-bit integer. -/
def smax (n : Nat) : Int := 2 ^ (n - 1) - 1
def smin (n : Nat) : Int := -(2 ^ (n - 1))

/-- Saturate to signed n bits, with whether it changed the value. -/
def satS (n : Nat) (x : Int) : Int × Bool :=
  let y := clamp (smin n) (smax n) x
  (y, decide (y ≠ x))

/-- Ceiling division; 0 for a divisor of 0. -/
def ceilDiv (a b : Nat) : Nat := (a + b - 1) / b

/-- The number little-endian bytes hold (00 R8). -/
def leNat : List Byte → Nat
  | [] => 0
  | b :: bs => b.toNat + 256 * leNat bs

/-- Bytes [at, at + n) of a structure; bytes beyond its end read 0. -/
def slice (l : List Byte) (start n : Nat) : List Byte :=
  let x := (l.drop start).take n
  x ++ List.replicate (n - x.length) 0

/-- The little-endian number in n bytes at a place of a structure. -/
def leAt (l : List Byte) (start n : Nat) : Nat := leNat ((l.drop start).take n)

/-- A structure with bytes replaced at a place. -/
def patch (l : List Byte) (start : Nat) (b : List Byte) : List Byte :=
  l.take start ++ b ++ l.drop (start + b.length)

/-- Every byte of a range is 0. -/
def zeroAt (l : List Byte) (start n : Nat) : Bool := ((l.drop start).take n).all fun b => b == 0

/-- Serial comparison: a at or after b, modulo 2^n (06 R198, 07 R232, 09 R283). -/
def serialGe (n a b : Nat) : Bool := decide ((a + 2 ^ n - b % 2 ^ n) % 2 ^ n < 2 ^ (n - 1))

/-- Signed difference a − b modulo 2^n. -/
def serialDiff (n a b : Nat) : Int := sx n ((a + 2 ^ n - b % 2 ^ n) % 2 ^ n)

/-- The entry of a numbered table. -/
def tget {α : Type} : Tab α → Nat → Option α
  | [], _ => none
  | (k, v) :: t, n => if k = n then some v else tget t n

/-- The table with an entry set, kept sorted by number. -/
def tset {α : Type} : Tab α → Nat → α → Tab α
  | [], n, v => [(n, v)]
  | (k, w) :: t, n, v => if n < k then (n, v) :: (k, w) :: t else if k = n then (n, v) :: t else (k, w) :: tset t n v

/-- The table without an entry. -/
def tdel {α : Type} : Tab α → Nat → Tab α
  | [], _ => []
  | (k, w) :: t, n => if k = n then t else (k, w) :: tdel t n

/-- The lowest number below a bound that a predicate accepts. -/
def lowest (bound : Nat) (p : Nat → Bool) : Option Nat := (List.range bound).find? p

/-- List with entry i replaced by a function of it. -/
def modAt {α : Type} (l : List α) (i : Nat) (g : α → α) : List α :=
  match l, i with
  | [], _ => []
  | a :: t, 0 => g a :: t
  | a :: t, n + 1 => a :: modAt t n g

/-- Insertion into a list sorted by a key. -/
def insertBy {α : Type} (le : α → α → Bool) (a : α) : List α → List α
  | [] => [a]
  | b :: t => if le a b then a :: b :: t else b :: insertBy le a t

/-- A list sorted by a relation (insertion sort). -/
def sortBy {α : Type} (le : α → α → Bool) : List α → List α
  | [] => []
  | a :: t => insertBy le a (sortBy le t)

/-- Sum of a list of numbers. -/
def sumN (l : List Nat) : Nat := l.foldl (· + ·) 0

/-- Largest of a list of numbers, 0 for none. -/
def maxN (l : List Nat) : Nat := l.foldl max 0

/-- The indices of the bits set in an n-bit mask. -/
def bitsOf (n m : Nat) : List Nat := (List.range n).filter (bitOf m)

/-- Ranges in the order of their addresses, those that touch or overlap joined. -/
def joinRanges : List (Nat × Nat) → List (Nat × Nat)
  | [] => []
  | r :: rs => match joinRanges rs with
    | [] => [r]
    | q :: qs => if q.1 ≤ r.1 + r.2 then (r.1, max (r.1 + r.2) (q.1 + q.2) - r.1) :: qs else r :: q :: qs

/-- The same bytes as disjoint ranges in ascending order. -/
def mergeRanges (l : List (Nat × Nat)) : List (Nat × Nat) :=
  joinRanges (sortBy (fun a b => decide (a.1 ≤ b.1)) (l.filter fun r => r.2 != 0))

/-- What of a range lies outside another. -/
def cutRange (r c : Nat × Nat) : List (Nat × Nat) :=
  let hi := r.1 + r.2
  let lo := c.1 + c.2
  ([(r.1, min hi c.1 - r.1), (max r.1 lo, hi - max r.1 lo)]).filter fun x => x.2 != 0

/-- What of ranges lies outside every one of some others. -/
def cutRanges (l cut : List (Nat × Nat)) : List (Nat × Nat) :=
  cut.foldl (fun l c => l.flatMap fun r => cutRange r c) l

end Sys2Proof.Machine
end

