-- ==== Sys2Proof/Machine/Flags.lean ====
section
/-! DEFINITION. The arithmetic that fixes every bit, and the counts and flags that go with it: accumulation,
partial forms, the drain's scale stage, conversion to code, adaptation, and the output lines' status word
(03 R73 to R94, 04 R125 to R136, 08 R262 to R264, 07 R246). -/
namespace Sys2Proof.Machine

/-! ### Accumulation (03 R77 to R84, 08 R264) -/

/-- 03 R77: a group total at its alignment shift. -/
def alignTotal (total sh : Int) : Int :=
  if 0 ≤ sh then total * 2 ^ sh.toNat else roundEven total (-sh).toNat

/-- 03 R78, R79: the sum of aligned totals in s48, sticky at the end it passes. -/
def accumulate : Int → List Int → Int × Bool
  | acc, [] => (acc, false)
  | acc, t :: ts =>
    if smax 48 < acc + t then (smax 48, true)
    else if acc + t < smin 48 then (smin 48, true)
    else accumulate (acc + t) ts

/-- 08 R262: smallest f from 0 to 29 whose rounding fits 19 bits, searched from a start. -/
def fastShift (p : Int) : Nat → Nat → Option Nat
  | 0, _ => none
  | n + 1, k =>
    let m := roundEven p k
    if -262144 ≤ m ∧ m ≤ 262143 then some k else fastShift p n (k + 1)

/-- 08 R262: the 24-bit form (f, m) of a partial and whether it was clamped. -/
def fastForm (p : Int) : Nat × Int × Bool :=
  match fastShift p 30 0 with
  | some k => (k, roundEven p k, false)
  | none => (29, 262143, true)

/-- The value a partial is carried as, and whether it was clamped (08 R262). -/
def carried (exact : Bool) (p : Int) : Int × Bool :=
  if exact then (p, false) else
  let x := fastForm p
  (x.2.1 * 2 ^ x.1, x.2.2)

/-- The bytes of a partial in its block (08 R262, R263). -/
def partialBytes (exact : Bool) (p : Int) : List Byte :=
  if exact then leBytes 6 (low p 48) else
  let x := fastForm p
  leBytes 3 (x.1 * 2 ^ 19 + low x.2.1 19)

/-- The value of a carried partial, from its bytes (08 R262). -/
def partialValue (exact : Bool) (b : List Byte) : Int :=
  if exact then sx 48 (leNat b) else sx 19 (leNat b) * 2 ^ (f (leNat b) 23 19)

/-- Partials combined: the value, the saturations that count, and whether a partial was clamped (08 R262). -/
structure Combined where
  v : Int
  ovf : Nat
  clamped : Bool
deriving DecidableEq, Repr

/-- 08 R264: the exact sum of the carried partials, saturated to s48 once. Nothing crosses where one pod forms the whole
(08 R265); where the reduction is divided every partial is carried, the combiner's own as well (08 R261). -/
def combine (crosses exact : Bool) (parts : List Int) : Combined :=
  let c := parts.map fun p => if crosses then carried exact p else (p, false)
  let r := satS 48 (c.foldl (fun a x => a + x.1) 0)
  ⟨r.1, (c.filter (·.2)).length + b2n r.2, c.any (·.2)⟩

/-! ### Working values and stages (04 R131, R132, 03 R86) -/

/-- 04 R131 `align`: an element at e_ref, with whether it saturated. -/
def alignValue (x z e eref : Int) : Int × Bool :=
  let d := e - eref
  if 0 ≤ d then satS 48 ((x - z) * 2 ^ d.toNat) else (roundEven (x - z) (-d).toNat, false)

/-- 03 R86: the channel-scale stage. -/
def scaleStage (v : Int) (entry : Nat) : Int × Bool :=
  let sh := sx 8 (f entry 23 16)
  let m : Int := (f entry 15 0 : Nat)
  if bitOf entry 31 then satS 48 (roundEven (v * m) (15 + sh).toNat)
  else if 0 ≤ sh then (roundEven v sh.toNat, false)
  else satS 48 (v * 2 ^ (-sh).toNat)

/-- 03 R86: the legal entries of a scale table, bits [30:24] included (00 R516). -/
def scaleEntryOk (v : Nat) : Bool :=
  let sh := sx 8 (f v 23 16)
  f v 30 24 == 0 && (if bitOf v 31 then decide (-15 ≤ sh ∧ sh ≤ 32) else decide (-16 ≤ sh ∧ sh ≤ 47))

/-- 04 R136: a WIDE output of `bits` bits. -/
def wideOut (v eref wexp : Int) (bits : Nat) : Int × Bool :=
  let q := if eref ≤ wexp then roundEven v (wexp - eref).toNat else v * 2 ^ (eref - wexp).toNat
  satS bits q

/-! ### Conversion to code (03 R73 to R75) -/

/-- Outcome of one conversion: the code, the side-list entry it writes, whether it clipped. -/
structure Conv where
  code : Int
  entry : Option Int
  clipped : Bool
deriving DecidableEq, Repr

/-- Least and largest ordinary code (03 R54). -/
def codeMin (n8 side : Bool) : Int := (if n8 then -128 else -8) + (if side then 1 else 0)

def codeMax (n8 : Bool) : Int := if n8 then 127 else 7

/-- 03 R73 step 1, before the zero point is added. -/
def rescale (v esrc et : Int) : Int :=
  if esrc ≤ et then roundEven v (et - esrc).toNat else v * 2 ^ (esrc - et).toNat

/-- 03 R73: conversion of v at exponent esrc to a code at exponent et and zero point z; `room` says whether the
group's side list has a free slot. -/
def toCode (v esrc et z : Int) (n8 side room : Bool) : Conv :=
  let q := rescale v esrc et + z
  if codeMin n8 side ≤ q ∧ q ≤ codeMax n8 then ⟨q, none, false⟩
  else if side ∧ room ∧ -32768 ≤ q ∧ q ≤ 32767 then ⟨if n8 then -128 else -8, some q, false⟩
  else ⟨clamp (codeMin n8 side) (codeMax n8) q, none, true⟩

/-- Whether a clipped value counts in ESC_FULL_COUNT (03 R97): side lists on. -/
def escFull (c : Conv) (side : Bool) : Bool := c.clipped && side

/-- A group of values converted in ascending order, with `cap` side-list slots. -/
def toCodes (esrc et z : Int) (n8 side : Bool) (cap : Nat) : Nat → List Int → List Conv
  | _, [] => []
  | used, v :: vs =>
    let c := toCode v esrc et z n8 side (decide (used < cap))
    c :: toCodes esrc et z n8 side cap (used + b2n c.entry.isSome) vs

/-! ### MEASURE (03 R94) -/

/-- Smallest k from a start such that the rounded magnitude is at most C. -/
def measureShift (m C : Int) : Nat → Int → Int
  | 0, k => k
  | n + 1, k =>
    let r := if 0 ≤ k then roundEven m k.toNat else m * 2 ^ (-k).toNat
    if r ≤ C then k else measureShift m C n (k + 1)

/-- 03 R94: the exponent of a group of largest magnitude m. -/
def measureExp (m wexp : Int) (n8 : Bool) : Int :=
  if m = 0 then -32 else clamp (-32) 31 (wexp + measureShift m (if n8 then 127 else 7) 159 (-64))

/-! ### Adaptation (03 R88 to R90) -/

/-- The parameters of an adaptive tensor (03 R89). -/
structure Adapt where
  thHi : Nat
  thLo : Nat
  hold : Nat
  eLo : Int
  eHi : Int
  state : Nat
deriving DecidableEq, Repr

/-- 03 R90 for one channel group: its exponent and low-run count, and its channels' (clipped, converted) counts;
the result, and 1, 2 for a rise or a fall. R90 blocks a fall `at e_lo`; an exponent that the commander recorded below e_lo
does not fall either (DESIGN CHOICE, log entry 81). -/
def adaptStep (p : Adapt) (e : Int) (run : Nat) (counts : List (Nat × Nat)) : Int × Nat × Nat :=
  if (counts.any fun c => decide (p.thHi * c.2 < c.1 * 65536)) && decide (e < p.eHi) then (e + 1, 0, 1)
  else if counts.all fun c => decide (c.1 * 65536 < p.thLo * c.2) then
    if p.hold ≤ run + 1 then (if p.eLo < e then (e - 1, 0, 2) else (e, 0, 0)) else (e, run + 1, 0)
  else (e, 0, 0)

/-! ### POOL (04 R125) -/

/-- The reciprocal round(2^24 / n). -/
def poolRecip (n : Nat) : Nat := (2 ^ 25 + n) / (2 * n)

/-- The average of n working values of sum S. -/
def poolAverage (sum : Int) (n : Nat) : Int := roundEven (sum * (poolRecip n : Nat)) 24

/-! ### WINO3 (04 R120) -/

/-- The product of an integer matrix, given by its rows, with a column. -/
def matVec (m : List (List Int)) (v : List Int) : List Int :=
  m.map fun r => (List.zipWith (· * ·) r v).foldl (· + ·) 0

/-- Rows to columns of a matrix of n columns. -/
def transpose (n : Nat) (m : List (List Int)) : List (List Int) :=
  (List.range n).map fun j => m.map fun r => r.getD j 0

/-- L x Lᵀ for a transform L of `inner` columns. -/
def sandwich (l : List (List Int)) (inner : Nat) (x : List (List Int)) : List (List Int) :=
  let y := transpose l.length (transpose inner x |>.map (matVec l))
  y.map (matVec l)

/-- Bᵀ, G′ and Aᵀ of 04 R120. -/
def winoB : List (List Int) := [[1, 0, -1, 0], [0, 1, 1, 0], [0, -1, 1, 0], [0, 1, 0, -1]]

def winoG : List (List Int) := [[2, 0, 0], [1, 1, 1], [1, -1, 1], [0, 0, 2]]

def winoA : List (List Int) := [[1, 1, 1, 0], [0, 1, -1, -1]]

/-- 04 R120: one output channel's 2x2 tile of a channel group, from its channels' 3x3 weights and 4x4 patches; the
sums over taps and channels. -/
def winoTile (chans : List (List (List Int) × List (List Int))) : List (List Int) :=
  let zero := List.replicate 4 (List.replicate 4 0)
  let m := chans.foldl (fun acc (g, d) =>
    List.zipWith (List.zipWith (· + ·)) acc
      (List.zipWith (List.zipWith (· * ·)) (sandwich winoG 3 g) (sandwich winoB 4 d))) zero
  (sandwich winoA 4 m).map fun r => r.map (· / 4)

end Sys2Proof.Machine
end

