-- ==== Sys2Proof/Config.lean ====
section
/-! DEFINITION. What the manual leaves open: free values, with no body, so that no proof can see what they are. -/
namespace Sys2Proof

/-- Byte `i` of the free value number `n`: random bytes, signatures made with fresh randomness, ciphertext of a
standard the manual does not restate (15 R472, R485, R488, R492). The number is the state's own counter. -/
opaque Config.freeByte : Nat → Nat → Byte

/-- The standing scale entry of an output channel of 4,096 or above, for which the array has none (03 R86, 04 R132). -/
opaque Config.freeScale : Nat → Word

/-- Parity bytes of a codeword of RS(136,132): the manual gives no polynomials of the code (12 R379). -/
opaque Config.parity : List Byte → Word

/-- Cells of each virtual channel that the device's receivers have, as IDENT advertises them (12 R385, R393). -/
opaque Config.cells : Nat → BitVec 16

end Sys2Proof
end

