-- ==== Sys2Proof/Machine/RegTable.lean ====
section
/-! DEFINITION. The set-up registers of the manual's register tables: for each, its address less 0x60_0000_0000,
its place in arrays, the bits software may write (RW), the bits a read clears (RC), the bits that act when written
(WO), the values its contents column allows (00 R17), and the condition or action its own text adds. Other bits are
RO or RSV: a write ignores them (00 R13). -/
namespace Sys2Proof.Machine

/-- What a register's own text adds to a write or a read. -/
inductive Gate where
  | auxCmd | commit | consSnap | cqDb | cxpCfg | ddrShare | dispCfg | dispTiming | drainScale | encCfg | encScale | ethPort | fabNode | fabPort | gcl | maintReq | none | pairBase | pairCfg | poolAlloc | poolCfg | poolFree | pwrState | qbvCtrl | resClr | resDb | resSet | reset | rrpCfg | rrpPeer | rsmpCh | rsmpPitch | rtb | rtb3 | spoolCfg | sqDb | streamCfg | timeSet | topoAddr | topoCtrl | topoGo | trkRec | tsn | winCtrl | winField
deriving DecidableEq, Repr

/-- A plain register, or the low or high half of a 64-bit pair (00 R12). -/
inductive RegKind where
  | one | lo | hi
deriving DecidableEq, Repr

/-- One line of a register table; n1 and s1 are the count and stride of its array, n2 and s2 of an array inside. -/
structure RegRow where
  name : String
  addr : Nat
  n1 : Nat
  s1 : Nat
  n2 : Nat
  s2 : Nat
  kind : RegKind
  rw : Nat
  rc : Nat
  wo : Nat
  gate : Gate
  legal : Nat → Bool

/-- 03 R86: the legal scale entries. -/
def scaleLegal (v : Nat) : Bool :=
  let sh := sx 8 (f v 23 16)
  if bitOf v 31 then decide (-15 ≤ sh ∧ sh ≤ 32) else decide (-16 ≤ sh ∧ sh ≤ 47)

/-- 07 R251: non-zero thresholds ascend. -/
def bankThLegal (v : Nat) : Bool :=
  let l := [f v 7 0, f v 15 8, f v 23 16].filter fun x => x != 0
  match l with
  | [a, b] => decide (a < b)
  | [a, b, c] => decide (a < b ∧ b < c)
  | _ => true

/-- 03 R57 with 07 R238: adaptive 0, a code type of N4, N8 or WIDE16, and the format word's own ranges. -/
def outFmtLegal (v : Nat) : Bool :=
  let ct := f v 1 0
  let z := sx 8 (f v 15 8)
  let w := sx 8 (f v 31 24)
  !bitOf v 5 && ct != 3 &&
    (if ct = 2 then f v 15 8 == 0 && f v 23 16 == 0 && !bitOf v 4 && decide (-64 ≤ w ∧ w ≤ 63)
     else f v 31 24 == 0 && f v 3 2 != 3 &&
       (if ct = 1 then !(bitOf v 4) || decide (-127 ≤ z)
        else decide ((if bitOf v 4 then -7 else -8) ≤ z ∧ z ≤ 7)))

/-- 07 R251: the ranges of e_out and e_ref. -/
def erefLegal (v : Nat) : Bool :=
  let eo := sx 8 (f v 15 8)
  let er := sx 8 (f v 7 0)
  decide (-32 ≤ eo ∧ eo ≤ 31 ∧ -64 ≤ er ∧ er ≤ 62)

/-- 11 R377: the ranges of the fields of DISPn.CFG. -/
def dispCfgLegal (v : Nat) : Bool :=
  f v 27 26 != 3 && decide (f v 25 22 < 8) && (bitOf v 30 || decide (f v 25 22 < 4)) &&
    (bitOf v 20 == false || f v 18 17 != 3) && (!bitOf v 28 || (bitOf v 30 && decide (2 ≤ f v 15 8)))

/-- Register tables of the MGMT block, part 0. -/
def mgmtRows0 : List RegRow := [
  ⟨"MGMT.BOOT_STATUS", 0x0, 1, 0x0, 1, 0x0, .one, 0x0, 0x0, 0x0, .none, fun _ => true⟩,
  ⟨"MGMT.BOOT_SRC", 0x4, 1, 0x0, 1, 0x0, .one, 0x0, 0x0, 0x0, .none, fun _ => true⟩,
  ⟨"MGMT.RESET", 0x8, 1, 0x0, 1, 0x0, .one, 0x0, 0x0, 0xFFFF01F3, .reset, fun v => decide (f v 1 0 = 1 ∨ f v 1 0 = 2)⟩,
  ⟨"MGMT.MARCH_PROG", 0x10, 1, 0x0, 1, 0x0, .one, 0x0, 0x0, 0x0, .none, fun _ => true⟩,
  ⟨"MGMT.MARCH_SEL", 0x14, 1, 0x0, 1, 0x0, .one, 0x0, 0x0, 0x0, .none, fun _ => true⟩,
  ⟨"MGMT.HARVEST", 0x20, 4, 0x4, 1, 0x0, .one, 0x0, 0x0, 0x0, .none, fun _ => true⟩,
  ⟨"MGMT.HARVEST_STATUS", 0x30, 1, 0x0, 1, 0x0, .one, 0x0, 0x0, 0x0, .none, fun _ => true⟩,
  ⟨"MGMT.LMAP", 0x40, 24, 0x4, 1, 0x0, .one, 0x0, 0x0, 0x0, .none, fun _ => true⟩,
  ⟨"MGMT.TOPO_CTRL", 0xA0, 1, 0x0, 1, 0x0, .one, 0x3, 0x0, 0x0, .topoCtrl, fun _ => true⟩,
  ⟨"MGMT.TOPO_GO", 0xA4, 1, 0x0, 1, 0x0, .one, 0x0, 0x0, 0x1, .topoGo, fun _ => true⟩,
  ⟨"MGMT.TOPO_ADDR_LO", 0xA8, 1, 0x0, 1, 0x0, .lo, 0xFFFFFFFF, 0x0, 0x0, .topoAddr, fun v => decide (v % 64 = 0)⟩,
  ⟨"MGMT.TOPO_ADDR_HI", 0xAC, 1, 0x0, 1, 0x0, .hi, 0xFFFFFFFF, 0x0, 0x0, .topoAddr, fun _ => true⟩
  ]

/-- Register tables of the MGMT block, part 1. -/
def mgmtRows1 : List RegRow := [
  ⟨"MGMT.TOPO_REPORT_LO", 0xB0, 1, 0x0, 1, 0x0, .lo, 0xFFFFFFFF, 0x0, 0x0, .topoAddr, fun v => decide (v % 64 = 0)⟩,
  ⟨"MGMT.TOPO_REPORT_HI", 0xB4, 1, 0x0, 1, 0x0, .hi, 0xFFFFFFFF, 0x0, 0x0, .topoAddr, fun _ => true⟩,
  ⟨"MGMT.TOPO_STATUS", 0xB8, 1, 0x0, 1, 0x0, .one, 0x0, 0x0, 0x0, .none, fun _ => true⟩,
  ⟨"MGMT.CYCLE_WAIT", 0x3F00, 1, 0x0, 1, 0x0, .one, 0x1FFFF, 0x0, 0x0, .none, fun v => decide (100 ≤ v ∧ v ≤ 100000)⟩,
  ⟨"MGMT.SPOOL_CFG", 0x3F04, 1, 0x0, 1, 0x0, .one, 0xFF00FF, 0x0, 0x0, .spoolCfg, fun v => decide (f v 23 16 ≤ 128 ∧ f v 7 0 ≤ 128)⟩,
  ⟨"MGMT.STREAM.STATE", 0x4040, 127, 0x40, 1, 0x0, .one, 0x0, 0x0, 0x0, .none, fun _ => true⟩,
  ⟨"MGMT.STREAM.CFG", 0x4044, 127, 0x40, 1, 0x0, .one, 0xF0F7F, 0x0, 0x0, .streamCfg, fun v => decide (f v 6 0 ≤ 64)⟩,
  ⟨"MGMT.STREAM.MARGIN", 0x4048, 127, 0x40, 1, 0x0, .one, 0x0, 0x0, 0x0, .none, fun _ => true⟩,
  ⟨"MGMT.STREAM.BYPASS_COUNT", 0x404C, 127, 0x40, 1, 0x0, .one, 0x0, 0xFFFFFFFF, 0x0, .none, fun _ => true⟩,
  ⟨"MGMT.STREAM.POS", 0x4060, 127, 0x40, 8, 0x4, .one, 0x0, 0x0, 0x0, .none, fun _ => true⟩
  ]

/-- Register tables of the POD block, part 0. -/
def podRows0 : List RegRow := [
  ⟨"POD.ARITH_EDITION", 0x1001000, 1, 0x0, 1, 0x0, .one, 0x0, 0x0, 0x0, .none, fun _ => true⟩,
  ⟨"POD.CLIP_COUNT_LO", 0x1001010, 1, 0x0, 1, 0x0, .lo, 0x0, 0xFFFFFFFF, 0x0, .none, fun _ => true⟩,
  ⟨"POD.CLIP_COUNT_HI", 0x1001014, 1, 0x0, 1, 0x0, .hi, 0x0, 0x0, 0x0, .none, fun _ => true⟩,
  ⟨"POD.ESCAPE_COUNT", 0x1001018, 1, 0x0, 1, 0x0, .one, 0x0, 0xFFFFFFFF, 0x0, .none, fun _ => true⟩,
  ⟨"POD.ESC_FULL_COUNT", 0x100101C, 1, 0x0, 1, 0x0, .one, 0x0, 0xFFFFFFFF, 0x0, .none, fun _ => true⟩,
  ⟨"POD.ACC_OVF_COUNT", 0x1001020, 1, 0x0, 1, 0x0, .one, 0x0, 0xFFFFFFFF, 0x0, .none, fun _ => true⟩,
  ⟨"POD.ARITH_FAULT_COUNT", 0x1001024, 1, 0x0, 1, 0x0, .one, 0x0, 0xFFFFFFFF, 0x0, .none, fun _ => true⟩,
  ⟨"POD.ADAPT_COUNT", 0x1001028, 1, 0x0, 1, 0x0, .one, 0x0, 0xFFFFFFFF, 0x0, .none, fun _ => true⟩,
  ⟨"POD.WINO_FALLBACK_COUNT", 0x100102C, 1, 0x0, 1, 0x0, .one, 0x0, 0xFFFFFFFF, 0x0, .none, fun _ => true⟩,
  ⟨"POD.EMPTY_EXTENT_COUNT", 0x1001030, 1, 0x0, 1, 0x0, .one, 0x0, 0xFFFFFFFF, 0x0, .none, fun _ => true⟩,
  ⟨"POD.DUP_TILE_COUNT", 0x1001034, 1, 0x0, 1, 0x0, .one, 0x0, 0xFFFFFFFF, 0x0, .none, fun _ => true⟩,
  ⟨"POD.CRIT_COMPARE_COUNT", 0x1001038, 1, 0x0, 1, 0x0, .one, 0x0, 0xFFFFFFFF, 0x0, .none, fun _ => true⟩
  ]

/-- Register tables of the POD block, part 1. -/
def podRows1 : List RegRow := [
  ⟨"POD.CRIT_MISMATCH_COUNT", 0x100103C, 1, 0x0, 1, 0x0, .one, 0x0, 0xFFFFFFFF, 0x0, .none, fun _ => true⟩,
  ⟨"POD.DRAIN_SCALE", 0x1800000, 104, 0x4000, 4096, 0x4, .one, 0x80FFFFFF, 0x0, 0x0, .drainScale, fun v => scaleLegal v⟩
  ]

/-- Register tables of the LEEK block, part 0. -/
def leekRows0 : List RegRow := [
  ⟨"LEEK.PART", 0x2000000, 64, 0x4, 1, 0x0, .one, 0x0, 0x0, 0x0, .none, fun _ => true⟩,
  ⟨"LEEK.FREE", 0x2000100, 1, 0x0, 1, 0x0, .one, 0x0, 0x0, 0x0, .none, fun _ => true⟩,
  ⟨"LEEK.RTB.W0", 0x2000110, 15, 0x10, 1, 0x0, .one, 0xFFFFFFFF, 0x0, 0x0, .rtb, fun _ => true⟩,
  ⟨"LEEK.RTB.W1", 0x2000114, 15, 0x10, 1, 0x0, .one, 0xFFFFFFFF, 0x0, 0x0, .rtb, fun _ => true⟩,
  ⟨"LEEK.RTB.W2", 0x2000118, 15, 0x10, 1, 0x0, .one, 0x0, 0x0, 0x0, .rtb, fun _ => true⟩,
  ⟨"LEEK.RTB.W3", 0x200011C, 15, 0x10, 1, 0x0, .one, 0x0, 0x0, 0x0, .rtb3, fun _ => true⟩,
  ⟨"LEEK.SCRUB_CFG", 0x2000200, 1, 0x0, 1, 0x0, .one, 0xFFFF, 0x0, 0x0, .none, fun v => decide (1 ≤ v ∧ v ≤ 600)⟩,
  ⟨"LEEK.RETAIN", 0x2000204, 1, 0x0, 1, 0x0, .one, 0x3, 0x0, 0x0, .none, fun _ => true⟩,
  ⟨"LEEK.ECC_CORR", 0x2000208, 1, 0x0, 1, 0x0, .one, 0x0, 0xFFFFFFFF, 0x0, .none, fun _ => true⟩,
  ⟨"LEEK.ECC_UNCORR", 0x200020C, 1, 0x0, 1, 0x0, .one, 0x0, 0xFFFFFFFF, 0x0, .none, fun _ => true⟩
  ]

/-- Register tables of the DDR block, part 0. -/
def ddrRows0 : List RegRow := [
  ⟨"DDR.CFG", 0x3000000, 1, 0x0, 1, 0x0, .one, 0x1, 0x0, 0x0, .none, fun _ => true⟩,
  ⟨"DDR.CAPACITY", 0x3000004, 1, 0x0, 1, 0x0, .one, 0x0, 0x0, 0x0, .none, fun _ => true⟩,
  ⟨"DDR.TRAIN_STATUS", 0x3000008, 1, 0x0, 1, 0x0, .one, 0x0, 0x0, 0x0, .none, fun _ => true⟩,
  ⟨"DDR.ECC_CORR", 0x3000010, 1, 0x0, 1, 0x0, .one, 0x0, 0xFFFFFFFF, 0x0, .none, fun _ => true⟩,
  ⟨"DDR.ECC_UNCORR", 0x3000014, 1, 0x0, 1, 0x0, .one, 0x0, 0xFFFFFFFF, 0x0, .none, fun _ => true⟩,
  ⟨"DDR.ECC_ADDR_LO", 0x3000018, 1, 0x0, 1, 0x0, .lo, 0x0, 0x0, 0x0, .none, fun _ => true⟩,
  ⟨"DDR.ECC_ADDR_HI", 0x300001C, 1, 0x0, 1, 0x0, .hi, 0x0, 0x0, 0x0, .none, fun _ => true⟩,
  ⟨"DDR.LINK_CORR", 0x3000020, 1, 0x0, 1, 0x0, .one, 0x0, 0xFFFFFFFF, 0x0, .none, fun _ => true⟩,
  ⟨"DDR.RESERVE_MOVES", 0x3000024, 1, 0x0, 1, 0x0, .one, 0x0, 0xFFFFFFFF, 0x0, .none, fun _ => true⟩,
  ⟨"DDR.SHARE", 0x3000400, 1, 0x0, 1, 0x0, .one, 0xFFFFFF, 0x0, 0x0, .ddrShare, fun v => decide (f v 23 16 + f v 15 8 + f v 7 0 = 100 ∧ 5 ≤ f v 23 16 ∧ 5 ≤ f v 15 8 ∧ 5 ≤ f v 7 0)⟩,
  ⟨"DDR.SHARE_ACTIVE", 0x3000404, 1, 0x0, 1, 0x0, .one, 0x0, 0x0, 0x0, .none, fun _ => true⟩
  ]

/-- Register tables of the WIN block, part 0. -/
def winRows0 : List RegRow := [
  ⟨"WIN.W.BASE_LO", 0x4000000, 256, 0x20, 1, 0x0, .lo, 0xFFFFFFFF, 0x0, 0x0, .winField, fun v => decide (v % 65536 = 0)⟩,
  ⟨"WIN.W.BASE_HI", 0x4000004, 256, 0x20, 1, 0x0, .hi, 0xFFFFFFFF, 0x0, 0x0, .winField, fun v => decide (v < 256)⟩,
  ⟨"WIN.W.LEN", 0x4000008, 256, 0x20, 1, 0x0, .one, 0x3FFFFF, 0x0, 0x0, .winField, fun v => decide (v < 2097152)⟩,
  ⟨"WIN.W.CTRL", 0x400000C, 256, 0x20, 1, 0x0, .one, 0xDFC07F7F, 0x0, 0x0, .winCtrl, fun _ => true⟩,
  ⟨"WIN.W.RES_FIRST", 0x4000010, 256, 0x20, 1, 0x0, .one, 0x3FFFF, 0x0, 0x0, .winField, fun _ => true⟩,
  ⟨"WIN.W.BACK", 0x4000014, 256, 0x20, 1, 0x0, .one, 0x800000FF, 0x0, 0x0, .winField, fun _ => true⟩,
  ⟨"WIN.RES_SET", 0x4002000, 1, 0x0, 1, 0x0, .one, 0x0, 0x0, 0xFFFFFFFF, .resSet, fun _ => true⟩,
  ⟨"WIN.RES_CLR", 0x4002004, 1, 0x0, 1, 0x0, .one, 0x0, 0x0, 0xFFFFFFFF, .resClr, fun _ => true⟩,
  ⟨"WIN.VIOL_COUNT", 0x4002008, 1, 0x0, 1, 0x0, .one, 0x0, 0xFFFFFFFF, 0x0, .none, fun _ => true⟩,
  ⟨"WIN.NONRES_COUNT", 0x400200C, 1, 0x0, 1, 0x0, .one, 0x0, 0xFFFFFFFF, 0x0, .none, fun _ => true⟩,
  ⟨"WIN.POOL.CFG", 0x4003000, 8, 0x20, 1, 0x0, .one, 0xFFFFFF, 0x0, 0x0, .poolCfg, fun v => decide (1 ≤ f v 15 0)⟩,
  ⟨"WIN.POOL.ALLOC", 0x4003004, 8, 0x20, 1, 0x0, .one, 0x0, 0x0, 0x0, .poolAlloc, fun _ => true⟩
  ]

/-- Register tables of the WIN block, part 1. -/
def winRows1 : List RegRow := [
  ⟨"WIN.POOL.FREE", 0x4003008, 8, 0x20, 1, 0x0, .one, 0x0, 0x0, 0xFFF, .poolFree, fun _ => true⟩,
  ⟨"WIN.POOL.STATUS", 0x400300C, 8, 0x20, 1, 0x0, .one, 0x0, 0x0, 0x0, .none, fun _ => true⟩,
  ⟨"WIN.POOL.PREMATURE", 0x4003010, 8, 0x20, 1, 0x0, .one, 0x0, 0xFFFFFFFF, 0x0, .none, fun _ => true⟩,
  ⟨"WIN.POOL.DOUBLE", 0x4003014, 8, 0x20, 1, 0x0, .one, 0x0, 0xFFFFFFFF, 0x0, .none, fun _ => true⟩,
  ⟨"WIN.RES_WORD", 0x4010000, 8192, 0x4, 1, 0x0, .one, 0x0, 0x0, 0x0, .none, fun _ => true⟩
  ]

/-- Register tables of the RING block, part 0. -/
def ringRows0 : List RegRow := [
  ⟨"RING.EVENT_PAIR", 0x5000000, 1, 0x0, 1, 0x0, .one, 0x13F, 0x0, 0x0, .none, fun _ => true⟩,
  ⟨"RING.SB_STATUS", 0x5000004, 1, 0x0, 1, 0x0, .one, 0x0, 0x0, 0x0, .none, fun _ => true⟩,
  ⟨"RING.CAM_EVT_LO", 0x5000008, 1, 0x0, 1, 0x0, .lo, 0xFFFFFFFF, 0x0, 0x0, .none, fun v => decide (v % 65536 = 0)⟩,
  ⟨"RING.CAM_EVT_HI", 0x500000C, 1, 0x0, 1, 0x0, .hi, 0xFFFFFFFF, 0x0, 0x0, .none, fun v => decide (v < 256)⟩,
  ⟨"RING.PAIR.SQ_BASE_LO", 0x5001000, 64, 0x40, 1, 0x0, .lo, 0xFFFFFFFF, 0x0, 0x0, .none, fun v => decide (v % 64 = 0)⟩,
  ⟨"RING.PAIR.SQ_BASE_HI", 0x5001004, 64, 0x40, 1, 0x0, .hi, 0xFFFFFFFF, 0x0, 0x0, .pairBase, fun _ => true⟩,
  ⟨"RING.PAIR.CQ_BASE_LO", 0x5001008, 64, 0x40, 1, 0x0, .lo, 0xFFFFFFFF, 0x0, 0x0, .none, fun v => decide (v % 16 = 0)⟩,
  ⟨"RING.PAIR.CQ_BASE_HI", 0x500100C, 64, 0x40, 1, 0x0, .hi, 0xFFFFFFFF, 0x0, 0x0, .pairBase, fun _ => true⟩,
  ⟨"RING.PAIR.CFG", 0x5001010, 64, 0x40, 1, 0x0, .one, 0xFC1F1FFF, 0x0, 0x0, .pairCfg, fun v => decide (f v 31 31 = 0 ∨ (4 ≤ f v 20 16 ∧ f v 20 16 ≤ 16 ∧ 4 ≤ f v 12 8 ∧ f v 12 8 ≤ 16))⟩,
  ⟨"RING.PAIR.STATUS", 0x5001014, 64, 0x40, 1, 0x0, .one, 0x0, 0x0, 0x0, .none, fun _ => true⟩,
  ⟨"RING.PAIR.SQ_DB", 0x5001018, 64, 0x40, 1, 0x0, .one, 0x0, 0x0, 0xFFFFFFFF, .sqDb, fun _ => true⟩,
  ⟨"RING.PAIR.CQ_DB", 0x500101C, 64, 0x40, 1, 0x0, .one, 0x0, 0x0, 0xFFFFFFFF, .cqDb, fun _ => true⟩
  ]

/-- Register tables of the RING block, part 1. -/
def ringRows1 : List RegRow := [
  ⟨"RING.PAIR.SQ_HEAD", 0x5001020, 64, 0x40, 1, 0x0, .one, 0x0, 0x0, 0x0, .none, fun _ => true⟩,
  ⟨"RING.PAIR.CQ_TAIL", 0x5001024, 64, 0x40, 1, 0x0, .one, 0x0, 0x0, 0x0, .none, fun _ => true⟩,
  ⟨"RING.PAIR.ERR_COUNT", 0x5001028, 64, 0x40, 1, 0x0, .one, 0x0, 0xFFFFFFFF, 0x0, .none, fun _ => true⟩,
  ⟨"RING.STREAM.RES_DB", 0x5002004, 127, 0x4, 1, 0x0, .one, 0x0, 0x0, 0xFFFFFFFF, .resDb, fun _ => true⟩,
  ⟨"RING.STREAM.RES_TAIL", 0x5002204, 127, 0x4, 1, 0x0, .one, 0x0, 0x0, 0x0, .none, fun _ => true⟩
  ]

/-- Register tables of the CXP block, part 0. -/
def cxpRows0 : List RegRow := [
  ⟨"CXP.PORT.CFG", 0x6001000, 16, 0x40, 1, 0x0, .one, 0xFFF0FFFF, 0x0, 0x0, .cxpCfg, fun v => decide (f v 29 28 < 3 ∧ f v 27 24 < 7 ∧ f v 23 20 < 5 ∧ (f v 31 31 = 0 ∨ (16 ≤ f v 15 0 ∧ f v 15 0 ≤ 16384)))⟩,
  ⟨"CXP.PORT.STATUS", 0x6001004, 16, 0x40, 1, 0x0, .one, 0x0, 0x0, 0x0, .none, fun _ => true⟩,
  ⟨"CXP.PORT.TS_OFFSET", 0x6001008, 16, 0x40, 1, 0x0, .one, 0xFFFFFFFF, 0x0, 0x0, .none, fun v => decide (v ≤ 1000000 ∨ 4293967296 ≤ v)⟩,
  ⟨"CXP.PORT.OVERRUN", 0x600100C, 16, 0x40, 1, 0x0, .one, 0x0, 0xFFFFFFFF, 0x0, .none, fun _ => true⟩,
  ⟨"CXP.PORT.REPLACED", 0x6001010, 16, 0x40, 1, 0x0, .one, 0x0, 0xFFFFFFFF, 0x0, .none, fun _ => true⟩,
  ⟨"CXP.PORT.LOSS", 0x6001014, 16, 0x40, 1, 0x0, .one, 0x0, 0xFFFFFFFF, 0x0, .none, fun _ => true⟩
  ]

/-- Register tables of the RSMP block, part 0. -/
def rsmpRows0 : List RegRow := [
  ⟨"RSMP.ENC.CFG", 0x7000000, 2, 0x20, 1, 0x0, .one, 0xC00000FF, 0x0, 0x0, .encCfg, fun v => decide (f v 7 0 ≤ 50)⟩,
  ⟨"RSMP.ENC.SCALE", 0x7000004, 2, 0x20, 1, 0x0, .one, 0xFFFFFFFF, 0x0, 0x0, .encScale, fun _ => true⟩,
  ⟨"RSMP.ENC.ERR", 0x7000008, 2, 0x20, 1, 0x0, .one, 0x0, 0xFFFFFFFF, 0x0, .none, fun _ => true⟩,
  ⟨"RSMP.ENC.COUNT", 0x700000C, 2, 0x20, 1, 0x0, .one, 0x0, 0x0, 0x0, .none, fun _ => true⟩,
  ⟨"RSMP.ODO_CFG", 0x7000040, 1, 0x0, 1, 0x0, .one, 0xFFFFFF03, 0x0, 0x0, .none, fun v => decide (f v 15 8 ≤ 100)⟩,
  ⟨"RSMP.POSMSG_CFG", 0x7000044, 1, 0x0, 1, 0x0, .one, 0x1FFFF, 0x0, 0x0, .none, fun v => decide (1 ≤ f v 15 0)⟩,
  ⟨"RSMP.ODO_POS_LO", 0x7000048, 1, 0x0, 1, 0x0, .lo, 0x0, 0x0, 0x0, .none, fun _ => true⟩,
  ⟨"RSMP.ODO_POS_HI", 0x700004C, 1, 0x0, 1, 0x0, .hi, 0x0, 0x0, 0x0, .none, fun _ => true⟩,
  ⟨"RSMP.PPS_TIME_LO", 0x7000050, 1, 0x0, 1, 0x0, .lo, 0x0, 0x0, 0x0, .none, fun _ => true⟩,
  ⟨"RSMP.PPS_TIME_HI", 0x7000054, 1, 0x0, 1, 0x0, .hi, 0x0, 0x0, 0x0, .none, fun _ => true⟩,
  ⟨"RSMP.CORR_COUNT", 0x7000058, 1, 0x0, 1, 0x0, .one, 0x0, 0xFFFFFFFF, 0x0, .none, fun _ => true⟩,
  ⟨"RSMP.CH.CFG", 0x7001000, 16, 0x100, 1, 0x0, .one, 0xEFFFFFFF, 0x0, 0x0, .rsmpCh, fun v => decide ((f v 31 31 = 0 ∨ f v 30 29 < 3) ∧ 1 ≤ f v 23 16 ∧ 1 ≤ f v 15 0)⟩
  ]

/-- Register tables of the RSMP block, part 1. -/
def rsmpRows1 : List RegRow := [
  ⟨"RSMP.CH.PITCH", 0x7001004, 16, 0x100, 1, 0x0, .one, 0xFFFFFFFF, 0x0, 0x0, .rsmpPitch, fun _ => true⟩,
  ⟨"RSMP.CH.TRIG_PITCH", 0x7001008, 16, 0x100, 1, 0x0, .one, 0xFFFFFFFF, 0x0, 0x0, .rsmpCh, fun _ => true⟩,
  ⟨"RSMP.CH.BANK_TH", 0x700100C, 16, 0x100, 1, 0x0, .one, 0xFFFFFF, 0x0, 0x0, .rsmpCh, fun v => bankThLegal v⟩,
  ⟨"RSMP.CH.OFFSET_LO", 0x7001010, 16, 0x100, 1, 0x0, .lo, 0xFFFFFFFF, 0x0, 0x0, .rsmpCh, fun _ => true⟩,
  ⟨"RSMP.CH.OFFSET_HI", 0x7001014, 16, 0x100, 1, 0x0, .hi, 0xFF, 0x0, 0x0, .rsmpCh, fun _ => true⟩,
  ⟨"RSMP.CH.COEF_LO", 0x7001018, 16, 0x100, 1, 0x0, .lo, 0xFFFFFFFF, 0x0, 0x0, .rsmpCh, fun v => decide (v % 64 = 0)⟩,
  ⟨"RSMP.CH.COEF_HI", 0x700101C, 16, 0x100, 1, 0x0, .hi, 0xFFFFFFFF, 0x0, 0x0, .rsmpCh, fun v => decide (v < 256)⟩,
  ⟨"RSMP.CH.OUTFMT", 0x7001020, 16, 0x100, 1, 0x0, .one, 0xFFFFFF7F, 0x0, 0x0, .rsmpCh, fun v => outFmtLegal v⟩,
  ⟨"RSMP.CH.EREF", 0x7001024, 16, 0x100, 1, 0x0, .one, 0xFFFF, 0x0, 0x0, .rsmpCh, fun v => erefLegal v⟩,
  ⟨"RSMP.CH.STATE", 0x7001028, 16, 0x100, 1, 0x0, .one, 0x0, 0x0, 0x0, .none, fun _ => true⟩,
  ⟨"RSMP.CH.POS_LO", 0x7001030, 16, 0x100, 1, 0x0, .lo, 0x0, 0x0, 0x0, .none, fun _ => true⟩,
  ⟨"RSMP.CH.POS_HI", 0x7001034, 16, 0x100, 1, 0x0, .hi, 0x0, 0x0, 0x0, .none, fun _ => true⟩
  ]

/-- Register tables of the RSMP block, part 2. -/
def rsmpRows2 : List RegRow := [
  ⟨"RSMP.CH.UNDER_COUNT", 0x7001038, 16, 0x100, 1, 0x0, .one, 0x0, 0xFFFFFFFF, 0x0, .none, fun _ => true⟩,
  ⟨"RSMP.CH.NEAREST_COUNT", 0x700103C, 16, 0x100, 1, 0x0, .one, 0x0, 0xFFFFFFFF, 0x0, .none, fun _ => true⟩,
  ⟨"RSMP.CH.TURN_COUNT", 0x7001040, 16, 0x100, 1, 0x0, .one, 0x0, 0xFFFFFFFF, 0x0, .none, fun _ => true⟩,
  ⟨"RSMP.CH.TRIG_DEFER", 0x7001044, 16, 0x100, 1, 0x0, .one, 0x0, 0xFFFFFFFF, 0x0, .none, fun _ => true⟩
  ]

/-- Register tables of the TRK block, part 0. -/
def trkRows0 : List RegRow := [
  ⟨"TRK.GROUP.REC_LO", 0x8000010, 15, 0x10, 1, 0x0, .lo, 0xFFFFFFFF, 0x0, 0x0, .trkRec, fun v => decide (v % 64 = 0)⟩,
  ⟨"TRK.GROUP.REC_HI", 0x8000014, 15, 0x10, 1, 0x0, .hi, 0xFFFFFFFF, 0x0, 0x0, .trkRec, fun v => decide (v < 256)⟩,
  ⟨"TRK.GROUP.STATUS", 0x8000018, 15, 0x10, 1, 0x0, .one, 0x0, 0x0, 0x0, .none, fun _ => true⟩,
  ⟨"TRK.EVICT_COUNT", 0x8000200, 1, 0x0, 1, 0x0, .one, 0x0, 0xFFFFFFFF, 0x0, .none, fun _ => true⟩,
  ⟨"TRK.UNTRACKED_COUNT", 0x8000204, 1, 0x0, 1, 0x0, .one, 0x0, 0xFFFFFFFF, 0x0, .none, fun _ => true⟩,
  ⟨"TRK.LATE_COUNT", 0x8000208, 1, 0x0, 1, 0x0, .one, 0x0, 0xFFFFFFFF, 0x0, .none, fun _ => true⟩,
  ⟨"TRK.FWD_COUNT", 0x800020C, 1, 0x0, 1, 0x0, .one, 0x0, 0xFFFFFFFF, 0x0, .none, fun _ => true⟩
  ]

/-- Register tables of the DISP block, part 0. -/
def dispRows0 : List RegRow := [
  ⟨"DISP.CFG", 0x9000000, 2, 0x1000000, 1, 0x0, .one, 0xFFFFFF00, 0x0, 0x0, .dispCfg, fun v => dispCfgLegal v⟩,
  ⟨"DISP.PCLK", 0x9000004, 2, 0x1000000, 1, 0x0, .one, 0xFFFFF, 0x0, 0x0, .dispTiming, fun v => decide (25000 ≤ v ∧ v ≤ 1000000)⟩,
  ⟨"DISP.H_SIZE", 0x9000008, 2, 0x1000000, 1, 0x0, .one, 0xFFFFFFFF, 0x0, 0x0, .dispTiming, fun v => decide (f v 31 16 ≤ 8192 ∧ 64 ≤ f v 15 0 ∧ f v 15 0 ≤ 5120)⟩,
  ⟨"DISP.H_SYNC", 0x900000C, 2, 0x1000000, 1, 0x0, .one, 0x80FFFFFF, 0x0, 0x0, .dispTiming, fun v => decide (1 ≤ f v 23 12 ∧ 1 ≤ f v 11 0)⟩,
  ⟨"DISP.V_SIZE", 0x9000010, 2, 0x1000000, 1, 0x0, .one, 0xFFFFFFFF, 0x0, 0x0, .dispTiming, fun v => decide (f v 31 16 ≤ 8192 ∧ 64 ≤ f v 15 0 ∧ f v 15 0 ≤ 2160)⟩,
  ⟨"DISP.V_SYNC", 0x9000014, 2, 0x1000000, 1, 0x0, .one, 0x80FFFFFF, 0x0, 0x0, .dispTiming, fun v => decide (1 ≤ f v 23 12 ∧ f v 23 12 ≤ 255 ∧ 1 ≤ f v 11 0 ∧ f v 11 0 ≤ 255)⟩,
  ⟨"DISP.VRR", 0x9000018, 2, 0x1000000, 1, 0x0, .one, 0xFFFFFFFF, 0x0, 0x0, .dispTiming, fun v => decide (f v 15 0 ≤ f v 31 16)⟩,
  ⟨"DISP.FILL", 0x900001C, 2, 0x1000000, 1, 0x0, .one, 0x3FFFFFFF, 0x0, 0x0, .none, fun _ => true⟩,
  ⟨"DISP.PLANE_ADDR_LO", 0x9000020, 2, 0x1000000, 1, 0x0, .lo, 0xFFFFFFFF, 0x0, 0x0, .none, fun v => decide (v % 64 = 0)⟩,
  ⟨"DISP.PLANE_ADDR_HI", 0x9000024, 2, 0x1000000, 1, 0x0, .hi, 0xFFFFFFFF, 0x0, 0x0, .none, fun v => decide (v < 256)⟩,
  ⟨"DISP.COMMIT", 0x9000028, 2, 0x1000000, 1, 0x0, .one, 0x0, 0x0, 0x1, .commit, fun _ => true⟩,
  ⟨"DISP.STATUS", 0x9000030, 2, 0x1000000, 1, 0x0, .one, 0x0, 0x0, 0x0, .none, fun _ => true⟩
  ]

/-- Register tables of the DISP block, part 1. -/
def dispRows1 : List RegRow := [
  ⟨"DISP.LINE", 0x9000034, 2, 0x1000000, 1, 0x0, .one, 0x0, 0x0, 0x0, .none, fun _ => true⟩,
  ⟨"DISP.FRAME_LO", 0x9000038, 2, 0x1000000, 1, 0x0, .lo, 0x0, 0x0, 0x0, .none, fun _ => true⟩,
  ⟨"DISP.FRAME_HI", 0x900003C, 2, 0x1000000, 1, 0x0, .hi, 0x0, 0x0, 0x0, .none, fun _ => true⟩,
  ⟨"DISP.FRAME_STATUS", 0x9000040, 2, 0x1000000, 1, 0x0, .one, 0x0, 0x0, 0x0, .none, fun _ => true⟩,
  ⟨"DISP.LATCH_TIME_LO", 0x9000048, 2, 0x1000000, 1, 0x0, .lo, 0x0, 0x0, 0x0, .none, fun _ => true⟩,
  ⟨"DISP.LATCH_TIME_HI", 0x900004C, 2, 0x1000000, 1, 0x0, .hi, 0x0, 0x0, 0x0, .none, fun _ => true⟩,
  ⟨"DISP.FLIP_TIME_LO", 0x9000050, 2, 0x1000000, 1, 0x0, .lo, 0x0, 0x0, 0x0, .none, fun _ => true⟩,
  ⟨"DISP.FLIP_TIME_HI", 0x9000054, 2, 0x1000000, 1, 0x0, .hi, 0x0, 0x0, 0x0, .none, fun _ => true⟩,
  ⟨"DISP.LATE_COUNT", 0x9000058, 2, 0x1000000, 1, 0x0, .one, 0x0, 0xFFFFFFFF, 0x0, .none, fun _ => true⟩,
  ⟨"DISP.UNDERRUN_COUNT", 0x900005C, 2, 0x1000000, 1, 0x0, .one, 0x0, 0xFFFFFFFF, 0x0, .none, fun _ => true⟩,
  ⟨"DISP.ABORT_COUNT", 0x9000060, 2, 0x1000000, 1, 0x0, .one, 0x0, 0xFFFFFFFF, 0x0, .none, fun _ => true⟩,
  ⟨"DISP.TOLERANCE", 0x9000064, 2, 0x1000000, 1, 0x0, .one, 0x0, 0x0, 0x0, .none, fun _ => true⟩
  ]

/-- Register tables of the DISP block, part 2. -/
def dispRows2 : List RegRow := [
  ⟨"DISP.AUX_CMD", 0x9000070, 2, 0x1000000, 1, 0x0, .one, 0x0, 0x0, 0xFFFFFFF, .auxCmd, fun v => decide (f v 26 24 < 4)⟩,
  ⟨"DISP.AUX_DATA", 0x9000074, 2, 0x1000000, 4, 0x4, .one, 0xFFFFFFFF, 0x0, 0x0, .none, fun _ => true⟩,
  ⟨"DISP.AUX_STATUS", 0x9000084, 2, 0x1000000, 1, 0x0, .one, 0x0, 0x0, 0x0, .none, fun _ => true⟩
  ]

/-- Register tables of the FAB block, part 0. -/
def fabRows0 : List RegRow := [
  ⟨"FAB.NODE", 0xB000000, 1, 0x0, 1, 0x0, .one, 0x80000FFF, 0x0, 0x0, .fabNode, fun _ => true⟩,
  ⟨"FAB.DIMS", 0xB000004, 1, 0x0, 1, 0x0, .one, 0xFFF, 0x0, 0x0, .fabNode, fun v => decide ((f v 11 8 + 1) * (f v 7 4 + 1) * (f v 3 0 + 1) ≤ 400)⟩,
  ⟨"FAB.E2E_CFG", 0xB000008, 1, 0x0, 1, 0x0, .one, 0x3F, 0x0, 0x0, .none, fun _ => true⟩,
  ⟨"FAB.ROUTE_GEN", 0xB00000C, 1, 0x0, 1, 0x0, .one, 0x0, 0x0, 0x0, .none, fun _ => true⟩,
  ⟨"FAB.REFUSE_COUNT", 0xB000010, 1, 0x0, 1, 0x0, .one, 0x0, 0xFFFFFFFF, 0x0, .none, fun _ => true⟩,
  ⟨"FAB.HELD_COUNT", 0xB000014, 1, 0x0, 1, 0x0, .one, 0x0, 0xFFFFFFFF, 0x0, .none, fun _ => true⟩,
  ⟨"FAB.DISCARD_COUNT", 0xB000018, 1, 0x0, 1, 0x0, .one, 0x0, 0xFFFFFFFF, 0x0, .none, fun _ => true⟩,
  ⟨"FAB.PORT.CFG", 0xB001000, 6, 0x40, 1, 0x0, .one, 0xC0FFFF03, 0x0, 0x0, .fabPort, fun v => decide (f v 1 0 < 3 ∧ (f v 23 16 = 0 ∨ 4 ≤ f v 23 16))⟩,
  ⟨"FAB.PORT.STATUS", 0xB001004, 6, 0x40, 1, 0x0, .one, 0x0, 0x0, 0x0, .none, fun _ => true⟩,
  ⟨"FAB.PORT.RETRY_COUNT", 0xB001008, 6, 0x40, 1, 0x0, .one, 0x0, 0xFFFFFFFF, 0x0, .none, fun _ => true⟩,
  ⟨"FAB.PORT.FEC_CORR", 0xB00100C, 6, 0x40, 1, 0x0, .one, 0x0, 0xFFFFFFFF, 0x0, .none, fun _ => true⟩,
  ⟨"FAB.PORT.CRC_COUNT", 0xB001010, 6, 0x40, 1, 0x0, .one, 0x0, 0xFFFFFFFF, 0x0, .none, fun _ => true⟩
  ]

/-- Register tables of the FAB block, part 1. -/
def fabRows1 : List RegRow := [
  ⟨"FAB.PORT.DOWN_COUNT", 0xB001014, 6, 0x40, 1, 0x0, .one, 0x0, 0xFFFFFFFF, 0x0, .none, fun _ => true⟩,
  ⟨"FAB.PORT.PEER_ID_LO", 0xB001018, 6, 0x40, 1, 0x0, .lo, 0x0, 0x0, 0x0, .none, fun _ => true⟩,
  ⟨"FAB.PORT.PEER_ID_HI", 0xB00101C, 6, 0x40, 1, 0x0, .hi, 0x0, 0x0, 0x0, .none, fun _ => true⟩
  ]

/-- Register tables of the ETH block, part 0. -/
def ethRows0 : List RegRow := [
  ⟨"ETH.PORT.CFG", 0xC000000, 2, 0x100, 1, 0x0, .one, 0xE0007FFF, 0x0, 0x0, .ethPort, fun _ => true⟩,
  ⟨"ETH.PORT.MAC_LO", 0xC000004, 2, 0x100, 1, 0x0, .lo, 0xFFFFFFFF, 0x0, 0x0, .ethPort, fun _ => true⟩,
  ⟨"ETH.PORT.MAC_HI", 0xC000008, 2, 0x100, 1, 0x0, .hi, 0xFFFF, 0x0, 0x0, .ethPort, fun _ => true⟩,
  ⟨"ETH.PORT.STATUS", 0xC00000C, 2, 0x100, 1, 0x0, .one, 0x0, 0x0, 0x0, .none, fun _ => true⟩,
  ⟨"ETH.PORT.RX_DROP", 0xC000010, 2, 0x100, 1, 0x0, .one, 0x0, 0xFFFFFFFF, 0x0, .none, fun _ => true⟩,
  ⟨"ETH.PORT.SEC_DROP", 0xC000014, 2, 0x100, 1, 0x0, .one, 0x0, 0xFFFFFFFF, 0x0, .none, fun _ => true⟩,
  ⟨"ETH.PORT.QBV_CTRL", 0xC000018, 2, 0x100, 1, 0x0, .one, 0x800001FF, 0x0, 0x0, .qbvCtrl, fun v => decide (1 ≤ f v 8 0 ∧ f v 8 0 ≤ 256)⟩,
  ⟨"ETH.PORT.QBV_CYCLE", 0xC00001C, 2, 0x100, 1, 0x0, .one, 0xFFFFFFFF, 0x0, 0x0, .ethPort, fun v => decide (1000 ≤ v ∧ v ≤ 1000000000)⟩,
  ⟨"ETH.PORT.QBV_BASE_LO", 0xC000020, 2, 0x100, 1, 0x0, .lo, 0xFFFFFFFF, 0x0, 0x0, .ethPort, fun _ => true⟩,
  ⟨"ETH.PORT.QBV_BASE_HI", 0xC000024, 2, 0x100, 1, 0x0, .hi, 0xFFFFFFFF, 0x0, 0x0, .ethPort, fun _ => true⟩,
  ⟨"ETH.PORT.CBS_A", 0xC000028, 2, 0x100, 1, 0x0, .one, 0xFFFFFFFF, 0x0, 0x0, .none, fun v => decide (v ≤ 2500000)⟩,
  ⟨"ETH.PORT.CBS_B", 0xC00002C, 2, 0x100, 1, 0x0, .one, 0xFFFFFFFF, 0x0, 0x0, .none, fun v => decide (v ≤ 2500000)⟩
  ]

/-- Register tables of the ETH block, part 1. -/
def ethRows1 : List RegRow := [
  ⟨"ETH.PORT.MACSEC", 0xC000030, 2, 0x100, 1, 0x0, .one, 0xFFFFFFFF, 0x0, 0x0, .ethPort, fun _ => true⟩,
  ⟨"ETH.IP4_ADDR", 0xC000400, 1, 0x0, 1, 0x0, .one, 0xFFFFFFFF, 0x0, 0x0, .none, fun _ => true⟩,
  ⟨"ETH.IP6_ADDR", 0xC000410, 4, 0x4, 1, 0x0, .one, 0xFFFFFFFF, 0x0, 0x0, .none, fun _ => true⟩,
  ⟨"ETH.TIME_LO", 0xC000800, 1, 0x0, 1, 0x0, .lo, 0x0, 0x0, 0x0, .none, fun _ => true⟩,
  ⟨"ETH.TIME_HI", 0xC000804, 1, 0x0, 1, 0x0, .hi, 0x0, 0x0, 0x0, .none, fun _ => true⟩,
  ⟨"ETH.TIME_SET_LO", 0xC000808, 1, 0x0, 1, 0x0, .lo, 0xFFFFFFFF, 0x0, 0x0, .timeSet, fun _ => true⟩,
  ⟨"ETH.TIME_SET_HI", 0xC00080C, 1, 0x0, 1, 0x0, .hi, 0xFFFFFFFF, 0x0, 0x0, .timeSet, fun _ => true⟩,
  ⟨"ETH.GPTP_CFG", 0xC000810, 1, 0x0, 1, 0x0, .one, 0xF8FF7F07, 0x0, 0x0, .none, fun v => decide (f v 31 30 < 3 ∧ f v 2 0 < 6)⟩,
  ⟨"ETH.GPTP_STATUS", 0xC000814, 1, 0x0, 1, 0x0, .one, 0x0, 0x0, 0x0, .none, fun _ => true⟩,
  ⟨"ETH.OFFSET", 0xC000818, 1, 0x0, 1, 0x0, .one, 0x0, 0x0, 0x0, .none, fun _ => true⟩,
  ⟨"ETH.GCL.W0", 0xC001000, 2, 0x800, 256, 0x8, .one, 0xFF, 0x0, 0x0, .gcl, fun _ => true⟩,
  ⟨"ETH.GCL.W1", 0xC001004, 2, 0x800, 256, 0x8, .one, 0xFFFFFFFF, 0x0, 0x0, .gcl, fun v => decide (64 ≤ v)⟩
  ]

/-- Register tables of the ETH block, part 2. -/
def ethRows2 : List RegRow := [
  ⟨"ETH.FRER.CFG", 0xC002000, 32, 0x10, 1, 0x0, .one, 0xFFFFF3FF, 0x0, 0x0, .tsn, fun v => decide (f v 31 31 = 0 ∨ 1 ≤ f v 9 0)⟩,
  ⟨"ETH.FRER.KEY0", 0xC002004, 32, 0x10, 1, 0x0, .one, 0xFFFFFFFF, 0x0, 0x0, .tsn, fun _ => true⟩,
  ⟨"ETH.FRER.KEY1", 0xC002008, 32, 0x10, 1, 0x0, .one, 0xFFFFFFFF, 0x0, 0x0, .tsn, fun _ => true⟩,
  ⟨"ETH.FRER.COUNT", 0xC00200C, 32, 0x10, 1, 0x0, .one, 0x0, 0xFFFFFFFF, 0x0, .none, fun _ => true⟩,
  ⟨"ETH.PSFP.CFG", 0xC002400, 64, 0x10, 1, 0x0, .one, 0xFFFEFFFF, 0x0, 0x0, .tsn, fun v => decide ((f v 30 24 < 32 ∨ f v 30 24 = 127) ∧ (f v 23 17 < 32 ∨ f v 23 17 = 127))⟩,
  ⟨"ETH.PSFP.KEY0", 0xC002404, 64, 0x10, 1, 0x0, .one, 0xFFFFFFFF, 0x0, 0x0, .tsn, fun _ => true⟩,
  ⟨"ETH.PSFP.KEY1", 0xC002408, 64, 0x10, 1, 0x0, .one, 0xFFFFFFFF, 0x0, 0x0, .tsn, fun _ => true⟩,
  ⟨"ETH.PSFP.DROPS", 0xC00240C, 64, 0x10, 1, 0x0, .one, 0x0, 0xFFFFFFFF, 0x0, .none, fun _ => true⟩,
  ⟨"ETH.METER", 0xC002800, 32, 0x10, 4, 0x4, .one, 0xFFFFFFFF, 0x0, 0x0, .tsn, fun _ => true⟩,
  ⟨"ETH.SGATE.CFG", 0xC002C00, 32, 0x80, 1, 0x0, .one, 0x8000000F, 0x0, 0x0, .tsn, fun _ => true⟩,
  ⟨"ETH.SGATE.CYCLE", 0xC002C04, 32, 0x80, 1, 0x0, .one, 0xFFFFFFFF, 0x0, 0x0, .tsn, fun _ => true⟩,
  ⟨"ETH.SGATE.E_OPEN", 0xC002C40, 32, 0x80, 8, 0x8, .one, 0x1, 0x0, 0x0, .tsn, fun _ => true⟩
  ]

/-- Register tables of the ETH block, part 3. -/
def ethRows3 : List RegRow := [
  ⟨"ETH.SGATE.E_IVAL", 0xC002C44, 32, 0x80, 8, 0x8, .one, 0xFFFFFFFF, 0x0, 0x0, .tsn, fun _ => true⟩,
  ⟨"ETH.RRP_CFG", 0xC004000, 1, 0x0, 1, 0x0, .one, 0xC0FFFFFF, 0x0, 0x0, .rrpCfg, fun v => decide ((f v 31 31 = 0 ∨ 1 ≤ f v 15 0) ∧ (f v 23 16 = 0 ∨ 10 ≤ f v 23 16))⟩,
  ⟨"ETH.RRP_PEER", 0xC004004, 1, 0x0, 1, 0x0, .one, 0xFFFF, 0x0, 0x0, .rrpPeer, fun _ => true⟩,
  ⟨"ETH.RRP_PEER_ADDR", 0xC004010, 4, 0x4, 1, 0x0, .one, 0xFFFFFFFF, 0x0, 0x0, .rrpPeer, fun _ => true⟩,
  ⟨"ETH.RRP_STATUS", 0xC004020, 1, 0x0, 1, 0x0, .one, 0x0, 0x0, 0x0, .none, fun _ => true⟩,
  ⟨"ETH.RRP_SESSION", 0xC004024, 1, 0x0, 1, 0x0, .one, 0x0, 0x0, 0x0, .none, fun _ => true⟩,
  ⟨"ETH.RRP_RETX_COUNT", 0xC004028, 1, 0x0, 1, 0x0, .one, 0x0, 0xFFFFFFFF, 0x0, .none, fun _ => true⟩
  ]

/-- Register tables of the PWR block, part 0. -/
def pwrRows0 : List RegRow := [
  ⟨"PWR.STATE", 0xD000000, 1, 0x0, 1, 0x0, .one, 0x0, 0x0, 0xF, .pwrState, fun v => decide (v = 2)⟩,
  ⟨"PWR.WAKE_CFG", 0xD000004, 1, 0x0, 1, 0x0, .one, 0x7, 0x0, 0x0, .none, fun _ => true⟩,
  ⟨"PWR.WAKE_TIME_LO", 0xD000008, 1, 0x0, 1, 0x0, .lo, 0xFFFFFFFF, 0x0, 0x0, .none, fun _ => true⟩,
  ⟨"PWR.WAKE_TIME_HI", 0xD00000C, 1, 0x0, 1, 0x0, .hi, 0xFFFFFFFF, 0x0, 0x0, .none, fun _ => true⟩,
  ⟨"PWR.DORMANT_SAVE_LO", 0xD000010, 1, 0x0, 1, 0x0, .lo, 0xFFFFFFFF, 0x0, 0x0, .none, fun v => decide (v % 65536 = 0)⟩,
  ⟨"PWR.DORMANT_SAVE_HI", 0xD000014, 1, 0x0, 1, 0x0, .hi, 0xFFFFFFFF, 0x0, 0x0, .none, fun v => decide (v < 256)⟩,
  ⟨"PWR.DOMAIN_STATUS", 0xD000020, 1, 0x0, 1, 0x0, .one, 0x0, 0x0, 0x0, .none, fun _ => true⟩,
  ⟨"PWR.GOV_CFG", 0xD000030, 1, 0x0, 1, 0x0, .one, 0xFF0FFF, 0x0, 0x0, .none, fun v => decide (f v 23 16 ≤ 50 ∧ 600 ≤ f v 11 0 ∧ f v 11 0 ≤ 850)⟩,
  ⟨"PWR.GOV_STATUS", 0xD000034, 1, 0x0, 1, 0x0, .one, 0x0, 0x0, 0x0, .none, fun _ => true⟩,
  ⟨"PWR.POWER", 0xD000038, 1, 0x0, 1, 0x0, .one, 0x0, 0x0, 0x0, .none, fun _ => true⟩,
  ⟨"PWR.TEMP", 0xD00003C, 1, 0x0, 1, 0x0, .one, 0x0, 0x0, 0x0, .none, fun _ => true⟩,
  ⟨"PWR.THERM_COUNT", 0xD000040, 1, 0x0, 1, 0x0, .one, 0x0, 0xFFFFFFFF, 0x0, .none, fun _ => true⟩
  ]

/-- Register tables of the PWR block, part 1. -/
def pwrRows1 : List RegRow := [
  ⟨"PWR.FAULT_COUNT", 0xD000044, 1, 0x0, 1, 0x0, .one, 0x0, 0xFFFFFFFF, 0x0, .none, fun _ => true⟩,
  ⟨"PWR.SUBST_COUNT", 0xD000048, 1, 0x0, 1, 0x0, .one, 0x0, 0xFFFFFFFF, 0x0, .none, fun _ => true⟩,
  ⟨"PWR.SCRUB_HOURS", 0xD00004C, 1, 0x0, 1, 0x0, .one, 0xFF, 0x0, 0x0, .none, fun v => decide (1 ≤ v ∧ v ≤ 168)⟩,
  ⟨"PWR.RING", 0xD000100, 104, 0x4, 1, 0x0, .one, 0x0, 0x0, 0x0, .none, fun _ => true⟩,
  ⟨"PWR.MAINT_REQ", 0xD000300, 1, 0x0, 1, 0x0, .one, 0x0, 0x0, 0xFFFFFFFF, .maintReq, fun v => decide (1 ≤ f v 23 20 ∧ f v 23 20 ≤ 7 ∧ (f v 19 16 = 1 ∨ f v 19 16 = 2))⟩,
  ⟨"PWR.MAINT_RESP", 0xD000304, 1, 0x0, 1, 0x0, .one, 0x0, 0x0, 0x0, .none, fun _ => true⟩,
  ⟨"PWR.TOKEN", 0xD000310, 19, 0x4, 1, 0x0, .one, 0x0, 0x0, 0x0, .none, fun _ => true⟩,
  ⟨"PWR.CONS_SNAP", 0xD000400, 1, 0x0, 1, 0x0, .one, 0x0, 0x0, 0x1, .consSnap, fun _ => true⟩,
  ⟨"PWR.CONS.ISSUED_LO", 0xD001000, 39, 0x20, 1, 0x0, .lo, 0x0, 0x0, 0x0, .none, fun _ => true⟩,
  ⟨"PWR.CONS.ISSUED_HI", 0xD001004, 39, 0x20, 1, 0x0, .hi, 0x0, 0x0, 0x0, .none, fun _ => true⟩,
  ⟨"PWR.CONS.RETURNED_LO", 0xD001008, 39, 0x20, 1, 0x0, .lo, 0x0, 0x0, 0x0, .none, fun _ => true⟩,
  ⟨"PWR.CONS.RETURNED_HI", 0xD00100C, 39, 0x20, 1, 0x0, .hi, 0x0, 0x0, 0x0, .none, fun _ => true⟩
  ]

/-- Register tables of the PWR block, part 2. -/
def pwrRows2 : List RegRow := [
  ⟨"PWR.CONS.OUTSTANDING", 0xD001010, 39, 0x20, 1, 0x0, .one, 0x0, 0x0, 0x0, .none, fun _ => true⟩,
  ⟨"PWR.CONS.CAPACITY", 0xD001014, 39, 0x20, 1, 0x0, .one, 0x0, 0x0, 0x0, .none, fun _ => true⟩,
  ⟨"PWR.CONS.FAILED", 0xD001018, 39, 0x20, 1, 0x0, .one, 0x0, 0xFFFFFFFF, 0x0, .none, fun _ => true⟩
  ]

/-- Register tables of the SEC block, part 0. -/
def secRows0 : List RegRow := [
  ⟨"SEC.STATUS", 0xE000000, 1, 0x0, 1, 0x0, .one, 0x0, 0x0, 0x0, .none, fun _ => true⟩,
  ⟨"SEC.OWNER_NO", 0xE000004, 1, 0x0, 1, 0x0, .one, 0x0, 0x0, 0x0, .none, fun _ => true⟩,
  ⟨"SEC.OWNER_DIGEST", 0xE000010, 16, 0x4, 1, 0x0, .one, 0x0, 0x0, 0x0, .none, fun _ => true⟩,
  ⟨"SEC.DEVICE_ID_LO", 0xE000050, 1, 0x0, 1, 0x0, .lo, 0x0, 0x0, 0x0, .none, fun _ => true⟩,
  ⟨"SEC.DEVICE_ID_HI", 0xE000054, 1, 0x0, 1, 0x0, .hi, 0x0, 0x0, 0x0, .none, fun _ => true⟩,
  ⟨"SEC.MGMT_VERSION", 0xE000058, 1, 0x0, 1, 0x0, .one, 0x0, 0x0, 0x0, .none, fun _ => true⟩,
  ⟨"SEC.POD_VERSION", 0xE00005C, 1, 0x0, 1, 0x0, .one, 0x0, 0x0, 0x0, .none, fun _ => true⟩,
  ⟨"SEC.MKA", 0xE000060, 2, 0x4, 1, 0x0, .one, 0x0, 0x0, 0x0, .none, fun _ => true⟩,
  ⟨"SEC.FAIL_COUNT", 0xE000070, 1, 0x0, 1, 0x0, .one, 0x0, 0xFFFFFFFF, 0x0, .none, fun _ => true⟩,
  ⟨"SEC.REQ_COUNT", 0xE000074, 1, 0x0, 1, 0x0, .one, 0x0, 0xFFFFFFFF, 0x0, .none, fun _ => true⟩,
  ⟨"SEC.IDREC", 0xE001000, 2181, 0x4, 1, 0x0, .one, 0x0, 0x0, 0x0, .none, fun _ => true⟩
  ]

/-- Register tables of the LOG block, part 0. -/
def logRows0 : List RegRow := [
  ⟨"LOG.HEAD", 0xF000000, 1, 0x0, 1, 0x0, .one, 0x0, 0x0, 0x0, .none, fun _ => true⟩,
  ⟨"LOG.ENTRY", 0xF100000, 16384, 0x10, 4, 0x4, .one, 0x0, 0x0, 0x0, .none, fun _ => true⟩
  ]

/-- The register table of block b (02 R30); DISP1 has DISP0's table at its own base. -/
def regBlock : Nat → List RegRow
  | 0 => mgmtRows0 ++ mgmtRows1
  | 1 => podRows0 ++ podRows1
  | 2 => leekRows0
  | 3 => ddrRows0
  | 4 => winRows0 ++ winRows1
  | 5 => ringRows0 ++ ringRows1
  | 6 => cxpRows0
  | 7 => rsmpRows0 ++ rsmpRows1 ++ rsmpRows2
  | 8 => trkRows0
  | 9 => dispRows0 ++ dispRows1 ++ dispRows2
  | 10 => dispRows0 ++ dispRows1 ++ dispRows2
  | 11 => fabRows0 ++ fabRows1
  | 12 => ethRows0 ++ ethRows1 ++ ethRows2 ++ ethRows3
  | 13 => pwrRows0 ++ pwrRows1 ++ pwrRows2
  | 14 => secRows0
  | 15 => logRows0
  | _ => []

/-- Whether the address is a register of the row, and its array indices. -/
def RegRow.hit (r : RegRow) (a : Nat) : Option (Nat × Nat) :=
  if a < r.addr then none else
  let d := a - r.addr
  if r.n1 * r.n2 = 1 then (if d = 0 then some (0, 0) else none) else
  let i := if r.s1 = 0 then 0 else d / r.s1
  let e := if r.s1 = 0 then d else d % r.s1
  let j := if r.s2 = 0 then 0 else e / r.s2
  let g := if r.s2 = 0 then e else e % r.s2
  if i < r.n1 ∧ j < r.n2 ∧ g = 0 then some (i, j) else none

/-- First register of a table that an address names. -/
def findRow : List RegRow → Nat → Option (RegRow × Nat × Nat)
  | [], _ => none
  | r :: t, a => match r.hit a with
    | some (i, j) => some (r, i, j)
    | none => findRow t a

/-- The register at an address (less 0x60_0000_0000), none where an offset holds no register (00 R11). -/
def findReg (a : Nat) : Option (RegRow × Nat × Nat) := findRow (regBlock (a / 2 ^ 24)) a

/-- The Reset column (00 R19): the registers whose reset value is not 0. Of ETH's FRER and PSFP registers, but for their counters, and
of its SGATE registers 12 R414 gives no reset value; the model resets them to 0 (DESIGN CHOICE, log entry 102). -/
def regReset (a : Nat) : Word :=
  if a = 0x0 then 0x1000000 else
  if 0x40 ≤ a ∧ a < 0xA0 ∧ (a - 0x40) % 0x4 = 0 then 0xFFFFFFFF else
  if a = 0x3F00 then 0x3E8 else
  if a = 0x2000200 then 0xA else
  if a = 0x2000204 then 0x3 else
  if a = 0x3000400 then 0xF1E37 else
  if a = 0x3000404 then 0xF1E37 else
  if 0x5001014 ≤ a ∧ a < 0x5002014 ∧ (a - 0x5001014) % 0x40 = 0 then 0x80000000 else
  if 0x9000064 ≤ a ∧ a < 0xB000064 ∧ (a - 0x9000064) % 0x1000000 = 0 then 0xFFFFFFFF else
  if 0xB001000 ≤ a ∧ a < 0xB001180 ∧ (a - 0xB001000) % 0x40 = 0 then 0xC0000000 else
  if 0xB001004 ≤ a ∧ a < 0xB001184 ∧ (a - 0xB001004) % 0x40 = 0 then 0xFFFF else
  if a = 0xC000810 then 0xF80002 else
  if a = 0xD000004 then 0x1 else
  if a = 0xD000020 then 0x1 else
  if a = 0xD000030 then 0xA02EE else
  if a = 0xD00004C then 0x18 else
  0

end Sys2Proof.Machine
end

