-- ==== Sys2Proof/Machine/Ops.lean ====
section
/-! DEFINITION. The named operations over the state: memory and poison, registers and counters, the log, power
domains, conserved pools, free values, and the window check. -/
namespace Sys2Proof.Machine

/-! ### Memory: cells sorted by address, no cell equal to the 0 that an unlisted address reads as -/

/-- The byte at an address. -/
def memGet : List Host.Cell → Nat → Byte
  | [], _ => 0
  | (k, v) :: t, a => if k = a then v else memGet t a

/-- Insert or replace the cell of an address. -/
def cellSet : List Host.Cell → Nat → Byte → List Host.Cell
  | [], a, b => [(a, b)]
  | (k, v) :: t, a, b =>
    if a < k then (a, b) :: (k, v) :: t else if k = a then (a, b) :: t else (k, v) :: cellSet t a b

/-- Remove the cell of an address. -/
def cellDel : List Host.Cell → Nat → List Host.Cell
  | [], _ => []
  | (k, v) :: t, a => if k = a then t else (k, v) :: cellDel t a

/-- Write one byte; writing 0 removes the cell. -/
def memPut (m : List Host.Cell) (a : Nat) (b : Byte) : List Host.Cell :=
  if b = 0 then cellDel m a else cellSet m a b

/-- The bytes from an address. -/
def memGetN (m : List Host.Cell) (a n : Nat) : List Byte := (List.range n).map fun i => memGet m (a + i)

/-- Write bytes from an address. -/
def memPutN : List Host.Cell → Nat → List Byte → List Host.Cell
  | m, _, [] => m
  | m, a, b :: bs => memPutN (memPut m a b) (a + 1) bs

/-- Every cell of a list lies above an address. -/
def cellsAbove (a : Nat) (m : List Host.Cell) : Bool := m.all fun c => decide (a < c.1)

/-- The canonical form of memory. -/
def Memory.wf : List Host.Cell → Bool
  | [] => true
  | (k, v) :: t => decide (v ≠ 0) && cellsAbove k t && Memory.wf t

/-- Memory without the contents of the addresses a predicate selects: they read as never written (log entry 2). -/
def memLose (m : List Host.Cell) (p : Nat → Bool) : List Host.Cell := m.filter fun c => !(p c.1)

/-! ### Registers -/

/-- The stored value of a plain register (its address less 0x60_0000_0000). -/
def regGet (s : State) (a : Nat) : Nat := ((tget s.regs a).getD (regReset a)).toNat

/-- Store a register's value. -/
def regPut (s : State) (a v : Nat) : State := { s with regs := tset s.regs a (BitVec.ofNat 32 v) }

/-- A 64-bit pair, by the address of its low half. -/
def reg64 (s : State) (a : Nat) : Nat := regGet s a + 2 ^ 32 * regGet s (a + 4)

/-- Store a 64-bit pair. -/
def regPut64 (s : State) (a v : Nat) : State := regPut (regPut s a (v % 2 ^ 32)) (a + 4) (v / 2 ^ 32)

/-- Set a field of a stored register. -/
def regSetF (s : State) (a hi lo x : Nat) : State := regPut s a (setF (regGet s a) hi lo x)

/-- Add to a 32-bit counter that stops at its largest value. -/
def bumpBy (s : State) (a n : Nat) : State := if n = 0 then s else regPut s a (min (regGet s a + n) (2 ^ 32 - 1))

/-- Count one event. -/
def bump (s : State) (a : Nat) : State := bumpBy s a 1

/-- Add to a field of a counter register, which stops at its largest value. -/
def bumpF (s : State) (a hi lo : Nat) : State :=
  regSetF s a hi lo (min (f (regGet s a) hi lo + 1) (2 ^ (hi + 1 - lo) - 1))

/-- Add to a 64-bit counter pair. -/
def bump64 (s : State) (a n : Nat) : State := regPut64 s a (min (reg64 s a + n) (2 ^ 64 - 1))

/-! ### Power domains (14 R444) -/

/-- Whether a domain is powered: its bit of PWR.DOMAIN_STATUS. -/
def powered (s : State) (d : Nat) : Bool := bitOf (regGet s 0xD000020) d

/-- Power a domain on or off. -/
def setPower (s : State) (d : Nat) (on : Bool) : State := regSetF s 0xD000020 d d (b2n on)

/-- The time base runs from the powering of the Ethernet domain, and in Dormant on the always-on slow clock
(14 R453, R465). -/
def timeRunning (s : State) : Bool := powered s 2 || s.power.mode == 2

/-- The part of the phase correction that this nanosecond takes: 1 ns in 5,000, which is 200 ppm (12 R410). -/
def slewNow (s : State) : Int :=
  if s.elapsed % 5000 = 4999 then (if s.eth.slew < 0 then -1 else if 0 < s.eth.slew then 1 else 0) else 0

/-- One nanosecond in which no command arrives (log entry 1). -/
def tick (s : State) : State :=
  if timeRunning s then
    { s with time := s.time + (1 + slewNow s).toNat, elapsed := s.elapsed + 1,
             eth := { s.eth with slew := s.eth.slew - slewNow s } }
  else { s with elapsed := s.elapsed + 1 }

/-! ### The log (14 R465) -/

/-- Write one entry, newest first; the ring keeps 16,384. -/
def logPush (s : State) (e : LogEntry) : State :=
  { s with log := (e :: s.log).take 16384, logHead := (s.logHead + 1) % 2 ^ 32 }

/-- The time field and tb flag of a new entry. -/
def logTime (s : State) : Nat × Nat := if timeRunning s then (s.time, 0) else (s.elapsed / 40 * 40, 8)

/-- An entry without continuation: code, source block, severity, arg. -/
def logAdd (s : State) (code source sev arg : Nat) : State :=
  logPush s ⟨(logTime s).1 % 2 ^ 64, code, source, sev + (logTime s).2, arg % 2 ^ 32⟩

/-- An entry with a continuation of 12 bytes: a number of 8 and one of 4. -/
def logAdd2 (s : State) (code source sev arg c8 c4 : Nat) : State :=
  logPush (logPush s ⟨(logTime s).1 % 2 ^ 64, code, source, sev + 4 + (logTime s).2, arg % 2 ^ 32⟩)
    ⟨c8 % 2 ^ 64, 0xFFFF, 0, 0, c4 % 2 ^ 32⟩

/-- Entry number i, where the log still holds it. -/
def logEntry (s : State) (i : Nat) : Option LogEntry :=
  if i < s.logHead then s.log[s.logHead - 1 - i]? else none

/-- A refused register write (00 R17, 14 R467): the full address, the value and the writer. -/
def logRefused (s : State) (w : Writer) (addr : Nat) (value : Word) : State :=
  let wn := match w with | .core => 0 | .rrp => 1 | .sprout => 2 | .debug => 3
  logAdd2 s 0x0501 (f addr 27 24) 1 (addr % 2 ^ 32) (value.toNat + 2 ^ 32 * f addr 39 32 + 2 ^ 40 * wn) 0

/-! ### Conserved pools (14 R463) -/

/-- Issue n of pool i. -/
def consIssue (s : State) (i n : Nat) : State :=
  { s with cons := modAt s.cons i fun c =>
      { c with issued := (c.issued + n) % 2 ^ 64, outstanding := (c.outstanding + n) % 2 ^ 32 } }

/-- Return n of pool i. -/
def consReturn (s : State) (i n : Nat) : State :=
  { s with cons := modAt s.cons i fun c =>
      { c with returned := (c.returned + n) % 2 ^ 64, outstanding := (c.outstanding + 2 ^ 32 - n % 2 ^ 32) % 2 ^ 32 } }

/-- Set the capacity of pool i. -/
def consCap (s : State) (i n : Nat) : State :=
  { s with cons := modAt s.cons i fun c => { c with capacity := n } }

/-- 14 R464: the check of one pool. -/
def Cons.ok (c : Cons) : Bool :=
  decide ((c.issued + 2 ^ 64 - c.returned) % 2 ^ 32 = c.outstanding ∧ c.outstanding ≤ c.capacity)

/-! ### Free values -/

/-- n bytes that the manual leaves open, each time new ones. -/
def freeBytes (s : State) (n : Nat) : List Byte × State :=
  ((List.range n).map fun i => Config.freeByte s.freeNo i, { s with freeNo := s.freeNo + 1 })

/-! ### The address map (02 R30 to R33) -/

/-- Parts of the physical address space. -/
inductive Region where
  | lpddr | leek (half : Nat) | podStore (p : Nat) | regs | nothing
deriving DecidableEq, Repr

/-- 02 R30. -/
def region (a : Nat) : Region :=
  if a < 0x2000000000 then .lpddr
  else if 0x4000000000 ≤ a ∧ a < 0x4002000000 then .leek 0
  else if 0x4002000000 ≤ a ∧ a < 0x4004000000 then .leek 1
  else if 0x4100000000 ≤ a ∧ a < 0x410D000000 ∧ (a - 0x4100000000) % 0x200000 < 0x180000 then
    .podStore ((a - 0x4100000000) / 0x200000)
  else if 0x6000000000 ≤ a ∧ a < 0x6010000000 then .regs
  else .nothing

/-- Attached data capacity in bytes, as DDR.CAPACITY shows it (10 R342). -/
def capacity (s : State) : Nat := regGet s 0x3000004 * 2 ^ 26

/-- The wave that powers a physical pod (13 R421). -/
def waveOf (pod : Nat) : Nat := pod / 13

/-- The pod store answers: its pod passed the harvest and its wave is powered (02 R32). -/
def podBacked (s : State) (p : Nat) : Bool := s.pods.good.contains p && powered s (12 + waveOf p)

/-- 02 R32 for what device masters and cores reach as memory. -/
def backed (s : State) (a : Nat) : Bool :=
  match region a with
  | .lpddr => decide (a < capacity s)
  | .leek h => s.leekUp.getD h false
  | .podStore p => podBacked s p
  | _ => false

/-! ### Poison (10 R344, R347) -/

/-- Size of the unit that check bits protect: an LPDDR block or a Leek word. -/
def eccUnit (a : Nat) : Nat := match region a with | .leek _ => 8 | _ => 64

/-- Start of the protected unit of an address. -/
def eccBase (a : Nat) : Nat := a / eccUnit a * eccUnit a

/-- First poisoned unit that a range of addresses touches. -/
def poisonIn (s : State) (a n : Nat) : Option Nat :=
  s.poison.find? fun u => decide (u < a + n ∧ a < u + eccUnit u)

/-- First poisoned unit that a write would touch in part. -/
def poisonPartial (s : State) (a n : Nat) : Option Nat :=
  s.poison.find? fun u => decide (u < a + n ∧ a < u + eccUnit u ∧ ¬ (a ≤ u ∧ u + eccUnit u ≤ a + n))

/-- Bytes written to memory, clearing the poison of every unit written in full. -/
def storeBytes (s : State) (a : Nat) (b : List Byte) : State :=
  { s with mem := memPutN s.mem a b,
           poison := s.poison.filter fun u => !(decide (a ≤ u ∧ u + eccUnit u ≤ a + b.length)) }

/-- 10 R342: channel of an LPDDR address. -/
def ddrChannel (a : Nat) : Nat := a / 64 % 16

/-- 10 R342: byte within the channel at which the data and the check bytes of an LPDDR block lie. -/
def ddrPlace (a : Nat) : Nat × Nat :=
  let q := a / 64 / 16
  (q / 28 * 2048 + q % 28 * 64, q / 28 * 2048 + 1792 + q % 28 * 8)

/-- 02 R31: Leek bank of an address. -/
def leekBank (a : Nat) : Nat := f a 25 25 * 32 + f a 16 12

/-- An uncorrectable unit found by a read or a scrub is poisoned, counted and logged once (10 R344, R347). -/
def poisonUnit (s : State) (a : Nat) (scrub : Bool) : State :=
  let u := eccBase a
  if s.poison.contains u then s else
  let s := { s with poison := insertBy (fun x y => decide (x ≤ y)) u s.poison }
  match region a with
  | .leek _ => logAdd2 (bump s 0x200020C) 0x0203 2 2 (leekBank a + 2 ^ 8 * b2n scrub) u 0
  | .lpddr =>
    logAdd2 (regPut64 (bump s 0x3000014) 0x3000018 u) 0x0204 3 2 (ddrChannel a + 2 ^ 8 * b2n scrub) u 0
  | _ => s

/-- Corrected errors: counted where they were found, or logged for a pod store (10 R344, R347, 14 R455 class 2). -/
def correctUnit (s : State) (a : Nat) : State :=
  match region a with
  | .leek _ => bump s 0x2000208
  | .lpddr => bump s 0x3000010
  | .podStore p => logAdd s 0x0202 1 0 p
  | _ => s

/-- Errors that link ECC corrected, where the training in force set it (10 R341, R344, R350). -/
def linkCorrected (s : State) (n : Nat) : State := if s.ddr.linkEcc && n != 0 then bumpBy s 0x3000020 n else s

/-- Channel pairs on which byte ranges make requests. -/
def pairsOf (l : List (Nat × Nat)) : List Nat :=
  (List.range 8).filter fun p => l.any fun r => region r.1 == .lpddr && r.2 != 0 &&
    (List.range (min 16 ((r.1 + r.2 - 1) / 64 - r.1 / 64 + 1))).any fun i => ddrChannel (r.1 + 64 * i) / 2 == p

/-- Requests to LPDDR are made now (10 R346). -/
def ddrTouch (s : State) (l : List (Nat × Nat)) : State :=
  { s with ddr := { s.ddr with touched := (pairsOf l).foldl (fun t p => tset t p s.elapsed) s.ddr.touched } }

/-- What the check bits found while a command read memory. -/
def memErrors (s : State) (e : MemErrs) (scrub : Bool) : State :=
  let s := e.corrected.foldl correctUnit s
  let s := linkCorrected s e.link
  (e.bad.filter fun a => backed s a).foldl (fun s a => poisonUnit s a scrub) s

/-! ### The window check (10 R324 to R326, R336) -/

/-- An access of a device master: on whose behalf, whether a write, whether over the fabric, and the number under
which it may hold reader references of pool buffers. -/
structure Access where
  owner : Nat
  write : Bool
  fabric : Bool
  holder : Nat
deriving DecidableEq, Repr

/-- Why an access stops: its address and window. -/
inductive MemStop where
  | violation (addr win : Nat) (write : Bool)
  | nonResident (addr win unit : Nat)
  | uncorrectable (addr win : Nat)
deriving DecidableEq, Repr

/-- The window covers the address. -/
def Window.covers (w : Window) (a : Nat) : Bool :=
  decide (w.state = 2 ∧ w.base ≤ a ∧ a < w.base + w.len * 65536)

/-- The residency bit of a store index is 1: runs of (first, count), disjoint and sorted. -/
def residentBit (runs : List (Nat × Nat)) (i : Nat) : Bool := runs.any fun r => decide (r.1 ≤ i ∧ i < r.1 + r.2)

/-- The address's unit of the window is present (10 R325). -/
def Window.present (s : State) (w : Window) (a : Nat) : Bool :=
  !w.tracked || residentBit s.resident (w.resFirst + (a - w.base) / 65536)

/-- The pool bound to window number n, if any: its number and buffer size in bytes (10 R332). -/
def poolOfWindow (s : State) (n : Nat) : Option (Nat × Nat) :=
  (List.range 8).findSome? fun p =>
    let c := regGet s (0x4003000 + p * 0x20)
    if f c 15 0 ≠ 0 ∧ f c 23 16 = n then some (p, f c 15 0 * 65536) else none

/-- State of a pool. -/
def poolGet (s : State) (p : Nat) : Pool := (tget s.pools p).getD ⟨[], [], []⟩

/-- 10 R336: a buffer that is not held is open only to holders of a reference taken before the free; past the pool's last
buffer the window holds none (10 R332). -/
def poolOpen (s : State) (n : Nat) (w : Window) (a holder : Nat) : Bool :=
  if w.kind ≠ 6 then true else
  match poolOfWindow s n with
  | none => true
  | some (p, size) =>
    let b := (a - w.base) / size
    let pl := poolGet s p
    if min (w.len * 65536 / size) 4096 ≤ b then true else
    pl.held.contains b || pl.refs.contains (b, holder)

/-- First address and unit count of the spool pool in a half (06 R216): the top units of the half. -/
def spoolUnits (s : State) (h : Nat) : Nat :=
  let c := regGet s 0x3F04
  if h = 0 then f c 7 0 else f c 23 16

/-- Address of spool-pool buffer i (06 R216): half 0's buffers first, each of 64 KiB. -/
def spoolAddr (s : State) (i : Nat) : Nat :=
  let u0 := spoolUnits s 0
  let u1 := spoolUnits s 1
  if i < 2 * u0 then 0x4000000000 + (256 - u0) * 131072 + i * 65536
  else 0x4002000000 + (256 - u1) * 131072 + (i - 2 * u0) * 65536

/-- Owner of the spool-pool buffer at an address. -/
def spoolOwner (s : State) (a : Nat) : Nat :=
  match s.spool.find? fun e => decide (spoolAddr s e.1 ≤ a ∧ a < spoolAddr s e.1 + 65536) with
  | some e => e.2
  | none => 0

/-- A write to the first 4 KiB of a partition (05 R161). -/
def headerWrite (w : Window) (ac : Access) (a : Nat) : Bool :=
  decide (w.kind = 1) && ac.write && decide (a < w.base + 4096)

/-- 10 R324: whether a window grants an access. -/
def Window.grants (s : State) (n : Nat) (w : Window) (ac : Access) (a : Nat) : Bool :=
  let own := if w.kind = 2 then spoolOwner s a else w.owner
  w.covers a && (own == ac.owner || (w.reader == ac.owner && ac.owner != 0 && !ac.write)) &&
    (if ac.write then w.write else w.read) && (!ac.fabric || w.fabric) && !headerWrite w ac a &&
    poolOpen s n w a ac.holder

/-- The check of one access of at most 64 bytes. -/
def checkAccess (s : State) (ac : Access) (a : Nat) : Option MemStop :=
  let cover := s.wins.filter fun e => e.2.covers a
  let grant := cover.filter fun e => e.2.grants s e.1 ac a
  let first := fun (l : Tab Window) => match l with | [] => 0xFF | e :: _ => e.1
  if !backed s a || grant.isEmpty then some (.violation a (first cover) ac.write)
  else if grant.any fun e => e.2.present s a then none
  else match grant with
    | e :: _ => some (.nonResident a e.1 ((a - e.2.base) / 65536))
    | [] => none

/-- The accesses a range of bytes takes: its first address and every 64-byte block start after it (10 R324). -/
def blocksOf (a n : Nat) : List Nat :=
  if n = 0 then [] else
  a :: (List.range ((a + n - 1) / 64 - a / 64)).map fun i => (a / 64 + 1 + i) * 64

/-- The window an access was granted by, for a report. -/
def grantedBy (s : State) (ac : Access) (a : Nat) : Nat :=
  match s.wins.filter fun e => e.2.grants s e.1 ac a with
  | e :: _ => e.1
  | [] => 0xFF

/-- The check of a range: the first access that stops. -/
def checkRange (s : State) (ac : Access) (a n : Nat) : Option MemStop := (blocksOf a n).findSome? (checkAccess s ac)

/-- A device master reads a range. -/
def devRead (s : State) (ac : Access) (a n : Nat) : Except MemStop (List Byte) :=
  match checkRange s ac a n with
  | some e => .error e
  | none =>
    match poisonIn s a n with
    | some u => .error (.uncorrectable u (grantedBy s ac u))
    | none => .ok (memGetN s.mem a n)

/-- A device master writes a range: everything, or nothing where an access of it stops. -/
def devWrite (s : State) (ac : Access) (a : Nat) (b : List Byte) : Except MemStop State :=
  match checkRange s ac a b.length with
  | some e => .error e
  | none =>
    match poisonPartial s a b.length with
    | some u => .error (.uncorrectable u (grantedBy s ac u))
    | none => .ok (storeBytes (ddrTouch s [(a, b.length)]) a b)

/-- Counters and log of a stopped access (10 R326, 14 R467); the owner is the access's. -/
def noteStop (s : State) (owner : Nat) : MemStop → State
  | .violation a w wr => logAdd2 (bump s 0x4002008) 0x0405 4 2 (w + 2 ^ 8 * owner + 2 ^ 15 * b2n wr) a 0
  | .nonResident a w u => logAdd2 (bump s 0x400200C) 0x0406 4 1 (w + 2 ^ 8 * owner + 2 ^ 16 * (u % 2 ^ 16)) a 0
  | .uncorrectable _ _ => s

/-- The same where there was a stop. -/
def noteStopOf (s : State) (owner : Nat) (m : Option MemStop) : State := match m with
  | some m => noteStop s owner m
  | none => s

/-- Cause code of a stopped access (06 R210). -/
def MemStop.cause : MemStop → Nat
  | .violation .. => 0x02
  | .nonResident .. => 0x01
  | .uncorrectable .. => 0x05

def MemStop.addr : MemStop → Nat
  | .violation a _ _ => a
  | .nonResident a _ _ => a
  | .uncorrectable a _ => a

def MemStop.win : MemStop → Nat
  | .violation _ w _ => w
  | .nonResident _ w _ => w
  | .uncorrectable _ w => w

/-- The detail of the position record (06 R211). -/
def MemStop.detail : MemStop → Nat
  | .violation _ _ wr => b2n wr
  | .nonResident _ _ u => u % 2 ^ 16
  | .uncorrectable _ _ => 0

/-- The access of owner 0 that ring fetches and commander structures use (10 R324). -/
def readBy (owner holder : Nat) : Access := ⟨owner, false, false, holder⟩

def writeBy (owner holder : Nat) : Access := ⟨owner, true, false, holder⟩

/-! ### Active pods (02 R28) -/

/-- Number of active pods. -/
def activePods (s : State) : Nat := s.pods.lmap.length

/-- Logical index of a physical pod. -/
def logicalOf (s : State) (p : Nat) : Option Nat := s.pods.lmap.findIdx? (· == p)

end Sys2Proof.Machine
end

