-- ==== Sys2Proof/Machine/Ring.lean ====
section
/-! DEFINITION. Shared operations of the rings: RRP messages sent, completions, events, result records, scoreboard
slots, works, and the state changes of streams (09 R282 to R313, 06 R193). -/
namespace Sys2Proof.Machine

/-! ### RRP messages the device sends (09 R311 to R313) -/

/-- The session can take a further message at once. -/
def rrpRoom (s : State) : Bool := decide (s.rrp.state = 1 ∧ s.rrp.unacked.length < 256)

/-- Send a message that consumes a sequence number; with no session nothing is sent. -/
def rrpSend (s : State) (type : Nat) (payload : List Byte) : State :=
  if s.rrp.state = 0 then s else
  let r := s.rrp
  { s with rrp := { r with
      unacked := r.unacked ++ [⟨r.txSeq, type, payload, 0, s.elapsed⟩],
      txSeq := (r.txSeq + 1) % 2 ^ 32 } }

/-- The 24-byte header of a message (09 R311). -/
def rrpHeader (type session seq ack len : Nat) : List Byte :=
  leBytes 1 type ++ leBytes 1 1 ++ leBytes 2 0 ++ leBytes 4 session ++ leBytes 4 seq ++ leBytes 4 ack ++ leBytes 2 len ++
    leBytes 6 0

/-- The UDP payload of a message as the device sends it now: each sending carries the present ack (09 R311, R313). -/
def RrpMsg.wire (r : Rrp) (m : RrpMsg) : List Byte :=
  rrpHeader m.type r.session m.seq r.rxSeq m.payload.length ++ m.payload

/-- The messages on their way: those of the window of 256. -/
def rrpWire (s : State) : List (List Byte) := (s.rrp.unacked.take 256).map (RrpMsg.wire s.rrp)

/-- WRITE messages of at most 1,024 bytes for a run of host memory. -/
def rrpWrite : Nat → State → Nat → List Byte → State
  | 0, s, _, _ => s
  | n + 1, s, a, b =>
    if b.isEmpty then s else
    let d := b.take 1024
    rrpWrite n (rrpSend s 0x06 (leBytes 8 a ++ leBytes 2 d.length ++ leBytes 6 0 ++ d)) (a + 1024) (b.drop 1024)

/-- WRITE messages for the whole of a run. -/
def hostWrite (s : State) (a : Nat) (b : List Byte) : State := rrpWrite (b.length / 1024 + 1) s a b

/-! ### Ring pairs -/

/-- A pair before anything has happened on it. -/
def Pair.reset : Pair := ⟨0, 0, 0, 0, [], [], false, none, [], 0, []⟩

def pairGet (s : State) (p : Nat) : Pair := (tget s.pairs p).getD Pair.reset

def pairPut (s : State) (p : Nat) (x : Pair) : State := { s with pairs := tset s.pairs p x }

/-- RING.PAIR_n.CFG (09 R319). -/
def pairCfg (s : State) (p : Nat) : Nat := regGet s (0x5001010 + p * 0x40)

def pairEnabled (s : State) (p : Nat) : Bool := bitOf (pairCfg s p) 31

def pairRemote (s : State) (p : Nat) : Bool := bitOf (pairCfg s p) 30

def sqLog2 (s : State) (p : Nat) : Nat := f (pairCfg s p) 20 16

def cqLog2 (s : State) (p : Nat) : Nat := f (pairCfg s p) 12 8

/-- Descriptors of the pair started and not completed. -/
def inFlightOf (s : State) (p : Nat) : Nat :=
  (s.works.filter fun e => e.2.pair == some p).length + ((pairGet s p).wait.filter fun c => !c.event).length

/-- A descriptor read of the pair is under way. -/
def readsOf (s : State) (p : Nat) : Bool := s.rrp.reads.any fun r => r.2.1 == 0 && r.2.2.1 == p

/-- STATUS.idle (09 R319): nothing of the pair is in flight and no fetch runs. -/
def ringIdle (s : State) (p : Nat) : Bool :=
  let x := pairGet s p
  inFlightOf s p == 0 && !readsOf s p && (!pairEnabled s p || x.stopped || x.fetch == x.sqDb)

/-- 09 R285: a completion slot has been returned and can be written; work started before a pair was disabled still
completes (09 R318). -/
def cqRoom (s : State) (p : Nat) : Bool :=
  let x := pairGet s p
  decide (4 ≤ cqLog2 s p) && decide ((x.cqTail + 2 ^ 32 - x.cqCons) % 2 ^ 32 < 2 ^ cqLog2 s p) &&
    (!pairRemote s p || rrpRoom s)

/-- 09 R295: the bytes of a completion in the ring's next slot. -/
def complBytes (s : State) (p : Nat) (c : Compl) : List Byte :=
  let phase := ((pairGet s p).cqTail / 2 ^ cqLog2 s p + 1) % 2
  let slot := match c.slot with | some n => n | none => 2 ^ 15
  leBytes 4 c.tag ++ leBytes 1 c.status ++ leBytes 1 (if c.event then 0xFF else c.opcode) ++
    leBytes 1 (c.stream % 128 + 128 * phase) ++ leBytes 1 (p + 64 * b2n c.event) ++ leBytes 2 slot ++
    leBytes 2 c.detail ++ leBytes 4 s.time

/-- 09 R308: an interrupt of the application cluster, or a NOTIFY message. -/
def notifyNow (s : State) (p : Nat) : State :=
  if pairRemote s p then rrpSend s 0x0B (leBytes 1 p) else { s with out := .irq (64 + p) :: s.out }

/-- 09 R308: notify at once, or start the coalescing timer of c µs. -/
def notifyPair (s : State) (p : Nat) : State :=
  let c := f (pairCfg s p) 7 0
  if c = 0 then notifyNow s p
  else match (pairGet s p).timer with
    | some _ => s
    | none => pairPut s p { pairGet s p with timer := some (s.elapsed + c * 1000) }

/-! ### Scoreboard slots (09 R303) -/

/-- Slots reserved by admitted line-locked streams. -/
def llReserved (s : State) : Nat :=
  sumN (s.streams.map fun e => if e.2.state ≠ .free ∧ e.2.cls = .lineLocked then e.2.cost.sbSlots else 0)

/-- Slots in use by works of line-locked schedules. -/
def llUsed (s : State) : Nat :=
  (s.slots.filter fun e => match tget s.works e.2 with
    | some w => w.pair.isNone && (match tget s.streams w.stream with
        | some st => decide (st.cls = .lineLocked)
        | none => false)
    | none => false).length

/-- A slot of the common pool is free. -/
def commonFree (s : State) : Bool := decide (s.slots.length - llUsed s < 1024 - llReserved s)

/-- Take the lowest free slot for a work. -/
def takeSlot (s : State) (wid : Nat) : Option (Nat × State) :=
  match lowest 1024 fun n => (tget s.slots n).isNone with
  | some n => some (n, consIssue { s with slots := tset s.slots n wid } 0 1)
  | none => none

/-- Return a slot. -/
def freeSlot (s : State) (n : Nat) : State :=
  if (tget s.slots n).isSome then consReturn { s with slots := tdel s.slots n } 0 1 else s

/-- The scoreboard can take k more pieces of work of a stream's own: within its reservation where it is line-locked, from the
common pool where it is not (09 R303). -/
def slotsFor (s : State) (n k : Nat) : Bool :=
  let mine := (s.works.filter fun e => e.2.stream == n && e.2.pair.isNone && e.2.slot.isSome).length
  let common := decide (s.slots.length - llUsed s + k ≤ 1024 - llReserved s)
  decide (s.slots.length + k ≤ 1024) && (match tget s.streams n with
    | some x => if x.cls = .lineLocked then decide (mine + k ≤ x.cost.sbSlots) else common
    | none => common)

/-- A resampler job or an association batch takes the lowest free slot and returns it within the step that does its work (R303,
R304, log entry 12); it is done only where a slot may serve it. -/
def slotJob (s : State) : State := consReturn (consIssue s 0 1) 0 1

/-! ### Frame-pool references (10 R334, R335) -/

/-- Drop every reference of a holder; a pending buffer without references becomes free. -/
def dropRefs (s : State) (holder : Nat) : State :=
  (List.range 8).foldl (fun s p =>
    let x := poolGet s p
    if x.refs.all fun r => r.2 != holder then s else
    let refs := x.refs.filter fun r => r.2 != holder
    let gone := x.pending.filter fun b => refs.all fun r => r.1 != b
    let y := { x with refs := refs, pending := x.pending.filter fun b => !gone.contains b }
    consReturn { s with pools := tset s.pools p y } (8 + p) gone.length) s

/-! ### Works -/

def workGet (s : State) (wid : Nat) : Option Work := tget s.works wid

def workPut (s : State) (wid : Nat) (w : Work) : State := { s with works := tset s.works wid w }

/-- An ended work is remembered where it was an array operation (05 R166). -/
def noteEnded (s : State) (wid : Nat) : State :=
  match tget s.works wid with
  | some w => if w.op.isSome then { s with endedOps := wid :: s.endedOps } else s
  | none => s

/-- A work ends: its slot returns and its references drop. -/
def endWork (s : State) (wid : Nat) (slot : Option Nat) : State :=
  let s := match slot with | some n => freeSlot s n | none => s
  dropRefs { noteEnded s wid with works := tdel s.works wid } wid

/-! ### Completions and events -/

/-- Write one completion or event into the pair's next slot; on a violation the pair stops (10 R326, 09 R284). -/
def tryWrite (s : State) (p : Nat) (c : Compl) : Except State State :=
  let x := pairGet s p
  let a := reg64 s (0x5001008 + p * 0x40) + x.cqTail % 2 ^ cqLog2 s p * 16
  let b := complBytes s p c
  let done := if pairRemote s p then .ok (hostWrite s a b) else devWrite s (writeBy 0 0) a b
  match done with
  | .error e => .error (pairPut (noteStop s 0 e) p { x with stopped := true })
  | .ok s =>
    let s := pairPut s p { pairGet s p with cqTail := (x.cqTail + 1) % 2 ^ 32 }
    let s := if c.status = 5 ∧ !c.event then bump s (0x5001028 + p * 0x40) else s
    let s := match c.wid with | some w => endWork s w c.slot | none => s
    .ok (if c.notify then notifyPair s p else s)

/-- 09 R299: hold an event whose ring is full. -/
def holdEvent (s : State) (p : Nat) (c : Compl) : State :=
  let x := pairGet s p
  let put := fun l => pairPut s p { x with events := l }
  if x.events.length < 256 then put (x.events ++ [c]) else
  let same := x.events.findIdx? fun e => c.status == 0x40 && e.status == 0x40 && e.stream == c.stream
  match same with
  | some i => put (x.events.eraseIdx i ++ [c])
  | none =>
    match x.events.findIdx? fun e => e.status == c.status with
    | some i => put (x.events.eraseIdx i ++ [{ c with detail := 0xFFFF }])
    | none => s

/-- An event as 09 R298 lays it out. -/
def mkEvent (s : State) (status stream detail : Nat) : Compl :=
  ⟨none, 0, status, 0xFF, stream, true, none, detail, bitOf (regGet s 0x5000000) 8⟩

/-- Deliver an event to a pair: written, held, or, on a disabled pair, only in the log (log entry 5). -/
def eventTo (s : State) (p status stream detail : Nat) : State :=
  if !pairEnabled s p then s else
  let c := mkEvent s status stream detail
  let x := pairGet s p
  if cqRoom s p && x.wait.isEmpty && x.events.isEmpty then
    match tryWrite s p c with
    | .ok s => s
    | .error s => holdEvent s p c
  else holdEvent s p c

/-- The pair of RING.EVENT_PAIR. -/
def eventPair (s : State) : Nat := f (regGet s 0x5000000) 5 0

/-- An event that concerns no stream. -/
def eventAdd (s : State) (status detail : Nat) : State := eventTo s (eventPair s) status 0 detail

/-- 09 R284: a pair stops; logged, with a ring-stopped event. -/
def stopPair (s : State) (p : Nat) : State :=
  eventAdd (logAdd (pairPut s p { pairGet s p with stopped := true }) 0x0214 5 1 (p + 2 ^ 8)) 0x45 p

/-- Write a completion, or let it wait in the device (09 R285). -/
def deliver (s : State) (p : Nat) (c : Compl) : State :=
  let x := pairGet s p
  let hold := fun (s : State) => pairPut s p { pairGet s p with wait := (pairGet s p).wait ++ [c] }
  if cqRoom s p && x.wait.isEmpty then
    match tryWrite s p c with
    | .ok s => s
    | .error s => stopPair (hold s) p
  else hold s

/-- A started descriptor ends with a status and a detail; a work of a schedule only ends. -/
def complete (s : State) (wid status detail : Nat) : State :=
  match workGet s wid with
  | none => s
  | some w =>
    match w.pair with
    | none => endWork s wid w.slot
    | some p =>
      let d := w.desc
      deliver { noteEnded s wid with works := tdel s.works wid } p
        ⟨some wid, leAt d 4 4, status, leAt d 0 1, leAt d 2 1, false, w.slot, detail % 2 ^ 16, bitOf (leAt d 1 1) 0⟩

/-- An error completion with a subcode (09 R297). -/
def completeErr (s : State) (wid subcode : Nat) : State := complete s wid 0x05 subcode

/-- 14 R455 class 11: the Sprout restarts from its verified image; cause 1 its heartbeat, 2 a decision mismatch. -/
def sproutRestart (s : State) (cause : Nat) : State := logAdd (bumpF s 0xD000044 15 8) 0x020F 16 2 cause

/-- 14 R459, R455 class 14: the Supervisor disagrees with a decision of the Sprout (1 an admission result, 2 a token grant,
3 a spare choice, 4 a voltage command). It is logged and reported with the entry's index, and the Sprout restarts; the
decision itself takes no effect (log entry 69). -/
def decisionMismatch (s : State) (decision : Nat) : State :=
  sproutRestart (eventAdd (logAdd s 0x0F02 16 3 decision) 0x43 (s.logHead % 65536)) 2

/-! ### Streams (06 R193) -/

/-- A cost record of zeros. -/
def Cost.zero : Cost :=
  ⟨List.replicate 9 0, [0, 0], [0, 0], 0, 0, 0, List.replicate 6 0, 0, 0, 0, 0, 0, 0, 0, 0, 0, 0⟩

/-- An identifier that has never been admitted. -/
def Stream.free : Stream :=
  { state := .free, cause := 0, cls := .lineLocked, record := false, pos := List.replicate 8 0, variant := 0,
    cost := Cost.zero, maxRate := 0, reserve := 0, order := 0, camMask := 0, camBase := [], rsmpMask := 0, dispMask := 0, home := 0,
    ring := none, sched := none, bypass47 := false, wasBypass := false, band := 0, kept := 0, bypassed := [], bypassOut := [], empties := [], bypassLines := [], critDone := [], critRuns := [], dets := [], front := 0, spoolStop := false,
    highSince := none, lastUndo := none, shedMargin := 0,
    faulting := none, step := 0, hold2 := ⟨16, 0, none⟩, hold4 := ⟨16, 0, none⟩, spooled := [], wants := none, spilled := [], moved := none,
    prefStop := false, stalled := false }

def streamGet (s : State) (n : Nat) : Stream := (tget s.streams n).getD Stream.free

def streamPut (s : State) (n : Nat) (x : Stream) : State := { s with streams := tset s.streams n x }

/-- The encoding of MGMT.STREAM_n.STATE (06 R224). -/
def StState.code : StState → Nat
  | .free => 0 | .admitted => 1 | .running => 2 | .bypass => 3 | .shed => 4 | .halted => 5 | .releasing => 6

/-- Identifiers that are not FREE, in order of admission. -/
def admittedIds (s : State) : List Nat :=
  ((s.streams.filter fun e => e.2.state ≠ .free).foldl
    (fun l e => insertBy (fun a b => decide (a.2 ≤ b.2)) (e.1, e.2.order) l) ([] : List (Nat × Nat))).map (·.1)

/-- An event of a stream, to its home pair. -/
def streamEvent (s : State) (n status detail : Nat) : State := eventTo s (streamGet s n).home status n detail

/-- A change of state other than a halt: logged (0x0402), with an event unless a descriptor of the home pair made it. -/
def setStream (s : State) (n : Nat) (new : StState) (byHome : Bool) : State :=
  let x := streamGet s n
  let s := streamPut s n { x with state := new }
  let s := logAdd s 0x0402 0 0 (n + 2 ^ 8 * new.code + 2 ^ 12 * x.state.code)
  if byHome then s else streamEvent s n 0x40 new.code

/-- A stream that runs: RUNNING or BYPASS. -/
def Stream.active (x : Stream) : Bool := x.state == .running || x.state == .bypass

/-! ### Camera lines and bands (06 R185 to R197) -/

/-- A port before its first line. -/
def Camera.reset : Camera :=
  { seq := 0, lastPixels := none, hdr := none, lines := [], evSeq := 0, heartbeat := none, lost := false,
    afterLoss := false, image := none, frames := 0, skip := none, missed := false, trigs := [] }

def camGet (s : State) (p : Nat) : Camera := (tget s.cams p).getD Camera.reset

def camPut (s : State) (p : Nat) (c : Camera) : State := { s with cams := tset s.cams p c }

/-- Bands of an area frame. -/
def frameBands (x : Stream) : Nat := match x.sched with | some d => max 1 d.frameBands | none => 1

/-- The band that holds a line of a port; none for a row of an area frame that had begun before Start (06 R197). -/
def bandOf (x : Stream) (p : Nat) (l : LineRec) : Option Nat :=
  if l.area then l.frame.map fun k => k * frameBands x + min (l.row / max 1 x.cost.bandLines) (frameBands x - 1)
  else (x.camBase.find? fun b => b.1 == p).map fun b => (l.seq + 2 ^ 32 - b.2) % 2 ^ 32 / max 1 x.cost.bandLines

/-- First line of a band that a port has stored and its ring still lists. -/
def bandFirst (x : Stream) (p : Nat) (c : Camera) (band : Nat) : Option LineRec :=
  c.lines.reverse.find? fun l => bandOf x p l == some band &&
    (l.area || x.camBase.any fun b => b.1 == p && (l.seq + 2 ^ 32 - b.2) % 2 ^ 32 % max 1 x.cost.bandLines == 0)

/-- Time of the first input line of a band: the earliest of its cameras', none while one is not stored. -/
def bandTime (s : State) (n band : Nat) : Option Nat :=
  let x := streamGet s n
  let ts := x.camBase.map fun b => (bandFirst x b.1 (camGet s b.1) band).map (·.time)
  match ts with
  | [] => none
  | t :: rest => rest.foldl (fun a b => match a, b with | some u, some v => some (min u v) | _, _ => none) t

/-- The latency bound in µs (05 R172). -/
def latencyBound (c : Cost) (maxRate reserve : Nat) : Nat :=
  ceilDiv (c.latBands * c.bandLines * 1000000000 + (c.latFixed + reserve * 1000) * maxRate) (1000 * maxRate)

/-! ### Result records (09 R300, R301) -/

/-- A record goes into the result ring's next slot, with its phase in byte 14. -/
def ringRecord (r : ResRing) (b : List Byte) : List Byte :=
  let phase := (r.tail / 2 ^ r.log2 + 1) % 2
  patch b 14 [BitVec.ofNat 8 (leAt b 14 1 % 128 + 128 * phase)]

/-- The result ring has a slot. -/
def ResRing.room (r : ResRing) : Bool := decide ((r.tail + 2 ^ 32 - r.cons) % 2 ^ 32 < 2 ^ r.log2)

/-- Write a record into the ring; none where it cannot be written now (full, no session, or not granted: staging then
holds it). -/
def tryRecord (s : State) (n : Nat) (b : List Byte) : Except State State :=
  let x := streamGet s n
  match x.ring with
  | none => .error s
  | some r =>
    let a := r.base + r.tail % 2 ^ r.log2 * 64
    let next := fun (s : State) =>
      streamPut s n { streamGet s n with ring := some { r with tail := (r.tail + 1) % 2 ^ 32 } }
    if !r.room then .error s
    else if pairRemote s x.home then
      if rrpRoom s && pairEnabled s x.home then .ok (next (hostWrite s a (ringRecord r b))) else .error s
    else match devWrite s (writeBy 0 0) a (ringRecord r b) with
      | .ok s => .ok (next s)
      | .error e => .error (noteStop s 0 e)

/-- Records the staging holds, at least 256 (09 R301). -/
def stagingSize (x : Stream) : Nat :=
  match x.sched with | some d => max 256 d.staging | none => 256

/-- A record of a stream: written, or staged; a full staging raises event 0x46 and stalls the bands. -/
def resultPut (s : State) (n : Nat) (b : List Byte) : State :=
  let stage := fun (s : State) =>
    let x := streamGet s n
    match x.ring with
    | none => s
    | some r =>
      let full := decide (stagingSize x ≤ r.staging.length + 1)
      let s := streamPut s n { x with ring := some { r with staging := r.staging ++ [b] },
                                      stalled := x.stalled || full }
      if full && !x.stalled then streamEvent s n 0x46 0 else s
  match (streamGet s n).ring with
  | some r =>
    if r.staging.isEmpty then
      match tryRecord s n b with
      | .ok s => s
      | .error s => stage s
    else stage s
  | none => s

end Sys2Proof.Machine
end

