-- ==== Sys2Proof/Machine/Operands.lean ====
section
/-! DEFINITION. The structures a command names, decoded and checked: descriptors (09 R289 to R297, 15 R484), the
operation block with its format words, tensor records and stage words (03 R57, 04 R99 to R137), the mapping record
(05 R144), pointer lists and run-time bound words (05 R154 to R159, R517). A check answers the subcode of 09 R297. -/
namespace Sys2Proof.Machine

/-! ### Descriptors -/

/-- The bytes from 8 on that an opcode names (09 R291, 15 R484); the others are RSV. -/
def descFields (op : Nat) : List (Nat × Nat) :=
  if op = 0x01 then [(8, 16)]
  else if op = 0x02 then [(8, 32)]
  else if op = 0x03 ∨ op = 0x06 then [(8, 8)]
  else if op = 0x08 then [(8, 1), (12, 4)]
  else if op = 0x09 then [(8, 16)]
  else if op = 0x0A then [(8, 1)]
  else if op = 0x0B then [(8, 1), (16, 8)]
  else if op = 0x0C then [(8, 9)]
  else if 0x20 ≤ op ∧ op ≤ 0x27 then [(8, 33)]
  else []

/-- 09 R290: the opcodes listed. -/
def opcodeKnown (op : Nat) : Bool := decide (op ≤ 0x0C ∨ (0x20 ≤ op ∧ op ≤ 0x27))

/-- 09 R290: the descriptors that hold a scoreboard slot. -/
def opcodeSlot (op : Nat) : Bool := op == 0x01 || op == 0x02 || op == 0x09 || op == 0x0B

/-- Every byte of a descriptor from 8 on that no field covers is 0 (00 R516). -/
def descRsvOk (d : List Byte) (op : Nat) : Bool :=
  (List.range 56).all fun i =>
    let k := i + 8
    (descFields op).any (fun r => decide (r.1 ≤ k ∧ k < r.1 + r.2)) || leAt d k 1 == 0

/-- The stream byte that 09 R290 allows an opcode. -/
def descStreamOk (op scope n : Nat) : Bool :=
  if op = 0x00 ∨ op = 0x0A ∨ 0x20 ≤ op then n == 0
  else if op = 0x02 ∨ op = 0x09 ∨ op = 0x0B then decide (n ≤ 127)
  else if op = 0x08 then (if scope = 1 then decide (1 ≤ n ∧ n ≤ 127) else n == 0)
  else decide (1 ≤ n ∧ n ≤ 127)

/-- An address above 40 bits (00 R10). -/
def over40 (a : Nat) : Bool := decide (2 ^ 40 ≤ a)

/-- An address in the register region (02 R33). -/
def regNamed (a n : Nat) : Bool := decide (a < 0x6010000000 ∧ 0x6000000000 < a + max n 1)

/-- First subcode whose condition holds. -/
def firstErr : List (Nat × Bool) → Option Nat
  | [] => none
  | (c, bad) :: t => if bad then some c else firstErr t

/-- 09 R292, 04 R139: compressed bytes of rows of row_bytes at cpitch, for a DMA of `len` source bytes. -/
def compressedSpan (len row pitch : Nat) : Nat := if row = 0 then len else len / row * pitch

/-- Bytes a DMA touches at its source and its destination; `length` counts uncompressed bytes (log entry 8). -/
def dmaSpans (d : List Byte) : Nat × Nat :=
  let len := leAt d 24 4
  let z := compressedSpan len (leAt d 32 4) (leAt d 36 4)
  (if bitOf (leAt d 29 1) 1 then z else len, if bitOf (leAt d 29 1) 0 then z else len)

/-- 09 R291: the ranges of a descriptor's own fields. -/
def descFieldErr (d : List Byte) (op : Nat) (remote : Bool) : Option Nat :=
  let at8 := leAt d 8 8
  let at16 := leAt d 16 8
  if op = 0x01 then
    firstErr [(0x03, over40 at8 || over40 at16), (0x02, decide (at8 % 64 ≠ 0 ∨ at16 % 32 ≠ 0))]
  else if op = 0x02 then
    let len := leAt d 24 4
    let sp := leAt d 28 1
    let src := f sp 1 0
    let dst := f sp 3 2
    let cf := leAt d 29 1
    let z := bitOf cf 0 || bitOf cf 1
    let row := leAt d 32 4
    let pitch := leAt d 36 4
    let n := dmaSpans d
    firstErr [
      (0x01, decide (len = 0 ∨ 2 ^ 30 < len) || src == 3 || dst == 3 || f sp 7 4 != 0 || f cf 7 2 != 0 ||
        (bitOf cf 0 && bitOf cf 1) || decide (src ≠ 1 ∧ dst ≠ 1 ∧ leAt d 30 2 ≠ 0) || f (leAt d 30 2) 15 12 != 0 ||
        (if z then decide (row = 0 ∨ len % row ≠ 0 ∨ pitch < ceilDiv row 4096 * 4672)
          else decide (row ≠ 0 ∨ pitch ≠ 0))),
      (0x03, (src != 2 && over40 at8) || (dst != 2 && over40 at16)),
      (0x0D, !remote && (src == 2 || dst == 2)),
      (0x07, (src != 2 && regNamed at8 n.1) || (dst != 2 && regNamed at16 n.2))]
  else if op = 0x03 then firstErr [(0x03, over40 at8), (0x02, decide (at8 % 64 ≠ 0))]
  else if op = 0x06 then firstErr [(0x03, over40 at8)]
  else if op = 0x08 then
    let scope := leAt d 8 1
    firstErr [(0x01, decide (2 < scope) || (scope != 0 && leAt d 12 4 != 0))]
  else if op = 0x09 then
    let len := leAt d 10 2
    firstErr [(0x01, decide (15 < leAt d 8 1 ∨ 1 < leAt d 9 1 ∨ len < 4 ∨ 1024 < len ∨ len % 4 ≠ 0)),
      (0x03, over40 at16), (0x07, regNamed at16 len)]
  else if op = 0x0A then firstErr [(0x01, decide (leAt d 8 1 < 1 ∨ 15 < leAt d 8 1))]
  else if op = 0x0B then
    firstErr [(0x01, decide (1 < leAt d 8 1)), (0x03, over40 at16), (0x02, decide (at16 % 64 ≠ 0))]
  else if op = 0x0C then
    firstErr [(0x01, decide (leAt d 16 1 < 6 ∨ 16 < leAt d 16 1)), (0x03, !remote && over40 at8),
      (0x02, decide (at8 % 64 ≠ 0)), (0x07, !remote && regNamed at8 (64 * 2 ^ leAt d 16 1))]
  else if 0x20 ≤ op then
    let res := leAt d 32 8
    firstErr [(0x03, over40 at8 || over40 at16 || over40 res), (0x02, decide (res % 16 ≠ 0)),
      (0x07, regNamed at8 (leAt d 24 4) || regNamed at16 (leAt d 28 4) || regNamed res 16)]
  else none

/-- The checks of a fetched descriptor that need no other structure: the subcode of an error completion. -/
def descErr (d : List Byte) (remote : Bool) : Option Nat :=
  let op := leAt d 0 1
  if !opcodeKnown op then some 0x0A else
  if f (leAt d 1 1) 7 2 != 0 || leAt d 3 1 != 0 || !descRsvOk d op || !descStreamOk op (leAt d 8 1) (leAt d 2 1) then
    some 0x01
  else descFieldErr d op remote

/-! ### Arithmetic format words (03 R57) -/

/-- An arithmetic format word: code type 0 N4, 1 N8, 2 WIDE16, 3 WIDE32. -/
structure Fmt where
  code : Nat
  gs : Nat
  side : Bool
  adaptive : Bool
  sums : Bool
  zp : Int
  tag : Nat
  wexp : Int
deriving DecidableEq, Repr

def decFmt (w : Nat) : Fmt :=
  { code := f w 1 0, gs := 32 * 2 ^ (f w 3 2), side := bitOf w 4, adaptive := bitOf w 5, sums := bitOf w 6,
    zp := sx 8 (f w 15 8), tag := f w 23 16, wexp := sx 8 (f w 31 24) }

def Fmt.wide (x : Fmt) : Bool := decide (2 ≤ x.code)

def Fmt.n8 (x : Fmt) : Bool := x.code == 1

/-- Bits of one element. -/
def Fmt.bits (x : Fmt) : Nat := match x.code with | 0 => 4 | 1 => 8 | 2 => 16 | _ => 32

/-- 03 R57: no reserved encoding; weights are symmetric. -/
def fmtOk (w : Nat) (weights : Bool) : Bool :=
  let x := decFmt w
  !bitOf w 7 && (!weights || x.zp == 0) &&
    (if x.wide then decide (-64 ≤ x.wexp ∧ x.wexp ≤ 63) && x.tag == 0 && x.zp == 0 && !x.side
     else f w 3 2 != 3 && x.wexp == 0 &&
       (if x.n8 then decide (codeMin true x.side ≤ x.zp)
        else decide (codeMin false x.side ≤ x.zp ∧ x.zp ≤ 7)))

/-! ### Tensor records (04 R101 to R106) -/

structure Tensor where
  base : Nat
  chw : Bool
  comp : Bool
  ring : Nat
  word : Nat
  fmt : Fmt
  h : Nat
  w : Nat
  c : Nat
  /-- rows, positions and channels as recorded, which place every element and group (05 R517); h, w and c are those of
  the problem at hand -/
  rh : Nat
  rw : Nat
  rc : Nat
  pitch : Nat
  exp : Nat
  side : Nat
  sums : Nat
  /-- weight records hold side-list records of 16 bytes (03 R69) -/
  weights : Bool
deriving DecidableEq, Repr

/-- The record at a place of the operation block; none where its 48 bytes are 0 (04 R102). -/
def decTensor (b : List Byte) (place : Nat) (weights : Bool) : Option Tensor :=
  if zeroAt b place 48 then none else
  let w := leAt b (place + 8) 4
  some { base := leAt b place 5, chw := bitOf (leAt b (place + 5) 1) 0, comp := bitOf (leAt b (place + 5) 1) 1,
         ring := leAt b (place + 6) 2, word := w, fmt := decFmt w, h := leAt b (place + 12) 2,
         w := leAt b (place + 14) 2, c := leAt b (place + 16) 2, rh := leAt b (place + 12) 2,
         rw := leAt b (place + 14) 2, rc := leAt b (place + 16) 2, pitch := leAt b (place + 20) 4,
         exp := leAt b (place + 24) 8, side := leAt b (place + 32) 8, sums := leAt b (place + 40) 8,
         weights := weights }

/-- Groups at one position, along channels (03 R62). -/
def Tensor.ng (t : Tensor) : Nat := ceilDiv t.c t.fmt.gs

/-- Groups at one position as the recorded layout places them (05 R517). -/
def Tensor.ngR (t : Tensor) : Nat := ceilDiv t.rc t.fmt.gs

/-- Exponent blocks of one row of the recorded layout (03 R64, 05 R517). -/
def Tensor.nb (t : Tensor) : Nat := ceilDiv (t.rw * t.ngR) 80

/-- Rows the recorded layout keeps in memory (04 R105, 05 R517). -/
def Tensor.rows (t : Tensor) : Nat := if t.ring = 0 then t.rh else t.ring

/-- Place of row y in memory (04 R104). -/
def Tensor.rowIdx (t : Tensor) (y : Nat) : Nat := if t.ring = 0 then y else y % t.ring

/-- Bytes of one row of code data (04 R103): of the problem's positions, each of the recorded channels. -/
def Tensor.rowBytes (t : Tensor) : Nat := ceilDiv ((if t.chw then t.w else t.w * t.rc) * t.fmt.bits) 8

/-- Bytes of a compressed row (04 R139). -/
def compRow (n : Nat) : Nat := ceilDiv n 4096 * 4672

def Tensor.planePitch (t : Tensor) : Nat := t.pitch * t.rows

/-- Bytes of code data from base, as 04 R107 counts them, with the extents of the problem (04 R100). -/
def Tensor.span (t : Tensor) : Nat :=
  (if t.chw then (t.c - 1) * t.planePitch else 0) + t.pitch * (if t.ring = 0 then t.h else t.ring)

def Tensor.sideSize (t : Tensor) : Nat := if t.weights then 16 else 8

def Tensor.sideCap (t : Tensor) : Nat := if t.weights then 4 else 2

/-- Groups of the whole tensor as its streams hold them. -/
def Tensor.groups (t : Tensor) : Nat := t.rows * t.rw * t.ngR

/-- The checks of a present record on its own; `noCode` for MEASURE's D (04 R130). A D whose h or w is 0 is refused even
where R110 gives an empty extent: R18 and R111 state no order, and the model takes the record's own range first (DESIGN
CHOICE, log entry 82). -/
def tensorErr (b : List Byte) (place : Nat) (t : Tensor) (noCode : Bool) : Option Nat :=
  firstErr [
    (0x01, !fmtOk t.word t.weights || f (leAt b (place + 5) 1) 7 2 != 0 || !zeroAt b (place + 18) 2 ||
      decide (t.h = 0 ∨ t.w = 0 ∨ t.c = 0 ∨ 16384 < t.c) ||
      (t.fmt.wide && t.exp != 0) || (!t.fmt.side && t.side != 0) || (!t.fmt.sums && t.sums != 0) ||
      (t.chw && !t.fmt.wide)),
    (0x03, over40 t.exp || over40 t.side || over40 t.sums),
    (0x02, decide (t.base % 64 ≠ 0 ∨ t.exp % 64 ≠ 0 ∨ t.side % t.sideSize ≠ 0 ∨ t.sums % 4 ≠ 0)),
    (0x01, decide (t.pitch % 64 ≠ 0) ||
      (!noCode && decide (t.pitch < if t.comp then compRow t.rowBytes else t.rowBytes)))]

/-! ### Stage words (04 R132) -/

structure Stage where
  kind : Nat
  word : Nat
deriving DecidableEq, Repr

/-- A stage word's own legality. -/
def stageErr (s : Stage) : Option Nat :=
  let w := s.word
  let rsv := f w 7 4 != 0
  if s.kind = 1 ∨ s.kind = 2 ∨ s.kind = 8 then firstErr [(0x01, rsv || f w 63 8 != 0)]
  else if s.kind = 3 then firstErr [(0x01, rsv || f w 63 9 != 0)]
  else if s.kind = 4 then
    firstErr [(0x01, rsv || f w 63 46 != 0 || decide (47 < f w 45 40) ||
      decide (sx 16 (f w 39 24) < sx 16 (f w 23 8)))]
  else if s.kind = 5 then
    firstErr [(0x01, rsv || f w 15 9 != 0 || f w 63 38 != 0 || decide (47 < f w 37 32) ||
      decide (sx 16 (f w 31 16) < 0))]
  else if s.kind = 6 then
    firstErr [(0x01, rsv || f w 23 20 != 0 || decide (47 < f w 13 8 ∨ 31 < f w 19 14)),
      (0x02, decide (f w 63 24 % 64 ≠ 0))]
  else if s.kind = 7 then firstErr [(0x01, rsv || f w 23 16 != 0)]
  else some 0x01

/-! ### The operation block (04 R99 to R135) -/

structure OpBlk where
  opcode : Nat
  mode : Nat
  ptr : Bool
  rt : Bool
  eref : Int
  kh : Nat
  kw : Nat
  sy : Nat
  sx : Nat
  dy : Nat
  dx : Nat
  pt : Nat
  pb : Nat
  pl : Nat
  pr : Nat
  aux : Nat
  groups : Nat
  scaleT : Nat
  ptrT : Nat
  rtT : Nat
  a : Option Tensor
  b : Option Tensor
  d : Option Tensor
  x : Option Tensor
  stages : List Stage
deriving DecidableEq, Repr

/-- Operations that form products (04 R108). -/
def isProduct (op : Nat) : Bool := decide (1 ≤ op ∧ op ≤ 4)

/-- Record B holds weights (04 R106, R115). -/
def bWeights (op mode : Nat) : Bool := isProduct op && !(op == 3 && mode == 1)

def decOp (b : List Byte) : OpBlk :=
  let op := leAt b 0 1
  let mode := leAt b 3 1
  let fl := leAt b 2 1
  { opcode := op, mode := mode, ptr := bitOf fl 0, rt := bitOf fl 1, eref := Machine.sx 8 (leAt b 4 1),
    kh := leAt b 5 1, kw := leAt b 6 1, sy := f (leAt b 7 1) 3 0, sx := f (leAt b 7 1) 7 4,
    dy := f (leAt b 8 1) 3 0, dx := f (leAt b 8 1) 7 4, pt := leAt b 9 1, pb := leAt b 10 1, pl := leAt b 11 1,
    pr := leAt b 12 1, aux := leAt b 13 1, groups := leAt b 14 2, scaleT := leAt b 16 8, ptrT := leAt b 24 8,
    rtT := leAt b 32 8,
    a := decTensor b 64 false, b := decTensor b 112 (bWeights op mode),
    d := decTensor b 160 (op == 0x0A && bitOf mode 0), x := decTensor b 208 false,
    stages := (List.range (min (leAt b 1 1) 8)).map fun i =>
      let w := leAt b (256 + 8 * i) 8
      ⟨f w 3 0, w⟩ }

/-- The stage of a kind. -/
def OpBlk.stage (o : OpBlk) (k : Nat) : Option Stage := o.stages.find? fun s => s.kind == k

/-- 04 R108: the legal modes of an opcode, 0 up to one below this. -/
def modeCount (op : Nat) : Nat :=
  if op = 3 ∨ op = 0x0A then 2 else if op = 7 then 4 else if op = 9 then 6 else 1

/-- 04 R108: the stages an opcode permits. -/
def stageAllowed (op k : Nat) : Bool :=
  if isProduct op then true
  else if op = 8 ∨ op = 0x0B then k == 8
  else if op = 0x0A then k != 1 && k != 3
  else if op = 0x0C then false
  else k != 1

/-- 04 R100, R109: header fields. An operation without a SCALE stage uses no scale table, so it names none. A run-time
bound of 0 selects neither a register set nor an address (05 R158) and is reserved (DESIGN CHOICE, log entry 82). -/
def headerErr (b : List Byte) (o : OpBlk) : Option Nat :=
  let op := o.opcode
  let geo := op == 1 || op == 2 || op == 4 || op == 7
  let r := fun (n lo hi : Nat) => decide (lo ≤ n ∧ n ≤ hi)
  let geoOk := if geo then
      r o.kh 1 15 && r o.kw 1 15 && r o.sy 1 8 && r o.sx 1 8 && r o.dy 1 8 && r o.dx 1 8 &&
        r o.pt 0 63 && r o.pb 0 63 && r o.pl 0 63 && r o.pr 0 63 &&
        (op != 4 || (o.kh == 3 && o.kw == 3 && o.sy == 1 && o.sx == 1 && o.dy == 1 && o.dx == 1)) &&
        (op != 7 || (o.dy == 1 && o.dx == 1))
    else zeroAt b 9 4 && leAt b 5 4 == 0x11110101
  let auxOk := if op = 2 then decide (o.aux % 8 ≤ 4) && r (o.aux / 8) 1 8
    else if op = 5 ∨ op = 6 then r (o.aux % 16) 1 8 && r (o.aux / 16) 1 8 && o.aux != 0x11
    else o.aux == 0
  firstErr [
    (0x01, decide (op < 1 ∨ 0x0C < op) || decide (8 < leAt b 1 1) || f (leAt b 2 1) 7 2 != 0 ||
      decide (modeCount op ≤ o.mode) || decide (o.eref < -64 ∨ 62 < o.eref) || !geoOk || !auxOk ||
      (if op = 2 then !r o.groups 1 16384 else o.groups != 1) || !zeroAt b 40 24 ||
      (!o.ptr && o.ptrT != 0) || (!o.rt && o.rtT != 0) || (o.rt && o.rtT == 0)),
    (0x03, over40 o.scaleT || over40 o.ptrT || over40 o.rtT),
    (0x02, (o.ptr && decide (o.ptrT % 64 ≠ 0)) || (o.rt && decide (15 < o.rtT ∧ o.rtT % 16 ≠ 0))),
    (0x01, o.scaleT != 0 && (o.stage 2).isNone)]

/-- 04 R102, R108: records present and absent as the operation requires. -/
def recordsOk (o : OpBlk) : Bool :=
  let op := o.opcode
  let need := isProduct op || (op == 9 && o.mode != 0)
  let xOk := isProduct op || op == 5 || op == 6 || op == 7 || op == 9
  o.a.isSome && o.d.isSome && o.b.isSome == need && (xOk || o.x.isNone)

/-- Every kind of stage at most once. -/
def kindsOnce : List Stage → Bool
  | [] => true
  | s :: t => (t.all fun u => u.kind != s.kind) && kindsOnce t

/-- 04 R134: the order of the chain: ZPC first, QUANT last but for ZRC, ZRC last. -/
def chainOrdered : Bool → List Stage → Bool
  | _, [] => true
  | first, s :: t =>
    (s.kind != 1 || first) && (s.kind != 8 || t.isEmpty) && (s.kind != 7 || t.all fun u => u.kind == 8) &&
      chainOrdered false t

/-- D is a destination of LPDDR (04 R135; a fabric destination is written by DMA, log entry 9). -/
def lpddrDest (d : Tensor) : Bool := region d.base == .lpddr

/-- 04 R135: ZRC stands in the chain exactly where D's code data goes to LPDDR. MEASURE's D holds none. -/
def zrcBad (o : OpBlk) : Bool :=
  match o.d with
  | some d => o.opcode != 0x0C && (o.stage 8).isSome != lpddrDest d
  | none => false

/-- 04 R108, R132 to R135, 03 R57: the chain and what it says of D, but for R135's rule on D's base, which a pointer-list
entry replaces (`zrcBad`). MEASURE's D takes either value of tflags.compressed: R130 exempts it from the ZRC rule (DESIGN
CHOICE, log entry 82). -/
def chainErr (o : OpBlk) (d : Tensor) : Option Nat :=
  let st := o.stages
  let has := fun k => (o.stage k).isSome
  let quantMode := match o.stage 7 with | some s => f s.word 9 8 | none => 0
  firstErr ((match st.findSome? stageErr with | some c => [(c, true)] | none => []) ++ [
    (0x01, !(st.all fun s => stageAllowed o.opcode s.kind) || !kindsOnce st || !chainOrdered true st ||
      (if o.opcode = 0x0C then d.fmt.adaptive
       else has 7 != (!d.fmt.wide && stageAllowed o.opcode 7) || has 3 != o.x.isSome ||
         d.comp != has 8 || d.fmt.adaptive != (has 7 && quantMode == 2)))])

/-- 04 R105 to R130, 03 R59: what the records say of one another. Where the extents come at run time, from a bound word or a
pointer list, the rules on the extents that R517 replaces (D's and X's, the positions of B in MATMUL mode 1) are not asked
of the recorded ones, which are bounds then (R100, R517). -/
def shapeErr (o : OpBlk) (a d : Tensor) : Option Nat :=
  let op := o.opcode
  let runs := o.ptr || o.rt
  let mm1 := op == 3 && o.mode == 1
  let chwOk := fun (t : Option Tensor) (inAD : Bool) => match t with
    | some t => !t.chw || (inAD && (op == 0x0A || op == 0x0B))
    | none => true
  let chw := chwOk o.a true && chwOk o.d true && chwOk o.b false && chwOk o.x false
  let taps := o.kh * o.kw
  let body := match o.b with
    | some b =>
      if isProduct op then
        !a.fmt.wide && !b.fmt.wide && (decide (d.c ≤ 4096) || (runs && mm1)) &&
          (if op = 1 ∨ op = 4 then b.h == d.c && b.w == taps && b.c == a.c
           else if op = 2 then
             let ic := a.c / o.groups
             let oc := d.c / o.groups
             decide (a.c % o.groups = 0 ∧ d.c % o.groups = 0) && oc == ic * (o.aux / 8) &&
               b.h == d.c && b.w == taps && b.c == ic &&
               (ic != 1 || decide (1 + o.dx * (o.kw - 1) ≤ 64 / 2 ^ (o.aux % 8)))
           else b.c == a.c && (if o.mode = 0 then b.h == d.c && b.w == 1 else runs || b.h * b.w == d.c))
      else b.c == a.c && d.c == a.c &&
        ((b.h == a.h && b.w == a.w) || (b.h == 1 && b.w == 1))
    | none =>
      let bh := o.aux % 16
      let bw := o.aux / 16
      if op = 5 then d.c == a.c * bh * bw
      else if op = 6 then decide (a.c % (bh * bw) = 0) && d.c == a.c / (bh * bw)
      else if op = 8 then decide (a.c ≤ 4096) && d.c == 1 && d.fmt.code == 2 && d.fmt.wexp == 0
      else if op = 0x0B then d.c == a.c && setF d.word 23 16 0 == setF a.word 23 16 0
      else if op = 0x0C then a.fmt.wide && !d.fmt.wide && d.base == 0 && d.c == a.c && (runs || (d.h == a.h && d.w == a.w))
      else d.c == a.c
  let xOk := match o.x with
    | some x => (runs && mm1 || x.c == d.c) && (runs || (x.h == d.h && x.w == d.w))
    | none => true
  let zpOk := match o.b with
    | some b => if isProduct op then
        ((a.fmt.zp == 0 && b.fmt.zp == 0) || (match o.stages with | s :: _ => s.kind == 1 | [] => false)) &&
          (if bWeights op o.mode then a.fmt.zp == 0 || b.fmt.sums
           else (b.fmt.zp == 0 || a.fmt.sums) && (a.fmt.zp == 0 || b.fmt.sums))
      else true
    | none => true
  let gsDiffer := match o.b with | some b => isProduct op && a.fmt.gs != b.fmt.gs | none => false
  firstErr [(0x01, !chw || !body || !xOk), (0x06, gsDiffer), (0x01, !zpOk)]

/-- 04 R110: one output extent. -/
def outExtent (n lo hi dil k stride : Nat) : Int :=
  (((n + lo + hi : Nat) : Int) - (dil * (k - 1) : Nat) - 1) / (stride : Int) + 1

/-- D's extents as A's give them (04 R110, R115, R123, R126 to R130). -/
def wantExtents (o : OpBlk) (ah aw : Nat) : Int × Int :=
  let op := o.opcode
  if op = 1 ∨ op = 2 ∨ op = 4 ∨ op = 7 then
    (outExtent ah o.pt o.pb o.dy o.kh o.sy, outExtent aw o.pl o.pr o.dx o.kw o.sx)
  else if op = 5 then ((ceilDiv ah (o.aux % 16) : Nat), (ceilDiv aw (o.aux / 16) : Nat))
  else if op = 6 then ((ah * (o.aux % 16) : Nat), (aw * (o.aux / 16) : Nat))
  else ((ah : Nat), (aw : Nat))

/-- Two byte ranges meet. -/
def meet (a n b m : Nat) : Bool := decide (a < b + m ∧ b < a + n ∧ 0 < n ∧ 0 < m)

/-- 04 R107: an exact alias. The format compared is the recorded word, also where a pointer-list entry gives the record a
tag_base of its own: R155 replaces the tag for the entry's problem and R107 does not say which it compares (DESIGN CHOICE,
log entry 98). -/
def aliases (p q : Tensor) : Bool :=
  p.base == q.base && p.chw == q.chw && p.comp == q.comp && p.ring == q.ring && p.word == q.word && p.h == q.h &&
    p.w == q.w && p.c == q.c && p.pitch == q.pitch

/-- 04 R107, R130: D's range against every input's. -/
def overlapBad (o : OpBlk) (a d : Tensor) : Bool :=
  if o.opcode = 0x0C then meet d.exp ((if d.ring = 0 then d.h else d.ring) * d.nb * 64) a.base a.span else
  let bad := fun (t : Option Tensor) (may : Bool) => match t with
    | some t => meet d.base d.span t.base t.span && !(may && aliases d t)
    | none => false
  bad (some a) (o.opcode == 9 || o.opcode == 0x0A) || bad o.b false || bad o.x true

/-- Byte ranges a record names: code data, exponents, side lists, sums. -/
def Tensor.ranges (t : Tensor) (noCode : Bool) : List (Nat × Nat) :=
  (if noCode then [] else [(t.base, t.span)]) ++
    (if t.fmt.wide then [] else [(t.exp, t.rows * t.nb * 64)] ++
      (if t.fmt.side then [(t.side, t.groups * t.sideSize)] else []) ++
      (if t.fmt.sums then [(t.sums, t.groups * 4)] else []))

/-- Every range of the operation's data (02 R33, 10 R334). -/
def OpBlk.ranges (o : OpBlk) : List (Nat × Nat) :=
  let r := fun (t : Option Tensor) (n : Bool) => match t with | some t => t.ranges n | none => []
  r o.a false ++ r o.b false ++ r o.d (o.opcode == 0x0C) ++ r o.x false

/-- The checks of the operation block that need nothing else (04 R99 to R135). R18 and R297 give no precedence among the
subcodes: the model reports the first of the header, the records present, the records A, B, D and X in turn, the chain, and
what the records say of one another (DESIGN CHOICE, log entry 98). -/
def opErr (b : List Byte) : Option Nat :=
  let o := decOp b
  match headerErr b o with
  | some c => some c
  | none =>
    if !recordsOk o then some 0x01 else
    let recErr := fun (place : Nat) (t : Option Tensor) (n : Bool) => match t with
      | some t => tensorErr b place t n
      | none => none
    match (recErr 64 o.a false).or ((recErr 112 o.b false).or
        ((recErr 160 o.d (o.opcode == 0x0C)).or (recErr 208 o.x false))) with
    | some c => some c
    | none =>
      match o.a, o.d with
      | some a, some d => (chainErr o d).or ((shapeErr o a d).or (if !o.ptr && zrcBad o then some 0x01 else none))
      | _, _ => some 0x01

/-- Extents against one another when they are as recorded: some subcode, or whether the extent is empty
(04 R110, R111). -/
def extentErr (o : OpBlk) (a d : Tensor) : Option Nat × Bool :=
  let w := wantExtents o a.h a.w
  if w.1 < 1 ∨ w.2 < 1 then (none, true)
  else if (d.h : Int) ≠ w.1 ∨ (d.w : Int) ≠ w.2 then (some 0x01, false)
  else (none, false)

/-! ### Run-time extents (05 R157, R517) -/

/-- The operation with A's run-time extents h and w, and n positions of B (0 for all); every record keeps its recorded
layout. -/
def OpBlk.atRun (o : OpBlk) (h w n : Nat) : OpBlk :=
  match o.a, o.d with
  | some a, some d =>
    let e := wantExtents o h w
    let mm1 := o.opcode == 3 && o.mode == 1
    let dc := if mm1 then (if n = 0 then (match o.b with | some b => b.h * b.w | none => d.c) else n) else d.c
    let b := match o.b with
      | some b => if o.opcode = 9 ∧ b.h = a.h ∧ b.w = a.w then some { b with h := h, w := w } else some b
      | none => none
    let x := match o.x with
      | some x => some { x with h := e.1.toNat, w := e.2.toNat, c := dc }
      | none => none
    { o with a := some { a with h := h, w := w }, b := b,
             d := some { d with h := e.1.toNat, w := e.2.toNat, c := dc }, x := x }
  | _, _ => o

/-- Run-time extents beyond the recorded ones (05 R159). -/
def overBound (o : OpBlk) (h w n : Nat) : Bool :=
  match o.a, o.d with
  | some a, some d =>
    let e := wantExtents o h w
    let mm1 := o.opcode == 3 && o.mode == 1
    let c := if n = 0 then (match o.b with | some b => b.h * b.w | none => 0) else n
    decide (a.h < h ∨ a.w < w) || decide ((d.h : Int) < e.1 ∨ (d.w : Int) < e.2) ||
      (match o.x with
       | some x => decide ((x.h : Int) < e.1 ∨ (x.w : Int) < e.2) || (mm1 && decide (x.c < c))
       | none => false) ||
      (match o.b with
       | some b => mm1 && decide (b.h * b.w < n ∨ d.c < c)
       | none => false)
  | _, _ => false

/-! ### Mapping records (05 R143, R144) -/

structure Mapping where
  frame : Bool
  split : Nat
  tileH : Nat
  tileW : Nat
  tileC : Nat
  bandRows : Nat
  part : Nat
deriving DecidableEq, Repr

def decMap (b : List Byte) : Mapping :=
  { frame := leAt b 0 1 == 1, split := leAt b 1 1, tileH := leAt b 2 2, tileW := leAt b 4 2, tileC := leAt b 6 2,
    bandRows := leAt b 8 2, part := leAt b 10 1 }

/-- 05 R144, 03 R96: the fields of a mapping record for an operation. -/
def mapOk (b : List Byte) (o : OpBlk) : Bool :=
  let m := decMap b
  let dc := match o.d with | some d => d.c | none => 0
  decide (leAt b 0 1 ≤ 1 ∧ m.split ≤ 4) && (isProduct o.opcode || m.split == 0) &&
    decide (1 ≤ m.tileH ∧ m.tileH ≤ 256 ∧ 1 ≤ m.tileW ∧ m.tileW ≤ 1024 ∧ 1 ≤ m.tileC ∧ m.tileC ≤ 4096) &&
    (decide (m.tileC % 64 = 0) || m.tileC == dc) &&
    (if m.frame then m.bandRows == 0 else decide (1 ≤ m.bandRows ∧ m.bandRows ≤ 1024)) &&
    decide (m.part ≤ 63) && zeroAt b 11 21 && (!o.ptr || m.frame) && (o.opcode != 0x0C || m.frame)

/-! ### Pointer lists (05 R154, R155) -/

/-- One entry: bases that replace the record's where not 0, tags, and A's extents. -/
structure PtrEntry where
  bases : List Nat
  h : Nat
  w : Nat
  n : Nat
  tags : List Nat
deriving DecidableEq, Repr

def decEntry (b : List Byte) : PtrEntry :=
  { bases := (List.range 8).map fun i => leAt b (5 * i) 5, h := leAt b 40 2, w := leAt b 42 2, n := leAt b 44 2,
    tags := (List.range 4).map fun i => leAt b (46 + i) 1 }

/-- The record of entry i: bases where given, tag, and side and sum streams i sizes further on (05 R155). -/
def Tensor.atEntry (t : Tensor) (e : PtrEntry) (r i : Nat) : Tensor :=
  let b := e.bases.getD (2 * r) 0
  let x := e.bases.getD (2 * r + 1) 0
  { t with base := if b = 0 then t.base else b, exp := if x = 0 then t.exp else x,
           fmt := { t.fmt with tag := e.tags.getD r 0 },
           side := if t.fmt.side then t.side + i * t.groups * t.sideSize else t.side,
           sums := if t.fmt.sums then t.sums + i * t.groups * 4 else t.sums }

/-- The problem of entry i. -/
def OpBlk.atEntry (o : OpBlk) (e : PtrEntry) (i : Nat) : OpBlk :=
  let g := fun (t : Option Tensor) (r : Nat) => t.map fun t => t.atEntry e r i
  ({ o with a := g o.a 0, b := g o.b 1, d := g o.d 2, x := g o.x 3 } : OpBlk).atRun e.h e.w e.n

/-- 05 R155: the rules an entry must keep; a breach makes the list invalid. R155 states no lower bound for h and w: an
entry of 0 counts as a breach, not as an empty problem (DESIGN CHOICE, log entry 82). -/
def entryBad (o : OpBlk) (b : List Byte) : Bool :=
  let e := decEntry b
  let above := match o.a, o.b with
    | some a, some b => decide (a.h < e.h ∨ a.w < e.w ∨ b.h * b.w < e.n)
    | some a, none => decide (a.h < e.h ∨ a.w < e.w)
    | none, _ => true
  above || decide (e.h = 0 ∨ e.w = 0) || (if o.opcode = 3 ∧ o.mode = 1 then e.n == 0 else e.n != 0)

/-- RSV bytes of an entry (00 R516), its misaligned bases (04 R103), and a base for MEASURE's D, which has none
(04 R130). -/
def entryErr (o : OpBlk) (b : List Byte) : Option Nat :=
  let e := decEntry b
  firstErr [(0x01, !zeroAt b 50 14 || (o.opcode == 0x0C && e.bases.getD 4 0 != 0)),
    (0x02, e.bases.any fun a => decide (a % 64 ≠ 0))]

end Sys2Proof.Machine
end

