-- ==== Sys2Proof/Machine/TensorMem.lean ====
section
/-! DEFINITION. Tensors in memory: exponent blocks and their tags, codes, side lists, sum streams, zero-run
segments; reading them with the checks of 03 R66, R71 and 04 R141, and laying out what an operation writes. -/
namespace Sys2Proof.Machine

/-- Why an operation stops at a piece of data. -/
inductive OpStop where
  | mem (m : MemStop)
  | skew (expected fetched addr : Nat)
  | underrun (addr : Nat)
  | badData (addr : Nat)
deriving DecidableEq, Repr

/-- A reader of memory: what a device master gets from a range, and what stands in place of the zero-run segment of n source
bytes at an address, where it has been decompressed before. -/
structure Reader where
  get : Nat → Nat → Except OpStop (List Byte)
  seg : Nat → Nat → Option (List Byte)

/-- A reader of memory as it lies. -/
def Reader.plain (g : Nat → Nat → Except MemStop (List Byte)) : Reader :=
  { get := fun a n => match g a n with
      | .ok b => .ok b
      | .error e => .error (.mem e),
    seg := fun _ _ => none }

/-- Read through the reader. -/
def rdMem (rd : Reader) (a n : Nat) : Except OpStop (List Byte) := rd.get a n

/-- Collect results in order, stopping at the first stop. -/
def collect {α β : Type} (g : α → Except OpStop β) : List α → Except OpStop (List β)
  | [] => .ok []
  | a :: as =>
    match g a with
    | .error e => .error e
    | .ok b => match collect g as with
      | .error e => .error e
      | .ok bs => .ok (b :: bs)

/-! ### Exponent streams (03 R63 to R66) -/

/-- Groups that block j of a row covers. R64 says that the layout fixes the number and not which extents do where they come
at run time: the model counts the run-time width's positions, each with the groups of the recorded layout, which is where
R517 leaves every position (DESIGN CHOICE, log entry 98). -/
def Tensor.blockCount (t : Tensor) (j : Nat) : Nat := min 80 (t.w * t.ngR - 80 * j)

/-- The exponent of entry i of a block. -/
def blockExp (b : List Byte) (i : Nat) : Int := sx 6 (leNat b >>> (32 + 6 * i))

/-- The bytes of a block. -/
def expBlock (tag : Nat) (exps : List Int) : List Byte :=
  leBytes 1 tag ++ leBytes 1 exps.length ++ leBytes 2 0 ++
    leBytes 60 ((exps.zipIdx.map fun x => low x.1 6 * 2 ^ (6 * x.2)).foldl (· + ·) 0)

/-- Address of block j of row y. -/
def Tensor.expAddr (t : Tensor) (y j : Nat) : Nat := t.exp + (t.rowIdx y * t.nb + j) * 64

/-- Tag of block j of row y (03 R65). -/
def Tensor.expTag (t : Tensor) (y j : Nat) : Nat := (t.fmt.tag + y * t.nb + j) % 256

/-- Fetch a block and compare tag and count (03 R66). -/
def readBlock (rd : Reader) (t : Tensor) (y j : Nat) : Except OpStop (List Byte) :=
  match rdMem rd (t.expAddr y j) 64 with
  | .error e => .error e
  | .ok b =>
    if leAt b 0 1 ≠ t.expTag y j ∨ leAt b 1 1 ≠ t.blockCount j then
      .error (.skew (t.expTag y j) (leAt b 0 1) (t.expAddr y j))
    else .ok b

/-- Exponent of the group (y, x, G). -/
def readExp (rd : Reader) (t : Tensor) (y x G : Nat) : Except OpStop Int :=
  let g := x * t.ngR + G
  match readBlock rd t y (g / 80) with
  | .error e => .error e
  | .ok b => .ok (blockExp b (g % 80))

/-! ### Zero-run segments (04 R138 to R141) -/

/-- A compressed block: bitmap and non-zero bytes (04 R138). -/
def packBlock (b : List Byte) : List Byte :=
  let bits := (List.range 64).foldl (fun m i => if b.getD i 0 == 0 then m + 2 ^ i else m) 0
  leBytes 8 bits ++ b.filter fun x => x != 0

/-- Cut a list into pieces of n. -/
def chunks {α : Type} (n : Nat) : Nat → List α → List (List α)
  | 0, _ => []
  | k + 1, l => if l.isEmpty then [] else l.take n :: chunks n k (l.drop n)

/-- The slot of one segment: its header and compressed blocks. -/
def packSegment (b : List Byte) : List Byte :=
  let z := (chunks 64 64 b).flatMap packBlock
  leBytes 2 b.length ++ leBytes 2 z.length ++ leBytes 4 0 ++ z

/-- What the device writes of a row: for each segment its offset and bytes, padded to whole 64-byte units. R139 gives no
value to the bytes of the last unit beyond the compressed count; the model writes 0 (DESIGN CHOICE, log entry 83). -/
def packRow (row : List Byte) : List (Nat × List Byte) :=
  (chunks 4096 (row.length / 4096 + 1) row).zipIdx.map fun (seg, k) =>
    let z := packSegment seg
    (k * 4672, z ++ List.replicate (ceilDiv z.length 64 * 64 - z.length) 0)

/-- Put payload bytes where the bitmap has 0; the bytes and the payload left over, none where the payload is short. -/
def unpackBits (bits : Nat) : List Nat → List Byte → Option (List Byte × List Byte)
  | [], p => some ([], p)
  | i :: is, p =>
    if bitOf bits i then (unpackBits bits is p).map fun r => (0 :: r.1, r.2)
    else match p with
      | [] => none
      | x :: p => (unpackBits bits is p).map fun r => (x :: r.1, r.2)

/-- Compressed blocks of n source bytes; none where the counts disagree with the bitmaps (04 R141). -/
def unpackBlocks : Nat → Nat → List Byte → Option (List Byte)
  | 0, n, z => if n = 0 ∧ z.isEmpty then some [] else none
  | k + 1, n, z =>
    if n = 0 then (if z.isEmpty then some [] else none) else
    let b := min 64 n
    let bits := leAt z 0 8
    if z.length < 8 ∨ bits / 2 ^ b ≠ 2 ^ (64 - b) - 1 then none else
    match unpackBits bits (List.range b) (z.drop 8) with
    | none => none
    | some (x, rest) => (unpackBlocks k (n - b) rest).map (x ++ ·)

/-- Decompress the segment at an address that should hold n source bytes. -/
def readSegment (rd : Reader) (a n : Nat) : Except OpStop (List Byte) :=
  match rd.seg a n with
  | some x => .ok x
  | none =>
  match rdMem rd a 64 with
  | .error e => .error e
  | .ok h =>
    let cc := leAt h 2 2
    if leAt h 0 2 ≠ n ∨ cc < 8 ∨ 4608 < cc then .error (.badData a) else
    match rdMem rd a (ceilDiv (8 + cc) 64 * 64) with
    | .error e => .error e
    | .ok b => match unpackBlocks 64 n (slice b 8 cc) with
      | some x => .ok x
      | none => .error (.badData a)

/-- Source bytes b0 to b0 + n - 1 of a compressed row of `len` source bytes: only the segments they lie in are read
(04 R113). -/
def readPacked (rd : Reader) (a len b0 n : Nat) : Except OpStop (List Byte) :=
  let k0 := b0 / 4096
  let ks := (List.range ((b0 + n - 1) / 4096 + 1 - k0)).map (k0 + ·)
  match collect (fun k => readSegment rd (a + k * 4672) (min 4096 (len - 4096 * k))) ks with
  | .error e => .error e
  | .ok l => .ok ((l.flatten.drop (b0 - k0 * 4096)).take n)

/-! ### Codes -/

/-- Element e of a row's bytes. -/
def codeIn (x : Fmt) (row : List Byte) (e : Nat) : Int :=
  match x.code with
  | 0 => sx 4 (leAt row (e / 2) 1 >>> (4 * (e % 2)))
  | 1 => sx 8 (leAt row e 1)
  | 2 => sx 16 (leAt row (2 * e) 2)
  | _ => sx 32 (leAt row (4 * e) 4)

/-- Elements e0 to e0 + n − 1 of the row that starts at an address: only the bytes, or the segments, they lie in
(04 R113). -/
def readElems (rd : Reader) (t : Tensor) (a rowBytes e0 n : Nat) : Except OpStop (List Int) :=
  let bits := t.fmt.bits
  let b0 := e0 * bits / 8
  let len := ceilDiv ((e0 + n) * bits) 8 - b0
  match if t.comp then readPacked rd a rowBytes b0 len else rdMem rd (a + b0) len with
  | .error e => .error e
  | .ok row => .ok ((List.range n).map fun i => codeIn t.fmt row (e0 + i - b0 * 8 / bits))

/-- The codes of channels c0 to c0 + n − 1 at a position. -/
def readCodes (rd : Reader) (t : Tensor) (y x c0 n : Nat) : Except OpStop (List Int) :=
  if t.chw then
    match collect (fun i => readElems rd t (t.base + (c0 + i) * t.planePitch + t.rowIdx y * t.pitch) t.rowBytes x 1)
        (List.range n) with
    | .error e => .error e
    | .ok l => .ok l.flatten
  else readElems rd t (t.base + t.rowIdx y * t.pitch) t.rowBytes (x * t.rc + c0) n

/-! ### Groups with their side lists (03 R69 to R72) -/

/-- Index of a group in the side-list and sum streams. -/
def Tensor.groupIdx (t : Tensor) (y x G : Nat) : Nat := (t.rowIdx y * t.rw + x) * t.ngR + G

def Tensor.escape (t : Tensor) : Int := if t.fmt.n8 then -128 else -8

/-- Each escape code replaced by the next entry; none where the entries run out. -/
def fillEscapes (esc : Int) : List Int → List Int → Option (List Int)
  | [], _ => some []
  | c :: cs, es =>
    if c = esc then match es with
      | [] => none
      | e :: es => (fillEscapes esc cs es).map (e :: ·)
    else (fillEscapes esc cs es).map (c :: ·)

/-- Length of group G. -/
def Tensor.groupLen (t : Tensor) (G : Nat) : Nat := min t.fmt.gs (t.c - G * t.fmt.gs)

/-- A group as the array takes it: its exponent, and the code or side-list entry of each element. -/
structure CodeGroup where
  e : Int
  vals : List Int
deriving DecidableEq, Repr

/-- A side-list record's bytes. -/
def readSide (rd : Reader) (t : Tensor) (y x G : Nat) : Except OpStop (List Byte) :=
  rdMem rd (t.side + t.groupIdx y x G * t.sideSize) t.sideSize

/-- Read a group: exponent block first (03 R66), then codes, then the side list (03 R71). -/
def readGroup (rd : Reader) (t : Tensor) (y x G : Nat) : Except OpStop CodeGroup :=
  match readExp rd t y x G with
  | .error e => .error e
  | .ok e =>
    match readCodes rd t y x (G * t.fmt.gs) (t.groupLen G) with
    | .error e => .error e
    | .ok codes =>
      if !t.fmt.side then .ok ⟨e, codes⟩ else
      match readSide rd t y x G with
      | .error e => .error e
      | .ok r =>
        let n := leAt r 0 2 % (if t.weights then 8 else 4)
        let at_ := t.side + t.groupIdx y x G * t.sideSize
        if t.sideCap < n then .error (.underrun at_) else
        match fillEscapes t.escape codes ((List.range n).map fun i => sx 16 (leAt r (2 + 2 * i) 2)) with
        | some v => .ok ⟨e, v⟩
        | none => .error (.underrun at_)

/-- All channels of a position, each with its exponent. -/
def readPos (rd : Reader) (t : Tensor) (y x : Nat) : Except OpStop (List (Int × Int)) :=
  if t.fmt.wide then
    match readCodes rd t y x 0 t.c with
    | .error e => .error e
    | .ok l => .ok (l.map fun v => (v, t.fmt.wexp))
  else
    match collect (readGroup rd t y x) (List.range t.ng) with
    | .error e => .error e
    | .ok gs => .ok (gs.flatMap fun g => g.vals.map fun v => (v, g.e))

/-- A group's entry of the sum stream (03 R82). -/
def readSum (rd : Reader) (t : Tensor) (y x G : Nat) : Except OpStop Int :=
  match rdMem rd (t.sums + t.groupIdx y x G * 4) 4 with
  | .error e => .error e
  | .ok b => .ok (sx 32 (leNat b))

/-! ### What an operation writes -/

/-- Bytes at addresses, in order of writing. -/
abbrev Writes := List (Nat × List Byte)

/-- The bytes of a row of codes; an odd N4 row ends in a zero nibble (03 R55). -/
def packCodes (x : Fmt) (codes : List Int) : List Byte :=
  match x.code with
  | 0 => (chunks 2 (codes.length / 2 + 1) codes).map fun p =>
      BitVec.ofNat 8 (low (p.getD 0 0) 4 + 16 * low (p.getD 1 0) 4)
  | 1 => codes.map fun c => BitVec.ofNat 8 (low c 8)
  | 2 => codes.flatMap fun c => leBytes 2 (low c 16)
  | _ => codes.flatMap fun c => leBytes 4 (low c 32)

/-- A row of bytes at an address, compressed where the tensor is. -/
def rowWrites (t : Tensor) (a : Nat) (row : List Byte) : Writes :=
  if t.comp then (packRow row).map fun p => (a + p.1, p.2) else [(a, row)]

/-- A list lengthened with a filler to n. -/
def padTo {α : Type} (n : Nat) (z : α) (l : List α) : List α := l ++ List.replicate (n - l.length) z

/-- The codes of a position of fewer channels than recorded, where the recorded layout places them (05 R517): its first
byte within the row, and its bytes. A nibble of a byte so written that holds no element is 0. -/
def posWrite (t : Tensor) (x : Nat) (codes : List Int) : Nat × List Byte :=
  let e0 := x * t.rc
  if t.fmt.code = 0 ∧ e0 % 2 = 1 then (e0 / 2, packCodes t.fmt (0 :: codes))
  else (e0 * t.fmt.bits / 8, packCodes t.fmt codes)

/-- The code data of row y from its positions' codes. -/
def codeWrites (t : Tensor) (y : Nat) (pos : List (List Int)) : Writes :=
  let a := t.base + t.rowIdx y * t.pitch
  if t.chw then
    (List.range t.c).flatMap fun ch =>
      rowWrites t (a + ch * t.planePitch) (packCodes t.fmt (pos.map fun p => p.getD ch 0))
  else if t.c = t.rc ∨ t.comp then rowWrites t a (packCodes t.fmt (pos.flatMap (padTo t.rc 0)))
  else pos.zipIdx.map fun (p, x) => let w := posWrite t x p; (a + w.1, w.2)

/-- The exponent blocks of row y from its positions' exponents; a group of the recorded layout that a position of fewer
channels does not have takes 0. -/
def expWrites (t : Tensor) (y : Nat) (pos : List (List Int)) : Writes :=
  let exps := pos.flatMap (padTo t.ngR 0)
  (chunks 80 (exps.length / 80 + 1) exps).zipIdx.map fun (l, j) => (t.expAddr y j, expBlock (t.expTag y j) l)

/-- Records of one size per group, from each position's, in a stream addressed by group index (03 R69, R82). -/
def groupWrites (t : Tensor) (base size y : Nat) (pos : List (List Byte)) : Writes :=
  if t.ng = t.ngR then [(base + t.groupIdx y 0 0 * size, pos.flatten)]
  else pos.zipIdx.map fun (p, x) => (base + t.groupIdx y x 0 * size, p)

/-- A side-list record from its entries (03 R69). -/
def sideRecord (t : Tensor) (entries : List Int) : List Byte :=
  let b := leBytes 2 entries.length ++ entries.flatMap fun e => leBytes 2 (low e 16)
  b ++ List.replicate (t.sideSize - b.length) 0

/-- A value that enters a sum: a code, or the entry its escape stands for (03 R82). -/
def convValue (c : Conv) : Int := c.entry.getD c.code

end Sys2Proof.Machine
end

