-- ==== Sys2Proof/Machine/Compute.lean ====
section
/-! DEFINITION. What an array operation computes: its tiles and their order (05 R145 to R151), the groups of its
reductions (03 R77 to R84, 04 R115 to R121, R518), the drain chain (04 R131 to R136), adaptation (03 R88 to R92), and
the bytes it writes. -/
namespace Sys2Proof.Machine

/-! ### Tiles (05 R145 to R150) -/

/-- A tile: the problem of a pointer list (0 without one), its pod group, its number in that group's visit order (or in
the sequence of R150), its band, its place and its size within the extent. -/
structure Tile where
  prob : Nat
  group : Nat
  num : Nat
  band : Nat
  y : Nat
  x : Nat
  c : Nat
  h : Nat
  w : Nat
  n : Nat
deriving DecidableEq, Repr

/-- The loop of `hilbert_xy`: n rounds from index t, side s and place (x, y). -/
def hilbertLoop : Nat → Nat → Nat → Nat → Nat → Nat × Nat
  | 0, _, _, x, y => (x, y)
  | n + 1, t, s, x, y =>
    let rx := t / 2 % 2
    let ry := (t + rx) % 2
    let p := if ry = 0 then (if rx = 1 then (s - 1 - y, s - 1 - x) else (y, x)) else (x, y)
    hilbertLoop n (t / 4) (2 * s) (p.1 + s * rx) (p.2 + s * ry)

/-- 05 R149: column and row of Hilbert index d on a grid of side 2^n. -/
def hilbertXY (d n : Nat) : Nat × Nat := hilbertLoop n d 1 0 0

/-- The smallest n with m at most 2^n, up to 16. -/
def ceilLog2 (m : Nat) : Nat := (lowest 17 fun n => decide (m ≤ 2 ^ n)).getD 16

/-- The spatial tiles (row, column) of a grid in Hilbert order. -/
def hilbertTiles (tx ty : Nat) : List (Nat × Nat) :=
  let n := ceilLog2 (max tx ty)
  (List.range (4 ^ n)).filterMap fun d =>
    let p := hilbertXY d n
    if p.1 < tx ∧ p.2 < ty then some (p.2, p.1) else none

/-- The tiles of one spatial place, in ascending channel blocks. -/
def channelTiles (d : Tensor) (m : Mapping) (t : Tile) : List Tile :=
  (List.range (ceilDiv d.c m.tileC)).map fun k =>
    { t with c := k * m.tileC, n := min m.tileC (d.c - k * m.tileC) }

/-- Number tiles from 0. -/
def numbered (l : List Tile) : List Tile := l.zipIdx.map fun x => { x.1 with num := x.2 }

/-- Line kind: the tiles of group g in its visit order (R146, R148). -/
def lineTiles (d : Tensor) (m : Mapping) (groups g : Nat) : List Tile :=
  let sw := m.tileW * ceilDiv (ceilDiv d.w groups) m.tileW
  let x0 := g * sw
  let x1 := min ((g + 1) * sw) d.w
  numbered ((List.range (ceilDiv d.h m.bandRows)).flatMap fun b =>
    let y0 := b * m.bandRows
    let y1 := min ((b + 1) * m.bandRows) d.h
    (List.range (ceilDiv (y1 - y0) m.tileH)).flatMap fun r =>
      (List.range (ceilDiv (x1 - x0) m.tileW)).flatMap fun q =>
        let y := y0 + r * m.tileH
        let x := x0 + q * m.tileW
        channelTiles d m ⟨0, g, 0, b, y, x, 0, min m.tileH (y1 - y), min m.tileW (x1 - x), 0⟩)

/-- The tiles of rows y0 to y1 of a problem at every position, in Hilbert order (R149). -/
def hilbertBand (prob : Nat) (d : Tensor) (m : Mapping) (g y0 y1 : Nat) : List Tile :=
  (hilbertTiles (ceilDiv d.w m.tileW) (ceilDiv (y1 - y0) m.tileH)).flatMap fun p =>
    let y := y0 + p.1 * m.tileH
    let x := p.2 * m.tileW
    channelTiles d m ⟨prob, g, 0, 0, y, x, 0, min m.tileH (y1 - y), min m.tileW (d.w - x), 0⟩

/-- Frame kind: the tiles of group g (R146, R149). -/
def frameTiles (d : Tensor) (m : Mapping) (groups g : Nat) : List Tile :=
  let rb := m.tileH * ceilDiv (ceilDiv d.h groups) m.tileH
  numbered (hilbertBand 0 d m g (min (g * rb) d.h) (min ((g + 1) * rb) d.h))

/-- The outputs of the problems of an operation. -/
def outsOf (probs : List OpBlk) : List Tensor := probs.filterMap fun o => o.d

/-- The pod group whose drain converts channel ch of a tile (03 R61): the tile's own, but where a pointer list deals the
channel blocks of one position to several groups (05 R150), the one that holds the block of the last channel of ch's
group of D (DEDUCED, log entry 84). -/
def drainGroup (ptr : Bool) (m : Mapping) (groups : Nat) (d : Tensor) (t : Tile) (ch : Nat) : Nat :=
  if ptr && !d.fmt.wide then
    let last := min ((ch / d.fmt.gs + 1) * d.fmt.gs) d.c - 1
    (t.num - t.c / m.tileC + last / m.tileC) % groups
  else t.group

/-- Every tile of an operation: band by band, then group by group, each in its visit order; with a pointer list, the
sequence of R150. -/
def allTiles (probs : List OpBlk) (ptr : Bool) (m : Mapping) (groups : Nat) : List Tile :=
  if ptr then
    (numbered ((outsOf probs).zipIdx.flatMap fun (d, i) => hilbertBand i d m 0 0 d.h)).map fun t =>
      { t with group := t.num % groups }
  else match outsOf probs with
    | d :: _ =>
      if m.frame then (List.range groups).flatMap (frameTiles d m groups)
      else
        let per := (List.range groups).map (lineTiles d m groups)
        (List.range (ceilDiv d.h m.bandRows)).flatMap fun b =>
          per.flatMap fun l => l.filter fun t => t.band == b
    | [] => []

/-! ### Pod-store footprint (05 R151) -/

/-- Bytes of a piece of a tensor: rows of positions of channels. -/
def termBytes (t : Tensor) (code : Bool) (rows cols chans : Nat) : Nat :=
  let per := ceilDiv chans t.fmt.gs
  (if code then rows * ceilDiv (cols * chans * t.fmt.bits) 8 else 0) +
    (if t.fmt.wide then 0 else rows * ceilDiv (cols * per) 80 * 64 +
      (if t.fmt.side then rows * cols * per * t.sideSize else 0) + (if t.fmt.sums then rows * cols * per * 4 else 0))

/-- The slices of n reduction groups in s runs (R145), as lists of group numbers. -/
def slicesOf (n s : Nat) : List (List Nat) :=
  let k := ceilDiv n s
  (List.range s).map fun j => (List.range (min n ((j + 1) * k) - min n (j * k))).map fun i => j * k + i

/-- Numbers without repeats. -/
def dedup : List Nat → List Nat
  | [] => []
  | a :: t => let r := dedup t; if r.contains a then r else a :: r

/-- Reduction groups of one output element: taps times channel groups. -/
def OpBlk.reductionGroups (o : OpBlk) (b : Tensor) : Nat := (if o.opcode = 3 then 1 else o.kh * o.kw) * b.ng

/-- Bytes of the input elements that one slice of a divided reduction reads for a tile, exactly (05 R151): for each row
and column of the input window that some tap of the slice covers, the channels of the groups that the tap has in the
slice. `chans` gives the channels that a weight group stands for at a position. -/
def sliceInput (o : OpBlk) (a : Tensor) (rows cols ngB : Nat) (chans : Nat → Nat) (slice : List Nat) : Nat :=
  let taps := slice.map fun r => (r % ngB, r / ngB / o.kw, r / ngB % o.kw)
  let hits := fun (n s d k i : Nat) => decide (d * k ≤ i ∧ (i - d * k) % s = 0 ∧ (i - d * k) / s < n)
  let winH := (rows - 1) * o.sy + o.dy * (o.kh - 1) + 1
  let winW := (cols - 1) * o.sx + o.dx * (o.kw - 1) + 1
  sumN ((List.range winH).map fun i =>
    let row := taps.filter fun t => hits rows o.sy o.dy t.2.1 i
    let cells := (List.range winW).flatMap fun j =>
      (dedup ((row.filter fun t => hits cols o.sx o.dx t.2.2 j).map (·.1))).map chans
    let groups := sumN (cells.map fun n => ceilDiv n a.fmt.gs)
    ceilDiv (sumN cells * a.fmt.bits) 8 + ceilDiv groups 80 * 64 +
      (if a.fmt.side then groups * a.sideSize else 0) + (if a.fmt.sums then groups * 4 else 0))

/-- Footprint of a tile whose member reads the reduction groups of one slice. -/
def sliceFootprint (o : OpBlk) (m : Mapping) (a d : Tensor) (slice : List Nat) (whole : Bool) : Nat :=
  let op := o.opcode
  let rows := if m.frame then m.tileH else min m.tileH m.bandRows
  let cols := m.tileW
  let nc := m.tileC
  let ngB := match o.b with | some b => max b.ng 1 | none => 1
  let gsB := dedup (slice.map (· % ngB))
  let lenB := fun G => match o.b with | some b => b.groupLen G | none => 0
  let win := if op = 1 ∨ op = 2 ∨ op = 4 ∨ op = 7 then
      ((rows - 1) * o.sy + o.dy * (o.kh - 1) + 1, (cols - 1) * o.sx + o.dx * (o.kw - 1) + 1)
    else if op = 5 then (rows * (o.aux % 16), cols * (o.aux / 16))
    else if op = 6 then (ceilDiv rows (o.aux % 16), ceilDiv cols (o.aux / 16))
    else (rows, cols)
  let readC := sumN (gsB.map lenB)
  let oc := max (d.c / o.groups) 1
  let parts := if op = 2 then
      maxN ((List.range (ceilDiv d.c nc)).map fun k => (k * nc + nc - 1) / oc - k * nc / oc + 1) else 1
  let ic := if isProduct op then parts * readC
    else if op = 8 then a.c
    else if op = 5 then min nc a.c
    else if op = 6 then nc * ((o.aux % 16) * (o.aux / 16))
    else nc
  let fin := if m.split ≠ 0 ∧ isProduct op ∧ op ≠ 3 then
      sliceInput o a rows cols ngB (fun G => parts * lenB G) slice
    else termBytes a true win.1 win.2 ic
  let side := match o.b with
    | none => (0, 0)
    | some b =>
      if isProduct op then
        if op = 3 ∧ o.mode = 1 then (0, termBytes b true 1 nc readC)
        else
          let n := sumN (slice.map fun g => lenB (g % ngB))
          let k := slice.length
          (0, nc * (ceilDiv (n * b.fmt.bits) 8 + ceilDiv k 80 * 64 + (if b.fmt.side then k * b.sideSize else 0) +
            (if b.fmt.sums then k * 4 else 0)))
      else (if b.h = 1 ∧ b.w = 1 ∧ !whole then termBytes b true 1 1 nc else termBytes b true rows cols nc, 0)
  let fx := match o.x with | some x => termBytes x true rows cols nc | none => 0
  2 * (fin + side.1 + termBytes d (op != 0x0C) rows cols nc) + side.2 + fx

/-- F of R151, the largest over the slices that read something. A broadcast B is one position wide. -/
def footprint (o : OpBlk) (m : Mapping) : Nat :=
  match o.a, o.d with
  | some a, some d =>
    let whole := match o.b with | some b => b.h == a.h && b.w == a.w | none => true
    match o.b with
    | some b =>
      if isProduct o.opcode then
        maxN ((slicesOf (o.reductionGroups b) (2 ^ m.split)).map fun sl =>
          if sl.isEmpty then 0 else sliceFootprint o m a d sl whole)
      else sliceFootprint o m a d [] whole
    | none => sliceFootprint o m a d [] whole
  | _, _ => 0

/-! ### Reduction groups -/

/-- One group's contribution, or one sub-group's (04 R518): its product total, shift and correction. -/
structure Red where
  total : Int
  sh : Int
  corr : Int
deriving DecidableEq, Repr

/-- Dot product. -/
def dot (a b : List Int) : Int := (List.zipWith (· * ·) a b).foldl (· + ·) 0

/-- Sum of integers. -/
def sumI (l : List Int) : Int := l.foldl (· + ·) 0

/-- A group of codes of A at zero point zA against one of B at zB: product total, shift (R77) and correction (R84). -/
def mkRed (eref ea eb zA zB : Int) (av bv : List Int) (sa sb : Int) : Red :=
  ⟨dot av bv, ea + eb - eref, zA * sb + zB * sa - zA * zB * av.length⟩

/-- The input position under tap t of output (y, x), none in padding (R112). -/
def tapPos (o : OpBlk) (a : Tensor) (y x t : Nat) : Option (Nat × Nat) :=
  let iy : Int := (y * o.sy + t / o.kw * o.dy : Nat) - (o.pt : Int)
  let ix : Int := (x * o.sx + t % o.kw * o.dx : Nat) - (o.pl : Int)
  if 0 ≤ iy ∧ iy < a.h ∧ 0 ≤ ix ∧ ix < a.w then some (iy.toNat, ix.toNat) else none

/-- The sum entry of a group where the correction needs it. -/
def sumIf (rd : Reader) (t : Tensor) (need : Bool) (y x G : Nat) : Except OpStop Int :=
  if need then readSum rd t y x G else .ok 0

/-- One reduction group of a convolution: tap t, weight group G of output channel ch (R78, R83, R117, R518). The sums
stream holds one row sum per whole weight group, and R116 lets the device form none; for the correction that R518 asks of
each sub-group the model sums the sub-group's own weight values (DESIGN CHOICE, log entry 83). -/
def convGroup (rd : Reader) (o : OpBlk) (a b : Tensor) (zpc : Bool) (y x ch t G : Nat) : Except OpStop (List Red) :=
  let gs := a.fmt.gs
  let zA := a.fmt.zp
  let oc := if o.opcode = 2 then (match o.d with | some d => d.c / o.groups | none => 1) else 0
  let first := (if o.opcode = 2 then ch / oc * b.c else 0) + G * gs
  let len := b.groupLen G
  match tapPos o a y x t with
  | none => do
    let w ← readGroup rd b ch t G
    let sb ← sumIf rd b (zpc && zA != 0) ch t G
    .ok [⟨zA * sumI w.vals, 0, zA * sb⟩]
  | some (iy, ix) => do
    let g0 := first / gs
    let g1 := (first + len - 1) / gs
    let act ← collect (readGroup rd a iy ix) ((List.range (g1 + 1 - g0)).map (g0 + ·))
    let w ← readGroup rd b ch t G
    let sb ← sumIf rd b (zpc && zA != 0) ch t G
    .ok (act.zipIdx.map fun (g, i) =>
      let lo := max first ((g0 + i) * gs)
      let hi := min (first + len) ((g0 + i + 1) * gs)
      let av := (g.vals.drop (lo - (g0 + i) * gs)).take (hi - lo)
      let wv := (w.vals.drop (lo - first)).take (hi - lo)
      mkRed o.eref g.e w.e zA 0 av wv 0 (if g0 = g1 then sb else sumI wv))

/-- One reduction group of MATMUL (R115). -/
def matmulGroup (rd : Reader) (o : OpBlk) (a b : Tensor) (zpc : Bool) (y x ch G : Nat) : Except OpStop (List Red) := do
  let zA := a.fmt.zp
  let zB := b.fmt.zp
  let p := if o.mode = 1 then (ch / b.w, ch % b.w) else (ch, 0)
  let g ← readGroup rd a y x G
  let w ← readGroup rd b p.1 p.2 G
  let sa ← sumIf rd a (zpc && zB != 0) y x G
  let sb ← sumIf rd b (zpc && zA != 0) p.1 p.2 G
  .ok [mkRed o.eref g.e w.e zA zB g.vals w.vals sa sb]

/-- 04 R121: the shift at which a 2x2 tile, channel group and output channel is computed in WINO3 form; none for direct
form. A tile wholly in padding takes shift 0 (03 R83). -/
def winoShift (rd : Reader) (o : OpBlk) (a b : Tensor) (y x ch G : Nat) : Except OpStop (Option Int) := do
  let ws ← collect (fun t => readGroup rd b ch t G) (List.range 9)
  let ps := (List.range 16).filterMap fun i =>
    tapPos { o with kw := 4, kh := 4, dy := 1, dx := 1 } a (y / 2 * 2) (x / 2 * 2) i
  let es ← collect (fun p => readExp rd a p.1 p.2 G) ps
  match ws, es with
  | w :: _, [] => .ok (if ws.all fun u => u.e == w.e then some 0 else none)
  | w :: _, e :: _ =>
    .ok (if (ws.all fun u => u.e == w.e) && (es.all fun u => u == e) && decide (0 ≤ w.e + e - o.eref) then
      some (w.e + e - o.eref) else none)
  | [], _ => .ok none

/-- 04 R120: the total of one output element over a channel group in WINO3 form. -/
def winoTotal (rd : Reader) (o : OpBlk) (a b : Tensor) (y x ch G : Nat) : Except OpStop Int := do
  let n := a.groupLen G
  let ws ← collect (fun t => readGroup rd b ch t G) (List.range 9)
  let ds ← collect (fun i =>
    match tapPos { o with kw := 4, kh := 4, dy := 1, dx := 1 } a (y / 2 * 2) (x / 2 * 2) i with
    | some p => do
      let g ← readGroup rd a p.1 p.2 G
      .ok g.vals
    | none => .ok (List.replicate n a.fmt.zp)) (List.range 16)
  let chans := (List.range n).map fun i =>
    (chunks 3 3 (ws.map fun w => w.vals.getD i 0), chunks 4 4 (ds.map fun d => d.getD i 0))
  .ok (((winoTile chans).getD (y % 2) []).getD (x % 2) 0)

/-- A reduction group of WINO3: in WINO3 form the channel group's whole total stands at its first tap (log entry 20). -/
def winoGroup (rd : Reader) (o : OpBlk) (a b : Tensor) (zpc : Bool) (y x ch t G : Nat) : Except OpStop (List Red) := do
  let r ← convGroup rd o a b zpc y x ch t G
  match ← winoShift rd o a b y x ch G with
  | none => .ok r
  | some sh =>
    let tot ← if t = 0 then winoTotal rd o a b y x ch G else .ok 0
    .ok (r.map fun g => ⟨tot, sh, g.corr⟩)

/-- The correction of a reduction group that another device forms, which the combiner's drain takes from the exponents and the
sum stream alone (08 R264); only a divided weight group's own values are read (R518, log entry 83). -/
def corrGroup (rd : Reader) (o : OpBlk) (a b : Tensor) (y x ch t G : Nat) : Except OpStop (List Red) := do
  let zA := a.fmt.zp
  let zB := b.fmt.zp
  if o.opcode = 3 then
    let p := if o.mode = 1 then (ch / b.w, ch % b.w) else (ch, 0)
    let ea ← readExp rd a y x G
    let eb ← readExp rd b p.1 p.2 G
    let sa ← sumIf rd a (zB != 0) y x G
    let sb ← sumIf rd b (zA != 0) p.1 p.2 G
    .ok [⟨0, ea + eb - o.eref, zA * sb + zB * sa - zA * zB * b.groupLen G⟩]
  else
    let gs := a.fmt.gs
    let oc := if o.opcode = 2 then (match o.d with | some d => d.c / o.groups | none => 1) else 0
    let first := (if o.opcode = 2 then ch / oc * b.c else 0) + G * gs
    let len := b.groupLen G
    let sb ← sumIf rd b (zA != 0) ch t G
    match tapPos o a y x t with
    | none => .ok [⟨0, 0, zA * sb⟩]
    | some (iy, ix) => do
      let g0 := first / gs
      let g1 := (first + len - 1) / gs
      let ew ← readExp rd b ch t G
      let es ← collect (readExp rd a iy ix) ((List.range (g1 + 1 - g0)).map (g0 + ·))
      let w ← if g0 = g1 then .ok ⟨ew, []⟩ else readGroup rd b ch t G
      .ok (es.zipIdx.map fun (ea, i) =>
        let lo := max first ((g0 + i) * gs)
        let hi := min (first + len) ((g0 + i + 1) * gs)
        ⟨0, ea + ew - o.eref, zA * (if g0 = g1 then sb else sumI ((w.vals.drop (lo - first)).take (hi - lo)))⟩)

/-- This device forms reduction group k (08 R261). -/
def ownGroup (cross : Option CrossOp) (k : Nat) : Bool :=
  match cross with
  | some c => decide (c.first ≤ k ∧ k < c.first + c.count)
  | none => true

/-- The reduction groups of an output element in the order of R78, each with its sub-groups; of those that another device
forms, the correction alone. R121 does not say which form WINO3 takes when a division of the reduction divides the taps of a
channel group; the model then takes the direct form, whose bits are the same (R122), and counts fallbacks by R121's three
conditions alone (DESIGN CHOICE, log entry 83). -/
def redGroups (rd : Reader) (o : OpBlk) (a b : Tensor) (split : Nat) (cross : Option CrossOp) (y x ch : Nat) :
    Except OpStop (List (List Red)) :=
  let zpc := (o.stage 1).isSome
  let n := o.reductionGroups b
  let whole := (List.range n).all (ownGroup cross)
  collect (fun k =>
    let t := k / b.ng
    let G := k % b.ng
    if !ownGroup cross k then (if zpc then corrGroup rd o a b y x ch t G else .ok [])
    else if o.opcode = 3 then matmulGroup rd o a b zpc y x ch G
    else if o.opcode = 4 ∧ split = 1 ∧ whole then winoGroup rd o a b zpc y x ch t G
    else convGroup rd o a b zpc y x ch t G) (List.range n)

/-! ### Working values and the drain chain -/

/-- A working value with the saturations met on its way, and whether an accumulator saturated (03 R79). -/
structure Elem where
  v : Int
  ovf : Nat
  sat : Bool
deriving DecidableEq, Repr

/-- The value with a saturating step applied. -/
def Elem.step (e : Elem) (r : Int × Bool) : Elem := { e with v := r.1, ovf := e.ovf + b2n r.2 }

/-- The working value of a product, and its correction sum (03 R77 to R84, 08 R264). -/
def productElem (groups : List (List Red)) (split : Nat) (exact : Bool) : Elem × Elem :=
  let run := fun (g : List (List Red)) => accumulate 0 (g.flatten.map fun r => alignTotal r.total r.sh)
  let n := groups.length
  let parts := ((slicesOf n split).filter fun l => !l.isEmpty).map fun l => run (l.filterMap fun i => groups[i]?)
  let c := combine (decide (1 < split)) exact (parts.map (·.1))
  let k := (parts.filter (·.2)).length
  let r := accumulate 0 (groups.flatten.map fun r => alignTotal r.corr r.sh)
  (⟨c.v, k + c.ovf, decide (0 < k) || c.clamped⟩, ⟨r.1, b2n r.2, r.2⟩)

/-- One element of a tensor: its code or entry, and its exponent. -/
def readElem (rd : Reader) (t : Tensor) (y x ch : Nat) : Except OpStop (Int × Int) :=
  if t.fmt.wide then do
    let l ← readCodes rd t y x ch 1
    .ok (l.getD 0 0, t.fmt.wexp)
  else do
    let g ← readGroup rd t y x (ch / t.fmt.gs)
    .ok (g.vals.getD (ch % t.fmt.gs) 0, g.e)

/-- The working value of an element (R131). -/
def workElem (rd : Reader) (t : Tensor) (eref : Int) (y x ch : Nat) : Except OpStop Elem := do
  let p ← readElem rd t y x ch
  .ok ((⟨0, 0, false⟩ : Elem).step (alignValue p.1 t.fmt.zp p.2 eref))

/-- 04 R125: one output of POOL. -/
def poolElem (rd : Reader) (o : OpBlk) (a : Tensor) (y x ch : Nat) : Except OpStop Elem := do
  let excl := bitOf o.mode 1
  let l ← collect (fun t => match tapPos o a y x t with
    | some p => do
      let e ← workElem rd a o.eref p.1 p.2 ch
      .ok [e]
    | none => .ok (if excl then [] else [⟨0, 0, false⟩])) (List.range (o.kh * o.kw))
  let vs := l.flatten
  let ovf := sumN (vs.map (·.ovf))
  match vs with
  | [] => .ok ⟨0, 0, false⟩
  | e :: es =>
    if bitOf o.mode 0 then
      .ok ((⟨0, ovf, false⟩ : Elem).step (satS 48 (poolAverage (sumI (vs.map (·.v))) vs.length)))
    else .ok ⟨es.foldl (fun m u => max m u.v) e.v, ovf, false⟩

/-- 04 R127: one output of ELTW. -/
def eltwElem (rd : Reader) (o : OpBlk) (a : Tensor) (y x ch : Nat) : Except OpStop Elem :=
  match o.b with
  | none => workElem rd a o.eref y x ch
  | some b =>
    let p := if b.h = 1 ∧ b.w = 1 then (0, 0) else (y, x)
    if o.mode = 3 then do
      let u ← readElem rd a y x ch
      let v ← readElem rd b p.1 p.2 ch
      .ok ((⟨0, 0, false⟩ : Elem).step
        (satS 48 (alignTotal ((u.1 - a.fmt.zp) * (v.1 - b.fmt.zp)) (u.2 + v.2 - o.eref))))
    else do
      let u ← workElem rd a o.eref y x ch
      let v ← workElem rd b o.eref p.1 p.2 ch
      let r := match o.mode with
        | 1 => u.v + v.v
        | 2 => u.v - v.v
        | 4 => max u.v v.v
        | 5 => min u.v v.v
        | _ => u.v
      .ok ((⟨0, u.ovf + v.ovf, false⟩ : Elem).step (satS 48 r))

/-- 04 R126: the lowest channel of largest real value. -/
def argmaxElem (rd : Reader) (a : Tensor) (y x : Nat) : Except OpStop Elem := do
  let l ← collect (readElem rd a y x) (List.range a.c)
  let r := l.map fun p => (p.1 - a.fmt.zp) * 2 ^ (p.2 + 64).toNat
  let best := r.foldl max (r.getD 0 0)
  .ok ⟨((r.findIdx? (· == best)).getD 0 : Nat), 0, false⟩

/-- What an operation read at issue and runs under: the split and mode of its reduction, its channel-scale entry for a
logical index and channel, its lookup table, and the exponents of its QUANT stage per channel group. -/
structure Env where
  rd : Reader
  split : Nat
  exact : Bool
  scale : Nat → Nat → Nat
  lut : List Int
  exps : List Int
  /-- how the reduction is divided, where the schedule says so (08 R261) -/
  cross : Option CrossOp
  /-- the carried partials of an element (problem, y, x, ch), where they pass through blocks (08 R263, R264) -/
  blocks : Option (Nat → Nat → Nat → Nat → Except OpStop (List Int))

/-- One stage of the chain but for QUANT and ZRC (R132). -/
def applyStage (env : Env) (o : OpBlk) (lidx y x ch : Nat) (corr e : Elem) (st : Stage) : Except OpStop Elem :=
  let w := st.word
  match st.kind with
  | 1 => .ok ({ e with ovf := e.ovf + corr.ovf, sat := e.sat || corr.sat }.step (satS 48 (e.v - corr.v)))
  | 2 => .ok (e.step (scaleStage e.v (env.scale lidx ch)))
  | 3 => match o.x with
    | none => .ok e
    | some t => do
      let u ← workElem env.rd t o.eref y x ch
      .ok ({ e with ovf := e.ovf + u.ovf }.step (satS 48 (if bitOf w 8 then e.v - u.v else e.v + u.v)))
  | 4 =>
    let k := f w 45 40
    .ok (e.step (satS 48 (min (max e.v (sx 16 (f w 23 8) * 2 ^ k)) (sx 16 (f w 39 24) * 2 ^ k))))
  | 5 =>
    let v := max e.v 0
    .ok (e.step (satS 48 (if bitOf w 8 then min v (sx 16 (f w 31 16) * 2 ^ f w 37 32) else v)))
  | 6 =>
    let i := clamp (-128) 127 (roundEven e.v (f w 13 8)) + 128
    .ok (e.step (satS 48 (env.lut.getD i.toNat 0 * 2 ^ f w 19 14)))
  | _ => .ok e

/-- The chain from stage 0. -/
def applyChain (env : Env) (o : OpBlk) (lidx y x ch : Nat) (corr : Elem) : Elem → List Stage → Except OpStop Elem
  | e, [] => .ok e
  | e, st :: sts => match applyStage env o lidx y x ch corr e st with
    | .error s => .error s
    | .ok e => applyChain env o lidx y x ch corr e sts

/-- The value of one output element before it is converted. -/
def outElem (env : Env) (o : OpBlk) (a d : Tensor) (prob lidx y x ch : Nat) : Except OpStop Elem := do
  let op := o.opcode
  let z : Elem := ⟨0, 0, false⟩
  let start ← match o.b with
    | some b =>
      if isProduct op then do
        let g ← redGroups env.rd o a b env.split env.cross y x ch
        let p := productElem g env.split env.exact
        match env.blocks with
        | none => .ok p
        | some get => do
          let r := satS 48 (sumI (← get prob y x ch))
          .ok (⟨r.1, b2n r.2, false⟩, p.2)
      else do
        let e ← eltwElem env.rd o a y x ch
        .ok (e, z)
    | none => do
      let bh := o.aux % 16
      let bw := o.aux / 16
      let e ← if op = 5 then
          let p := (y * bh + ch / a.c / bw, x * bw + ch / a.c % bw)
          if p.1 < a.h ∧ p.2 < a.w then workElem env.rd a o.eref p.1 p.2 (ch % a.c) else .ok z
        else if op = 6 then workElem env.rd a o.eref (y / bh) (x / bw) ((y % bh * bw + x % bw) * d.c + ch)
        else if op = 7 then poolElem env.rd o a y x ch
        else if op = 8 then argmaxElem env.rd a y x
        else workElem env.rd a o.eref y x ch
      .ok (e, z)
  applyChain env o lidx y x ch start.2 start.1 o.stages

/-! ### Partials that pass through blocks (08 R261 to R263) -/

/-- Bytes of one block of partials. -/
def blockSize (exact : Bool) : Nat := if exact then 384 else 192

/-- Place of the block of pod slice j at a position of a problem and a block of 64 channels, from the place of the first. The
manual leaves the place to the schedule; the model lays the blocks out by problem, position, channel block and slice (DESIGN
CHOICE, log entry 85). -/
def blockAt (d : Tensor) (split : Nat) (exact : Bool) (prob y x cb j : Nat) : Nat :=
  ((((prob * d.rh + y) * d.rw + x) * ceilDiv d.rc 64 + cb) * split + j) * blockSize exact

/-- The partials of an element, one for each slice of the groups that this device forms, with whether each one's accumulator
saturated (08 R261). -/
def partialsOf (all : List (List Red)) (cross : Option CrossOp) (split : Nat) : List (Int × Bool) :=
  let groups := (all.zipIdx.filter fun g => ownGroup cross g.2).map (·.1)
  (slicesOf groups.length split).map fun l =>
    accumulate 0 ((l.filterMap fun i => groups[i]?).flatten.map fun r => alignTotal r.total r.sh)

/-- The blocks of one position and channel block, one for each slice, unused entries 0, with the saturations counted. -/
def positionBlocks (env : Env) (o : OpBlk) (a b d : Tensor) (base prob y x cb : Nat) :
    Except OpStop (Writes × Nat) := do
  let n := min 64 (d.c - cb * 64)
  let es ← collect (fun i => do
    let g ← redGroups env.rd { o with stages := [] } a b env.split env.cross y x (cb * 64 + i)
    .ok (partialsOf g env.cross env.split)) (List.range n)
  let size := blockSize env.exact
  let ovf := sumN (es.map fun l => sumN (l.map fun p => b2n p.2 + b2n (carried env.exact p.1).2))
  .ok ((List.range env.split).map (fun j =>
    (base + blockAt d env.split env.exact prob y x cb j,
      padTo size 0 (es.flatMap fun l => partialBytes env.exact ((l[j]?).map (·.1) |>.getD 0)))), ovf)

/-- The blocks that a tile's members form (08 R263: up to 64 consecutive channels of the tile). -/
def tileBlocks (env : Env) (o : OpBlk) (base : Nat) (t : Tile) : Except OpStop (Writes × Nat) :=
  match o.a, o.b, o.d with
  | some a, some b, some d => do
    let nb := ceilDiv t.n 64
    let l ← collect (fun k =>
      positionBlocks env o a b d base t.prob (t.y + k / nb / t.w) (t.x + k / nb % t.w) (t.c / 64 + k % nb))
      (List.range (t.h * t.w * nb))
    .ok (l.flatMap (·.1), sumN (l.map (·.2)))
  | _, _, _ => .ok ([], 0)

/-- The carried partials of an element, from the blocks at every place given (08 R264). -/
def readBlocks (rd : Reader) (d : Tensor) (split : Nat) (exact : Bool) (places : List Nat) (prob y x ch : Nat) :
    Except OpStop (List Int) := do
  let size := if exact then 6 else 3
  let l ← collect (fun p => do
    let b ← rdMem rd (p.1 + blockAt d split exact prob y x (ch / 64) p.2 + ch % 64 * size) size
    .ok (partialValue exact b)) (places.flatMap fun p => (List.range split).map fun j => (p, j))
  .ok l

/-! ### Outputs of a position -/

/-- A position converted (03 R73, 04 R133, R136): elements in channel order and D's exponents per group. -/
def convertPos (o : OpBlk) (d : Tensor) (exps : List Int) (es : List Elem) : PosOut :=
  let ovf := sumN (es.map (·.ovf))
  let sat := es.any (·.sat)
  if d.fmt.wide then
    let r := es.map fun e => if o.opcode = 8 then (e.v, false) else wideOut e.v o.eref d.fmt.wexp d.fmt.bits
    ⟨r.map (·.1), [], [], [], [], 0, 0, ovf + (r.filter (·.2)).length, sat⟩
  else
    let gs := (chunks d.fmt.gs d.ng es).zipIdx.map fun (g, G) =>
      toCodes o.eref (exps.getD G 0) d.fmt.zp d.fmt.n8 d.fmt.side d.sideCap 0 (g.map (·.v))
    let all := gs.flatten
    ⟨all.map (·.code), exps, gs.map fun g => sideRecord d (g.filterMap (·.entry)),
      gs.map fun g => sumI (g.map convValue), all.map (·.clipped), (all.filter (·.entry.isSome)).length,
      (all.filter (escFull · d.fmt.side)).length, ovf, sat⟩

/-- 04 R129: a position copied. A WIDE record may carry a sums bit, which R57 does not forbid; it has no groups for a sum stream
to number, and the model reads, copies and writes none for it (DESIGN CHOICE, log entry 98). -/
def copyPos (rd : Reader) (a : Tensor) (y x : Nat) : Except OpStop PosOut := do
  let gs := if a.fmt.wide then [] else List.range a.ng
  let exps ← collect (readExp rd a y x) gs
  let codes ← readCodes rd a y x 0 a.c
  let sides ← if a.fmt.side then collect (readSide rd a y x) gs else .ok []
  let sums ← if a.fmt.sums then collect (readSum rd a y x) gs else .ok []
  .ok ⟨codes, exps, sides, sums, [], 0, 0, 0, false⟩

/-- 03 R94: a position measured. -/
def measurePos (rd : Reader) (a d : Tensor) (y x : Nat) : Except OpStop PosOut := do
  let codes ← readCodes rd a y x 0 a.c
  let exps := (chunks d.fmt.gs d.ng codes).map fun g =>
    measureExp (g.foldl (fun m v => max m (if v < 0 then -v else v)) 0) a.fmt.wexp d.fmt.n8
  .ok ⟨[], exps, [], [], [], 0, 0, 0, false⟩

/-- exp_mode of the QUANT stage, none without one. -/
def OpBlk.quantMode (o : OpBlk) : Option Nat := (o.stage 7).map fun s => f s.word 9 8

/-- The exponents of D's groups at a position: from the stage, or with exp_mode 3 from D's own stream (R133). -/
def posExps (env : Env) (o : OpBlk) (d : Tensor) (y x : Nat) : Except OpStop (List Int) :=
  if o.quantMode = some 3 then collect (readExp env.rd d y x) (List.range d.ng) else .ok env.exps

/-- The elements a tile computes, as (problem, row, position, elements). -/
abbrev Item := Nat × Nat × Nat × List Elem

/-- What a tile reads and computes. COPY and MEASURE form no working values. -/
def runTile (env : Env) (o : OpBlk) (a d : Tensor) (lidx : Nat → Nat) (t : Tile) : Except OpStop (List Item) :=
  collect (fun k => do
    let y := t.y + k / t.w
    let x := t.x + k % t.w
    if o.opcode = 0x0B then do
      let _ ← copyPos env.rd a y x
      .ok (t.prob, y, x, [])
    else if o.opcode = 0x0C then do
      let _ ← measurePos env.rd a d y x
      .ok (t.prob, y, x, [])
    else do
      let _ ← posExps env o d y x
      let es ← collect (fun ch => outElem env o a d t.prob (lidx ch) y x ch) ((List.range t.n).map (t.c + ·))
      .ok (t.prob, y, x, es)) (List.range (t.h * t.w))

/-- A stop and the tile it struck. -/
structure OpFault where
  stop : OpStop
  tile : Option Nat
deriving DecidableEq, Repr

/-- How an operation is laid over the pods: its mapping, its number of pod groups, its rotation, whether a pointer list
drives it, the member of a group that combines and drains, and the first row that is written (02 R47). -/
structure Lay where
  m : Mapping
  G : Nat
  rotation : Nat
  ptr : Bool
  lead : Nat
  fromRow : Nat
deriving DecidableEq, Repr

/-- 08 R276: the group that computes what a group owns: with rotation r, group g computes what group (g + r) mod G owns;
with a pointer list, what is dealt to group k mod G goes to group (k + r) mod G. -/
def Lay.computes (l : Lay) (owner : Nat) : Nat :=
  if l.ptr then (owner + l.rotation) % l.G else (owner + l.G - l.rotation % l.G) % l.G

/-- The tiles of a band, in order; the member that the schedule names of a group combines and drains, member 0 where it names
none (08 R261, log entry 21). -/
def runTiles (env : Env) (probs : List OpBlk) (lay : Lay) :
    List Tile → Except OpFault (List Item)
  | [] => .ok []
  | t :: ts =>
    match probs[t.prob]? with
    | some o => match o.a, o.d with
      | some a, some d =>
        match runTile env o a d (fun ch => lay.computes (drainGroup lay.ptr lay.m lay.G d t ch) * env.split + lay.lead) t with
        | .error e => .error ⟨e, some t.num⟩
        | .ok l => match runTiles env probs lay ts with
          | .error e => .error e
          | .ok r => .ok (l ++ r)
      | _, _ => runTiles env probs lay ts
    | none => runTiles env probs lay ts

/-- Every block that the tiles' members form, with the tile of each write, and the saturations counted. -/
def runBlocks (env : Env) (probs : List OpBlk) (base : Nat) :
    List Tile → Except OpFault (List (Nat × Nat × List Byte) × Nat)
  | [] => .ok ([], 0)
  | t :: ts =>
    match probs[t.prob]? with
    | some o => match tileBlocks env o base t with
      | .error e => .error ⟨e, some t.num⟩
      | .ok l => match runBlocks env probs base ts with
        | .error e => .error e
        | .ok r => .ok (l.1.map (fun w => (t.num, w)) ++ r.1, l.2 + r.2)
    | none => runBlocks env probs base ts

/-- The output of one position. -/
def posOut (env : Env) (o : OpBlk) (a d : Tensor) (items : List Item) (prob y x : Nat) : Except OpStop PosOut :=
  if o.opcode = 0x0B then copyPos env.rd a y x
  else if o.opcode = 0x0C then measurePos env.rd a d y x
  else do
    let exps ← posExps env o d y x
    let es := (items.filter fun i => i.1 == prob && i.2.1 == y && i.2.2.1 == x).flatMap (·.2.2.2)
    .ok (convertPos o d exps es)

/-- What row y of D receives: code data, exponent blocks, side lists, sums. -/
def rowOut (o : OpBlk) (d : Tensor) (y : Nat) (ps : List PosOut) : Writes :=
  (if o.opcode = 0x0C then [] else codeWrites d y (ps.map (·.codes))) ++
    (if d.fmt.wide then [] else
      (if o.quantMode = some 3 then [] else expWrites d y (ps.map (·.exps))) ++
      (if o.opcode = 0x0C then [] else
        (if d.fmt.side then groupWrites d d.side d.sideSize y (ps.map fun p => p.sides.flatten) else []) ++
        (if d.fmt.sums then
          groupWrites d d.sums 4 y (ps.map fun p => p.sums.flatMap fun v => leBytes 4 (low v 32)) else [])))

/-! ### What a tile reads (04 R113, 05 R152) -/

/-- A range of memory that an operation reads, and how it would lie in a spool: bytes of code data, a zero-run segment, or
bytes of the other streams. -/
abbrev ReadItem := Nat × Nat × SpoolForm

/-- Elements e0 to e0 + n − 1 of the row that starts at an address. -/
def elemReads (t : Tensor) (a e0 n : Nat) : List ReadItem :=
  let b0 := e0 * t.fmt.bits / 8
  let len := ceilDiv ((e0 + n) * t.fmt.bits) 8 - b0
  if t.comp then (List.range ((b0 + len - 1) / 4096 + 1 - b0 / 4096)).map fun i =>
      let k := b0 / 4096 + i
      (a + k * 4672, 4672, .slot (min 4096 (t.rowBytes - 4096 * k)))
  else [(a + b0, len, .packed)]

/-- Channels c0 to c0 + n − 1 at a position. -/
def codeReads (t : Tensor) (y x c0 n : Nat) : List ReadItem :=
  let a := t.base + t.rowIdx y * t.pitch
  if t.chw then (List.range n).flatMap fun i => elemReads t (a + (c0 + i) * t.planePitch) x 1
  else elemReads t a (x * t.rc + c0) n

/-- A group with its exponent block and side list, and its sum where one is needed. -/
def groupReads (t : Tensor) (sum : Bool) (y x G : Nat) : List ReadItem :=
  (t.expAddr y ((x * t.ngR + G) / 80), 64, .raw) :: codeReads t y x (G * t.fmt.gs) (t.groupLen G) ++
    (if t.fmt.side then [(t.side + t.groupIdx y x G * t.sideSize, t.sideSize, .raw)] else []) ++
    (if sum then [(t.sums + t.groupIdx y x G * 4, 4, .raw)] else [])

/-- One element: its group, or the element of a WIDE tensor. -/
def elemAt (t : Tensor) (y x ch : Nat) : List ReadItem :=
  if t.fmt.wide then codeReads t y x ch 1 else groupReads t false y x (ch / t.fmt.gs)

/-- Every channel of a position. -/
def posReads (t : Tensor) (sum : Bool) (y x : Nat) : List ReadItem :=
  if t.fmt.wide then codeReads t y x 0 t.c else (List.range t.ng).flatMap (groupReads t sum y x)

/-- Reduction group k of an output element. -/
def redReads (o : OpBlk) (a b : Tensor) (wino : Bool) (y x ch k : Nat) : List ReadItem :=
  let t := k / b.ng
  let G := k % b.ng
  let zpc := (o.stage 1).isSome
  let sumB := zpc && a.fmt.zp != 0
  if o.opcode = 3 then
    let p := if o.mode = 1 then (ch / b.w, ch % b.w) else (ch, 0)
    groupReads a (zpc && b.fmt.zp != 0) y x G ++ groupReads b sumB p.1 p.2 G
  else
    let gs := a.fmt.gs
    let oc := if o.opcode = 2 then (match o.d with | some d => max (d.c / o.groups) 1 | none => 1) else 1
    let first := (if o.opcode = 2 then ch / oc * b.c else 0) + G * gs
    let Gs := (List.range ((first + b.groupLen G - 1) / gs + 1 - first / gs)).map (first / gs + ·)
    let at_ := if wino then (List.range 16).filterMap fun i =>
        tapPos { o with kw := 4, kh := 4, dy := 1, dx := 1 } a (y / 2 * 2) (x / 2 * 2) i
      else (tapPos o a y x t).toList
    at_.flatMap (fun p => Gs.flatMap (groupReads a false p.1 p.2)) ++ groupReads b sumB ch t G

/-- The reduction groups of one member of a pod group (05 R145), of those that this device forms. -/
def memberGroups (o : OpBlk) (b : Tensor) (split : Nat) (cross : Option CrossOp) (member : Nat) : List Nat :=
  let own := (List.range (o.reductionGroups b)).filter (ownGroup cross)
  ((slicesOf own.length split).getD member []).filterMap fun i => own[i]?

/-- What one member of a pod group reads for one output element. -/
def outReads (o : OpBlk) (a : Tensor) (split : Nat) (cross : Option CrossOp) (member lead y x ch : Nat) : List ReadItem :=
  (match o.b with
   | some b =>
     if isProduct o.opcode then
       (memberGroups o b split cross member).flatMap
         (redReads o a b (o.opcode == 4 && split == 1 && cross.isNone) y x ch)
     else
       let p := if b.h = 1 ∧ b.w = 1 then (0, 0) else (y, x)
       elemAt a y x ch ++ elemAt b p.1 p.2 ch
   | none =>
     let bh := max (o.aux % 16) 1
     let bw := max (o.aux / 16) 1
     if o.opcode = 5 then
       let p := (y * bh + ch / a.c / bw, x * bw + ch / a.c % bw)
       if p.1 < a.h ∧ p.2 < a.w then elemAt a p.1 p.2 (ch % a.c) else []
     else if o.opcode = 6 then
       elemAt a (y / bh) (x / bw) ((y % bh * bw + x % bw) * (match o.d with | some d => d.c | none => 1) + ch)
     else if o.opcode = 7 then (List.range (o.kh * o.kw)).flatMap fun t => match tapPos o a y x t with
       | some p => elemAt a p.1 p.2 ch
       | none => []
     else if o.opcode = 8 then posReads a false y x
     else elemAt a y x ch) ++
  (match o.x with | some r => if member = lead then elemAt r y x ch else [] | none => [])

/-- What one member of a pod group reads for a tile: the positions that a tap of one of its outputs covers and nothing else
(04 R113), the groups of its own slice of the reduction (05 R145), and what the drain reads. -/
def tileReads (o : OpBlk) (split : Nat) (cross : Option CrossOp) (member lead : Nat) (t : Tile) : List ReadItem :=
  match o.a, o.d with
  | some a, some d =>
    (List.range (t.h * t.w)).flatMap fun k =>
      let y := t.y + k / t.w
      let x := t.x + k % t.w
      if o.opcode = 0x0B then posReads a a.fmt.sums y x
      else if o.opcode = 0x0C then codeReads a y x 0 a.c
      else (if o.quantMode = some 3 ∧ member = lead then
          (List.range d.ng).map fun G => (d.expAddr y ((x * d.ngR + G) / 80), 64, .raw) else []) ++
        (List.range t.n).flatMap fun i => outReads o a split cross member lead y x (t.c + i)
  | _, _ => []

/-! ### Counts of a run (03 R88, R97) -/

/-- Counts of a run: per channel (clipped, converted), and the counters of R97. -/
structure Tally where
  chans : List (Nat × Nat)
  escapes : Nat
  full : Nat
  ovf : Nat
  sat : Bool
deriving DecidableEq, Repr

def Tally.zero (c : Nat) : Tally := ⟨List.replicate c (0, 0), 0, 0, 0, false⟩

/-- A position's counts added; a position of fewer channels leaves the counts of the others. -/
def Tally.add (t : Tally) (p : PosOut) : Tally :=
  { chans := t.chans.zipIdx.map fun (c, i) => match p.clips[i]? with
      | some k => (c.1 + b2n k, c.2 + 1)
      | none => c,
    escapes := t.escapes + p.escapes, full := t.full + p.full, ovf := t.ovf + p.ovf, sat := t.sat || p.sat }

/-- The counts of two runs together, channel counts added. -/
def Tally.join (t u : Tally) : Tally :=
  { chans := if t.chans.length < u.chans.length then u.chans else List.zipWith (fun (a b : Nat × Nat) =>
      (a.1 + b.1, a.2 + b.2)) t.chans (u.chans ++ List.replicate (t.chans.length - u.chans.length) (0, 0)),
    escapes := t.escapes + u.escapes, full := t.full + u.full, ovf := t.ovf + u.ovf, sat := t.sat || u.sat }

def Tally.clipped (t : Tally) : Nat := sumN (t.chans.map (·.1))

/-! ### Bands and adaptation (03 R88 to R92) -/

/-- A piece of a band: a problem and a run of its rows. -/
structure Piece where
  prob : Nat
  lo : Nat
  hi : Nat
deriving DecidableEq, Repr

/-- The adaptation state as the operation holds it: parameters, decisions applied, (exponent, low run) per channel
group, clipped counts of the last band decided. -/
structure AdaptRec where
  par : Adapt
  decisions : Nat
  groups : List (Int × Nat)
  clips : List Nat
deriving DecidableEq, Repr

/-- 03 R90 for every channel group after a band; the number of rises and falls. -/
def AdaptRec.decide (r : AdaptRec) (d : Tensor) (chans : List (Nat × Nat)) : AdaptRec × Nat × Nat :=
  let res := (chunks d.fmt.gs d.ng chans).zipWith (fun cs (g : Int × Nat) => adaptStep r.par g.1 g.2 cs) r.groups
  ({ r with decisions := (r.decisions + 1) % 2 ^ 32, groups := res.map fun x => (x.1, x.2.1),
            clips := chans.map (·.1) },
   (res.filter fun x => x.2.2 == 1).length, (res.filter fun x => x.2.2 == 2).length)

/-- The record's bytes from its start (R92). -/
def AdaptRec.bytes (r : AdaptRec) : List Byte :=
  leBytes 4 r.decisions ++ leBytes 2 r.groups.length ++ leBytes 10 0 ++
    (r.groups.flatMap fun g => leBytes 1 (low g.1 6) ++ leBytes 1 g.2 ++ leBytes 2 0) ++
    r.clips.flatMap fun c => leBytes 4 c

/-- The record read from memory. -/
def readAdapt (rd : Reader) (par : Adapt) (d : Tensor) : Except OpStop AdaptRec := do
  let h ← rdMem rd par.state (16 + 4 * d.ng + 4 * d.c)
  .ok ⟨par, leAt h 0 4, (List.range d.ng).map fun g => (sx 6 (leAt h (16 + 4 * g) 1), leAt h (17 + 4 * g) 1),
    (List.range d.c).map fun c => leAt h (16 + 4 * d.ng + 4 * c) 4⟩

/-- What a run has so far: its writes with the tile that each belongs to, its counts, rises and falls. -/
structure RunOut where
  writes : List (Nat × Nat × List Byte)
  tally : Tally
  adapt : Option AdaptRec
  raises : Nat
  falls : Nat
deriving DecidableEq, Repr

/-- A row of D: its positions, its writes under the first tile of the row, its counts. -/
def runRow (env : Env) (probs : List OpBlk) (tiles : List Tile) (items : List Item) (prob y : Nat) :
    Except OpFault (List (Nat × Nat × List Byte) × List PosOut) :=
  match probs[prob]? with
  | some o => match o.a, o.d with
    | some a, some d =>
      let tile := (tiles.find? fun t => t.prob == prob && decide (t.y ≤ y ∧ y < t.y + t.h)).map (·.num)
      match collect (posOut env o a d items prob y) (List.range d.w) with
      | .error e => .error ⟨e, tile⟩
      | .ok ps => .ok ((rowOut o d y ps).map fun w => (tile.getD 0, w.1, w.2), ps)
    | _, _ => .ok ([], [])
  | none => .ok ([], [])

/-- Results in order with their own stop type. -/
def collectF {α β : Type} (g : α → Except OpFault β) : List α → Except OpFault (List β)
  | [] => .ok []
  | a :: as => match g a with
    | .error e => .error e
    | .ok b => match collectF g as with
      | .error e => .error e
      | .ok bs => .ok (b :: bs)

/-- One band: its tiles, then its rows, then the adaptation decision. -/
def runBand (env : Env) (probs : List OpBlk) (d0 : Tensor) (lay : Lay) (tiles : List Tile)
    (r : RunOut) (band : List Piece) : Except OpFault RunOut :=
  let env := match r.adapt with | some a => { env with exps := a.groups.map fun g => g.1 } | none => env
  let mine := tiles.filter fun t => band.any fun p => p.prob == t.prob && decide (p.lo ≤ t.y ∧ t.y < p.hi)
  match runTiles env probs lay mine with
  | .error e => .error e
  | .ok items =>
    let rows := band.flatMap fun p => (List.range (p.hi - p.lo)).map fun i => (p.prob, p.lo + i)
    match collectF (fun (q : Nat × Nat) => runRow env probs mine items q.1 q.2) rows with
    | .error e => .error e
    | .ok out =>
      let t := (out.flatMap fun w => w.2).foldl Tally.add (Tally.zero d0.c)
      let put := (List.zip rows out).filter fun q => decide (lay.fromRow ≤ q.1.2)
      let r := { r with writes := r.writes ++ (put.map Prod.snd).flatMap Prod.fst, tally := r.tally.join t }
      match r.adapt with
      | none => .ok r
      | some a =>
        let x := a.decide d0 t.chans
        .ok { r with adapt := some x.1, raises := r.raises + x.2.1, falls := r.falls + x.2.2 }

/-- Every band in turn, those after the first under a second environment, since a register that is held while the operation
uses it takes effect at a band's end (00 R20). The writes stand in the order of the tiles' rows, so where two entries of a pointer list write the
same bytes the last in that order stays; R156 leaves open which (DESIGN CHOICE, log entry 83). -/
def runBands (env later : Env) (probs : List OpBlk) (d0 : Tensor) (lay : Lay) (tiles : List Tile) :
    RunOut → List (List Piece) → Except OpFault RunOut
  | r, [] => .ok r
  | r, b :: bs => match runBand env probs d0 lay tiles r b with
    | .error e => .error e
    | .ok r => runBands later later probs d0 lay tiles r bs

/-- The bands of R90: rows of band_rows for a ring-issued operation of line kind, else the whole operation. -/
def bandPieces (probs : List OpBlk) (m : Mapping) (byRows : Bool) : List (List Piece) :=
  match outsOf probs with
  | [d] =>
    if byRows && !m.frame then
      (List.range (ceilDiv d.h m.bandRows)).map fun b => [⟨0, b * m.bandRows, min ((b + 1) * m.bandRows) d.h⟩]
    else [[⟨0, 0, d.h⟩]]
  | ds => [ds.zipIdx.map fun (d, i) => ⟨i, 0, d.h⟩]

/-- 04 R142, R121: combinations of 2x2 tile, channel group and output channel that WINO3 computes in direct form, of the channel
groups of which this device forms some tap. -/
def winoFallbacks (rd : Reader) (cross : Option CrossOp) (o : OpBlk) : Nat :=
  match o.a, o.b, o.d with
  | some a, some b, some d =>
    if o.opcode ≠ 4 then 0 else
    sumN ((List.range (ceilDiv d.h 2 * ceilDiv d.w 2)).map fun k =>
      let y := k / ceilDiv d.w 2 * 2
      let x := k % ceilDiv d.w 2 * 2
      sumN ((List.range d.c).map fun ch =>
        ((List.range a.ng).filter fun G => (List.range 9).any (fun t => ownGroup cross (t * b.ng + G)) &&
          (match winoShift rd o a b y x ch G with
          | .ok (some _) => false
          | _ => true)).length))
  | _, _, _ => 0

end Sys2Proof.Machine
end

