-- ==== Sys2Proof/Machine/Issue.lean ====
section
/-! DEFINITION. Issue of an array operation (04 R99 to R137, 05 R143 to R159): what the device reads and checks before
the operation starts, and the shared handling of memory errors and faults of a stream. -/
namespace Sys2Proof.Machine

/-! ### Faults of a stream (06 R210, R213 step 1) -/

/-- The position record of a stream (06 R211) as 8 words; `t` is its time field. -/
def positionRecord (n : Nat) (x : Stream) (fi : FaultInfo) (t : Nat) : List Word :=
  let b3 := b2n (x.cls == .deferrable) + 2 * b2n (x.cost.mode == 1) + 4 * b2n (x.state == .bypass) +
    8 * b2n fi.ptr
  let b := leBytes 2 n ++ leBytes 1 fi.cause ++ leBytes 1 b3 ++ leBytes 4 x.kept ++ leBytes 2 fi.op ++ leBytes 2 0 ++
    leBytes 4 fi.tile ++ leBytes 5 fi.addr ++ leBytes 1 fi.window ++ leBytes 2 fi.detail ++ leBytes 8 t
  (List.range 8).map fun k => BitVec.ofNat 32 (leAt b (4 * k) 4)

/-- Log 0x0401: cause, and bytes 12 to 23 of the record. -/
def logHalt (s : State) (n : Nat) (fi : FaultInfo) (noRecord : Bool) : State :=
  let c8 := fi.tile % 2 ^ 32 + 2 ^ 32 * (fi.addr % 2 ^ 32)
  let c4 := fi.addr / 2 ^ 32 % 2 ^ 8 + 2 ^ 8 * fi.window + 2 ^ 16 * (fi.detail % 2 ^ 16)
  logAdd2 s 0x0401 0 2 (n + 2 ^ 8 * fi.cause + 2 ^ 16 * b2n noRecord) c8 c4

/-- A fault that strikes no operation, with no address. -/
def plainFault (cause : Nat) : FaultInfo := ⟨cause, 0, 0xFF, 0, 0xFFFF, 0xFFFFFFFF, false, none⟩

/-! ### Prefetched blocks (06 R204) -/

/-- 06 R204: prefetched blocks are discarded and their slots return; nothing is written. -/
def dropBlocks (s : State) (p : Staging → Bool) : State :=
  consReturn { s with staging := s.staging.filter fun g => !(p g) } 5 (s.staging.filter p).length

/-- Every prefetched block of a stream is discarded. -/
def dropPrefetch (s : State) (n : Nat) : State := dropBlocks s fun g => g.stream == n

/-- Every block prefetched for a work is discarded. -/
def dropWorkBlocks (s : State) (wid : Nat) : State := dropBlocks s fun g => g.wid == wid

/-- A fault strikes a stream: it stops issuing tiles, its prefetched blocks are discarded, and its record follows at
HALT_RECORD (06 R213). On a HALTED or RELEASING stream, or on one that an earlier fault is halting, it is only logged, and an
operation it struck completes as cancelled (06 R193, 09 R307). -/
def raiseFault (s : State) (n : Nat) (fi : FaultInfo) : State :=
  let x := streamGet s n
  if x.state = .halted ∨ x.state = .releasing then
    let s := logHalt s n fi true
    match fi.wid with
    | some w => complete s w 3 0
    | none => s
  else if x.state = .running ∨ x.state = .bypass ∨ x.state = .shed then
    match x.faulting with
    | some _ =>
      let s := logHalt s n fi true
      match fi.wid with
      | some w => complete s w 3 0
      | none => s
    | none => streamPut (dropPrefetch s n) n { x with faulting := some (fi, s.time), prefStop := false }
  else s

/-- The fault a stopped access makes, for an operation (index, tile) or none. -/
def memFault (m : MemStop) (op tile : Nat) (ptr : Bool) (wid : Option Nat) : FaultInfo :=
  ⟨m.cause, m.addr, m.win, m.detail, op, tile, ptr, wid⟩

/-- The cause and detail of a stop (06 R210, R211), with the fault counters (03 R97). -/
def stopFault (s : State) (n : Nat) (st : OpStop) (op tile : Nat) (ptr : Bool) : State × FaultInfo :=
  match st with
  | .mem m => (noteStop s n m, memFault m op tile ptr none)
  | .skew want got a => (bumpF s 0x1001024 15 0, ⟨0x03, a, 0xFF, want + 2 ^ 8 * got, op, tile, ptr, none⟩)
  | .underrun a => (bumpF s 0x1001024 31 16, ⟨0x04, a, 0xFF, 0, op, tile, ptr, none⟩)
  | .badData a => (s, ⟨0x06, a, 0xFF, 0, op, tile, ptr, none⟩)

/-! ### A stream's accesses, and memory errors on them (10 R339, R340, R344) -/

/-- Where a stream finds an address, once a buffer of it lies in the reserve window. -/
def movedAddr (x : Stream) (a : Nat) : Nat :=
  match x.moved with
  | some (b, l, nb) => if b ≤ a ∧ a < b + l then nb + (a - b) else a
  | none => a

/-- The reader of stream n for the holder of its references. -/
def streamReader (s : State) (n holder : Nat) : Reader := Reader.plain fun a len =>
  devRead s (readBy n holder) (movedAddr (streamGet s n) a) len

/-- Something that stands in place of a range of memory: its first address, its end, and what reading it gives. -/
structure Patch where
  lo : Nat
  hi : Nat
  get : Nat → Nat → Except OpStop (List Byte)

/-- Read n bytes where patches stand in place of memory: piece by piece, in at most `fuel` pieces. -/
def patched (rd : Reader) (ps : List Patch) : Nat → Nat → Nat → Except OpStop (List Byte)
  | 0, a, n => rd.get a n
  | fuel + 1, a, n =>
    let inside := ps.find? fun p => decide (p.lo ≤ a ∧ a < p.hi)
    let stop := match inside with
      | some p => min (a + n) p.hi
      | none => (ps.filter fun p => decide (a < p.lo)).foldl (fun m p => min m p.lo) (a + n)
    let here := match inside with
      | some p => p.get a (stop - a)
      | none => rd.get a (stop - a)
    if stop = a + n then here else
    match here with
    | .error e => .error e
    | .ok b => match patched rd ps fuel stop (a + n - stop) with
      | .error e => .error e
      | .ok r => .ok (b ++ r)

/-- What reading a spooled piece gives; a zero-run segment is decompressed and checked (04 R141). -/
def SpoolPiece.patch (rd : Reader) (p : SpoolPiece) : Patch :=
  { lo := p.live, hi := p.live + p.len,
    get := fun a n => match p.form with
      | .packed => readPacked rd p.at_ p.len (a - p.live) n
      | _ => rdMem rd (p.at_ + (a - p.live)) n }

/-- A reader for which what a band's spool holds stands in place of the live addresses (06 R219). -/
def spooledReader (rd : Reader) (pieces : List SpoolPiece) : Reader :=
  { rd with get := patched rd (pieces.map (SpoolPiece.patch rd)) (2 * pieces.length + 1) }

/-- A reader for which what the fetch engine has brought to the pods stands in place of the memory it came from (05 R152, R180,
06 R203); a zero-run segment has been decompressed on its way. -/
def fetchedReader (rd : Reader) (l : List Fetch) : Reader :=
  let ps := (l.filter fun g => g.seg.isNone).flatMap (·.pieces)
  { get := patched rd (ps.map fun p => ⟨p.1, p.1 + p.2.length, fun a n => .ok (slice p.2 (a - p.1) n)⟩)
      (2 * ps.length + 1),
    seg := fun a n => match l.find? fun g => g.unit == a && g.seg == some n with
      | some g => g.pieces.head?.map (·.2)
      | none => rd.seg a n }

/-- The buffer of a line-locked stream that holds an address and can be fetched again. -/
def refetchBuf (x : Stream) (a : Nat) : Option Refetch :=
  if x.cls = .lineLocked then
    match x.sched with
    | some d => d.refetch.find? fun r => decide (r.base ≤ a ∧ a < r.base + r.len) && region a == .lpddr
    | none => none
  else none

/-- The valid window of a kind that a stream owns. -/
def ownWindow (s : State) (n kind : Nat) : Option (Nat × Window) :=
  s.wins.find? fun e => e.2.state == 2 && e.2.kind == kind && e.2.owner == n

/-- 10 R340: copy the buffer's source into the reserve window at the buffer's offset in its own window; both accesses are
checked like any of the stream's (02 R29). None where there is no reserve window or an access stops. -/
def reserveMove (s : State) (n : Nat) (r : Refetch) : Option State :=
  let own := s.wins.find? fun e => e.2.owner == n && e.2.covers r.base
  match ownWindow s n 5, own with
  | some (_, w), some (_, o) =>
    let base := w.base + (r.base - o.base)
    match devRead s (readBy n 0) r.src r.len with
    | .error _ => none
    | .ok b => match devWrite s (writeBy n 0) base b with
      | .error _ => none
      | .ok s => some (bump (streamPut s n { streamGet s n with moved := some (r.base, r.len, base) }) 0x3000024)
  | _, _ => none

/-- One uncorrectable address that a command of stream n met. A move stops the band: what was prefetched is discarded (06 R204,
R213 step 1), and what has not been computed reads the moved buffer; nothing was computed from the block that failed. -/
def badUnit (s : State) (n a : Nat) : State :=
  let x := streamGet s n
  match refetchBuf x a with
  | some r =>
    if x.moved.isNone then
      match reserveMove s n r with
      | some s => dropPrefetch (logAdd2 s 0x0204 3 2 (ddrChannel a + 2 ^ 9) (eccBase a) 0) n
      | none => poisonUnit s a false
    else poisonUnit s a false
  | none => poisonUnit s a false

/-- What the check bits found while a command of stream n read memory. -/
def applyErrs (s : State) (n : Nat) (e : MemErrs) : State :=
  let s := e.corrected.foldl correctUnit s
  let s := linkCorrected s e.link
  (e.bad.filter fun a => backed s a).foldl (fun s a => badUnit s n a) s

/-! ### LPDDR allowances (06 R208, R209) -/

/-- Allowance of a line-locked stream per enforcement window in a class: 0 read, 1 write, 2 remote. -/
def allowance (x : Stream) (cls : Nat) : Nat :=
  let c := if cls = 0 then x.cost.ddrRead else if cls = 1 then x.cost.ddrWrite else x.cost.ddrRemote
  ceilDiv (c * x.maxRate) (max 1 x.cost.bandLines * 64000000)

/-- Accesses that a stream has made in the present window in a class, those carried into it included. -/
def ddrUsed (s : State) (n cls : Nat) : Nat :=
  sumN ((s.ddr.used.filter fun u => u.1 == n && u.2.1 == cls).map (·.2.2))

/-- A class's quota of accesses per window: its share in force of 3,200 (06 R206, R208). -/
def ddrQuota (s : State) (cls : Nat) : Nat := f (regGet s 0x3000404) (cls * 8 + 7) (cls * 8) * 32

/-- Accesses that line-locked streams have made in the present window in a class. -/
def ddrClassUsed (s : State) (cls : Nat) : Nat := sumN ((s.ddr.used.filter fun u => u.2.1 == cls).map (·.2.2))

/-- Accesses of 64 bytes that byte ranges in LPDDR take, each block once. -/
def lpddrBlocks (l : List (Nat × Nat)) : Nat :=
  sumN ((mergeRanges ((l.filter fun r => region r.1 == .lpddr && r.2 != 0).map fun r =>
    (r.1 / 64 * 64, ceilDiv (r.1 % 64 + r.2) 64 * 64))).map fun r => r.2 / 64)

/-- Accesses of a stream's class counted in a list. -/
def ddrPut (l : List (Nat × Nat × Nat)) (n cls k : Nat) : List (Nat × Nat × Nat) :=
  let have_ := sumN ((l.filter fun u => u.1 == n && u.2.1 == cls).map (·.2.2))
  let others := l.filter fun u => !(u.1 == n && u.2.1 == cls)
  if have_ + k = 0 then others else others ++ [(n, cls, have_ + k)]

/-- Requests of a class that the present window can still serve for a line-locked stream: within its allowance, the class's
quota and what refresh and the other accesses have left of the window (06 R208, R209). -/
def ddrLeft (s : State) (n cls : Nat) : Nat :=
  min (min (allowance (streamGet s n) cls - ddrUsed s n cls) (ddrQuota s cls - ddrClassUsed s cls))
    (3200 - s.ddr.refreshTaken - (ddrClassUsed s 0 + ddrClassUsed s 1 + ddrClassUsed s 2))

/-- A line-locked stream requests k accesses of a class: the window serves those that it can, and the others wait for the next
(06 R208). -/
def ddrAsk (s : State) (n cls k : Nat) : State :=
  if (streamGet s n).cls ≠ .lineLocked ∨ k = 0 then s else
  let now := min k (ddrLeft s n cls)
  { s with ddr := { s.ddr with used := ddrPut s.ddr.used n cls now, queued := ddrPut s.ddr.queued n cls (k - now) } }

/-- Requests of a stream that wait for a later window. -/
def ddrPending (s : State) (n : Nat) : Bool := s.ddr.queued.any fun u => u.1 == n

/-- An access waits because a channel pair that it needs has lost its clock (14 R455 class 8); the pair holds its data as 10 R342
maps it. -/
def clockWaits (s : State) (a len : Nat) : Bool :=
  region a == .lpddr && s.power.unlocked.any fun u => u.1 == 9 &&
    (List.range (min 16 (ceilDiv (a % 64 + len) 64))).any fun i => (a / 64 + i) % 16 / 2 == u.2

/-- A request for LPDDR that waits: of a line-locked stream, one that the present window does not serve. -/
def ddrWaits (s : State) (n cls a : Nat) : Bool :=
  clockWaits s a 64 || (region a == .lpddr && (streamGet s n).cls == .lineLocked && ddrLeft s n cls == 0)

/-- A copy of LPDDR data waits for a clock. -/
def pairLost (s : State) : Bool := s.power.unlocked.any (·.1 == 9)

/-- A range of LPDDR is accessed for a stream, in k requests. -/
def ddrCharge (s : State) (n cls a len k : Nat) : State :=
  if region a = .lpddr then ddrAsk (ddrTouch s [(a, len)]) n cls k else s

/-! ### Registers that take effect at a band boundary (00 R20) -/

/-- Writes held for the boundary become the registers' values. -/
def applyShadow (s : State) (p : Nat → Bool) : State :=
  let now := s.shadow.filter fun e => p e.1
  now.foldl (fun s e => regPut s e.1 e.2.toNat) { s with shadow := s.shadow.filter fun e => !(p e.1) }

/-- First standing scale entry of a physical pod (03 R97), less 0x60_0000_0000. -/
def drainBase (pod : Nat) : Nat := 0x1800000 + pod * 0x4000

/-- A register address lies among a pod's standing scale entries. -/
def drainOf (pod a : Nat) : Bool := decide (drainBase pod ≤ a ∧ a < drainBase pod + 0x4000)

/-- The standing scale entries of the active pods that are not 0, by logical index and channel. -/
def standing (s : State) : Tab Nat :=
  s.pods.lmap.zipIdx.flatMap fun (pod, l) =>
    (s.regs.filter fun e => drainOf pod e.1).map fun e => (l * 4096 + (e.1 - drainBase pod) / 4, e.2.toNat)

/-- What of the held writes the end of a band of an operation lets take effect: the standing scale entries and the stream's
configuration (00 R20, 03 R87). -/
def opRegs (n a : Nat) : Bool := decide (0x1800000 ≤ a ∧ a < 0x19A0000) || a == 0x4004 + n * 0x40

/-! ### Issue -/

/-- The outcome of an issue: an error subcode, a structure not granted (subcode 0x08), a structure whose data cannot be
corrected, empty-extent, bound-exceeded, or an operation. -/
inductive Issue where
  /-- an error completion with this subcode -/
  | err (sub : Nat)
  | denied (m : MemStop)
  | bad (e : OpStop)
  | empty
  | bound
  | ready (op : Op)
deriving DecidableEq, Repr

/-- Read a structure of the descriptor. -/
def readStruct (rd : Reader) (a n : Nat) : Except Issue (List Byte) :=
  match rd.get a n with
  | .ok b => .ok b
  | .error (.mem (.uncorrectable u w)) => .error (.bad (.mem (.uncorrectable u w)))
  | .error (.mem m) => .error (.denied m)
  | .error e => .error (.bad e)

/-- A subcode where one applies. -/
def failIf (c : Option Nat) : Except Issue Unit :=
  match c with
  | some n => .error (.err n)
  | none => .ok ()

/-- An issue outcome where a condition holds. -/
def stopIf (b : Bool) (i : Issue) : Except Issue Unit := if b then .error i else .ok ()

/-- The bound word of a register set as last applied (05 R158). -/
def boundReg (s : State) (k : Nat) : RtBound :=
  let a := 0x2000100 + k * 0x10
  let w0 := regGet s a
  let w1 := regGet s (a + 4)
  ⟨f w0 15 0, f w0 31 16, f w1 15 0, f w1 31 16⟩

/-- 05 R157, R158: the run-time bound word of an operation, from a register set, as a spool took it where the band lies there,
or from memory. -/
def readBound (s : State) (rd : Reader) (kept : Tab RtBound) (o : OpBlk) : Except Issue (Option RtBound) :=
  if !o.rt then .ok none
  else if o.rtT ≤ 15 then .ok (some ((tget kept o.rtT).getD (boundReg s o.rtT)))
  else do
    let b ← readStruct rd o.rtT 16
    failIf (if zeroAt b 8 8 then none else some 0x01)
    .ok (some ⟨leAt b 0 2, leAt b 2 2, leAt b 4 2, leAt b 6 2⟩)

/-- 05 R154: the entries of a pointer list, `count` from the bound word where it is not 0. -/
def readList (rd : Reader) (o : OpBlk) (count : Nat) : Except Issue (List (List Byte)) :=
  if !o.ptr then .ok [] else do
    let h ← readStruct rd o.ptrT 64
    failIf (if zeroAt h 2 62 then none else some 0x01)
    let n := if count = 0 then leAt h 0 2 else count
    stopIf (decide (4096 < leAt h 0 2)) (.err 0x09)
    stopIf (decide (4096 < n)) .bound
    stopIf (n == 0) .empty
    let b ← readStruct rd (o.ptrT + 64) (64 * n)
    .ok (chunks 64 n b)

/-- The problems of an operation (R155, R157, R517). -/
def problemsOf (o : OpBlk) (ptrs : List (List Byte)) (rt : Option RtBound) : List OpBlk :=
  if o.ptr then ptrs.zipIdx.map fun (b, i) => o.atEntry (decEntry b) i
  else match rt with
    | some r => [o.atRun r.h r.w r.n]
    | none => [o]

/-- A problem has no output (R110, R111). -/
def emptyProblem (o : OpBlk) : Bool :=
  match o.a with
  | some a => let w := wantExtents o a.h a.w; decide (w.1 < 1 ∨ w.2 < 1)
  | none => true

/-- R109: no more output channels than the drain has scale entries, where they come at run time (R100). -/
def wideProblem (o : OpBlk) : Bool :=
  isProduct o.opcode && (match o.d with | some d => decide (4096 < d.c) | none => false)

/-- R110, R111, R157, R159: the extents of an operation as issued. With a pointer list R111 is taken of the whole operation:
where only some entries are empty the others are computed and it completes as done (DESIGN CHOICE, log entry 82). -/
def checkExtents (o : OpBlk) (ptrs : List (List Byte)) (rt : Option RtBound) (probs : List OpBlk) :
    Except Issue Unit := do
  match rt with
  | some r => do
    failIf (if r.n ≠ 0 ∧ ¬ (o.opcode = 3 ∧ o.mode = 1) then some 0x01 else none)
    stopIf (r.h == 0 || r.w == 0) .empty
    stopIf (overBound o r.h r.w r.n) .bound
  | none => .ok ()
  if o.ptr then do
    stopIf (ptrs.any fun b => let e := decEntry b; overBound o e.h e.w e.n) .bound
    failIf (if probs.any wideProblem then some 0x01 else none)
    stopIf (probs.all emptyProblem) .empty
  else if rt.isSome then do
    failIf (if probs.any wideProblem then some 0x01 else none)
    stopIf (probs.all emptyProblem) .empty
  else match o.a, o.d with
    | some a, some d => do
      let e := extentErr o a d
      stopIf e.2 .empty
      failIf e.1
    | _, _ => .error (.err 0x01)

/-- 04 R107, 02 R33, 05 R151: ranges against one another, against the register region, and the footprint. -/
def checkRanges (o : OpBlk) (m : Mapping) (probs : List OpBlk) : Except Issue Unit := do
  failIf (if probs.any fun p => p.ranges.any fun r => regNamed r.1 r.2 then some 0x07 else none)
  failIf (if probs.any fun p => match p.a, p.d with | some a, some d => overlapBad p a d | _, _ => false then
    some 0x04 else none)
  failIf (if 1474560 < footprint o m then some 0x05 else none)

/-- 04 R137: scale table, where the SCALE stage uses one. R137 says that every entry of a table is checked and not how many it has
where a run-time n makes D's channels fewer: the model reads and checks one for each of D's recorded channels, as it does of an
exponent table for each of their groups (DESIGN CHOICE, log entry 98). -/
def readScale (rd : Reader) (o : OpBlk) : Except Issue (Option (List Nat)) :=
  match o.stage 2, o.d with
  | some _, some d =>
    if o.scaleT = 0 then .ok none else do
      let b ← readStruct rd o.scaleT (4 * d.c)
      let l := (List.range d.c).map fun i => leAt b (4 * i) 4
      failIf (if l.all scaleEntryOk then none else some 0x01)
      .ok (some l)
  | _, _ => .ok none

/-- The standing entries that an operation without a named table takes: those in force when it is issued, which are its
band's until the next boundary (03 R87, 00 R20). -/
def readStanding (s : State) (o : OpBlk) : Tab Nat :=
  match o.stage 2 with
  | some _ => if o.scaleT = 0 then standing s else []
  | none => []

/-- 04 R132: the lookup table. -/
def readLut (rd : Reader) (o : OpBlk) : Except Issue (List Int) :=
  match o.stage 6 with
  | none => .ok []
  | some st => do
    let b ← readStruct rd (f st.word 63 24) 512
    .ok ((List.range 256).map fun i => sx 16 (leAt b (2 * i) 2))

/-- 03 R89: the adaptation parameters of 16 bytes. -/
def decAdapt (b : List Byte) : Adapt :=
  ⟨leAt b 0 2, leAt b 2 2, leAt b 4 1, sx 6 (leAt b 5 1), sx 6 (leAt b 6 1), leAt b 8 8⟩

/-- The subcode of a reserved parameter block. -/
def adaptErr (b : List Byte) : Option Nat :=
  let p := decAdapt b
  firstErr [(0x01, decide (p.thHi ≤ p.thLo ∨ p.hold = 0 ∨ p.eHi < p.eLo ∨ 64 ≤ leAt b 5 1 ∨ 64 ≤ leAt b 6 1 ∨
    leAt b 7 1 ≠ 0)), (0x03, over40 p.state)]

/-- 04 R133: what the QUANT stage reads at issue: table entries, or the parameter block's bytes. -/
def readExps (rd : Reader) (o : OpBlk) : Except Issue (List Nat) :=
  match o.stage 7, o.d with
  | some st, some d =>
    let w := st.word
    if f w 9 8 = 0 then .ok (List.replicate d.ng (f w 15 10))
    else if f w 9 8 = 1 then do
      let b ← readStruct rd (f w 63 24) d.ng
      failIf (if b.all fun x => decide (x.toNat < 64) then none else some 0x01)
      .ok (b.map (·.toNat))
    else if f w 9 8 = 2 then do
      let b ← readStruct rd (f w 63 24) 16
      failIf (adaptErr b)
      .ok (b.map (·.toNat))
    else .ok []
  | _, _ => .ok []

/-- Pod groups of an operation (05 R145). -/
def podGroups (s : State) (m : Mapping) : Nat := max (activePods s / 2 ^ m.split) 1

/-- The mapping record of an operation for the present number of active pods; the last named stands for fewer (05 R145, 02
R47). -/
def mapFor (s : State) (maps : List Nat) : Nat := maps.getD (96 - activePods s) (maps.getLastD 0)

/-- Pods that an operation's rotation turns by: half the groups in a critical head's second run, a quarter in its third
(08 R276, R278). -/
def rotationOf (G pass : Nat) : Nat := if pass = 1 then G / 2 else if pass = 2 then G / 4 else 0

/-- How the operation lies over the pods now active. -/
def Op.lay (s : State) (op : Op) : Lay :=
  let m := decMap op.map
  let lead := match op.cross with | some c => c.lead % 2 ^ m.split | none => 0
  ⟨m, podGroups s m, rotationOf (podGroups s m) op.pass, (decOp op.block).ptr, lead, op.fromRow⟩

/-- A band of a stream as it lies in its spool, for an operation of its schedule (06 R219). -/
def spooledBand (s : State) (n band opIdx : Nat) : Option Spooled :=
  (streamGet s n).spooled.find? fun b => b.band == band && opIdx != 0xFFFF

/-- The reader of an operation's structures and inputs: where its band was spooled, what was spooled stands in place of the
live addresses it was read from (06 R219, 02 R45). -/
def bandReader (s : State) (n wid band opIdx : Nat) : Reader :=
  match spooledBand s n band opIdx with
  | some b => spooledReader (streamReader s n wid) b.pieces
  | none => streamReader s n wid

/-- What the schedule says of an operation besides its block and mappings. -/
structure Place where
  band : Nat
  opIdx : Nat
  pass : Nat
  head : Option Nat
  cross : Option CrossOp
  waits : List (Bool × Nat × Nat)

/-- An operation issued through a ring. -/
def Place.ring : Place := ⟨0, 0xFFFF, 0, none, none, []⟩

/-- The issue of an operation of stream n (work `wid`). R18 and R111 give no order between an empty extent and the errors of
R297: the model reports the errors of the structures first, then the extents, and of an operation whose extent is not empty the
register region, the overlap and the footprint (DESIGN CHOICE, log entry 98). -/
def issueOp (s : State) (n wid : Nat) (p : Place) (opA : Nat) (maps : List Nat) : Issue :=
  let rd := bandReader s n wid p.band p.opIdx
  let kept := match spooledBand s n p.band p.opIdx with | some b => b.bounds | none => []
  let mapA := mapFor s maps
  let go : Except Issue Op := do
    failIf (firstErr [(0x03, over40 opA || over40 mapA), (0x02, decide (opA % 64 ≠ 0 ∨ mapA % 32 ≠ 0))])
    let b ← readStruct rd opA 320
    let mb ← readStruct rd mapA 32
    failIf (opErr b)
    let o := decOp b
    failIf (if mapOk mb o then none else some 0x01)
    let m := decMap mb
    let rt ← readBound s rd kept o
    let ptrs ← readList rd o (match rt with | some r => r.count | none => 0)
    failIf (ptrs.findSome? (entryErr o))
    failIf (if ptrs.any (entryBad o) then some 0x09 else none)
    let probs := problemsOf o ptrs rt
    failIf (if probs.any zrcBad then some 0x01 else none)
    checkExtents o ptrs rt probs
    checkRanges o m probs
    let scale ← readScale rd o
    let lut ← readLut rd o
    let exps ← readExps rd o
    .ok { block := b, map := mb, scale := scale, stand := readStanding s o, lut := lut, exps := exps, ptrs := ptrs, rt := rt,
          band := p.band, opIdx := p.opIdx, pass := p.pass, maps := maps, head := p.head, cross := p.cross, kept := [],
          reissue := [], fetched := [], refetched := 0, last := false, counts := [], adapt := none, waits := p.waits,
          satLogged := false, asked := false, stopped := [], fromRow := 0 }
  match go with
  | .ok op => .ready op
  | .error i => i

/-! ### Reader references (10 R334) -/

/-- The pool buffers of one pool that byte ranges touch. -/
def buffersIn (w : Window) (size : Nat) (ranges : List (Nat × Nat)) : List Nat :=
  let count := min (w.len * 65536 / size) 4096
  (List.range count).filter fun i => ranges.any fun r => meet r.1 r.2 (w.base + i * size) size

/-- Take one reference for a holder on every held buffer that the ranges touch. -/
def takeRefs (s : State) (holder : Nat) (ranges : List (Nat × Nat)) : State :=
  (List.range 8).foldl (fun s p =>
    let c := regGet s (0x4003000 + p * 0x20)
    let size := f c 15 0 * 65536
    match tget s.wins (f c 23 16) with
    | some w =>
      if size = 0 ∨ w.kind ≠ 6 ∨ w.state ≠ 2 then s else
      let x := poolGet s p
      let l := (buffersIn w size ranges).filter fun b => x.held.contains b && !x.refs.contains (b, holder)
      if l.isEmpty then s else
      { s with pools := tset s.pools p { x with refs := x.refs ++ l.map fun b => (b, holder) } }
    | none => s) s

/-- The ranges of every problem of an issued operation. -/
def Op.ranges (op : Op) : List (Nat × Nat) :=
  (problemsOf (decOp op.block) op.ptrs op.rt).flatMap OpBlk.ranges

end Sys2Proof.Machine
end

