-- ==== Sys2Proof/Machine/ArrayOps.lean ====
section
/-! DEFINITION. Array operations: the ARRAY_OP descriptor (09 R293), the twelve operations of 04 R108, tile and
operation completion (05 R161, R166, 06 R199), prefetch (06 R202, R203), band counters (06 R198, R200), preemption
(06 R196) and the combination of partials (08 R264). -/
namespace Sys2Proof.Machine

/-! ### ARRAY_OP -/

/-- The phase of a work changed. -/
def setPhase (s : State) (wid : Nat) (ph : Phase) : State :=
  match workGet s wid with
  | some w => workPut s wid { w with phase := ph }
  | none => s

/-- A ring-issued work meets a fault: its stream stops, and the record and the completion follow. -/
def faultWork (s : State) (wid n : Nat) (fi : FaultInfo) : State :=
  raiseFault (setPhase s wid .waiting) n { fi with wid := some wid }

/-- The outcome of an issue for a ring-issued work. -/
def applyIssue (s : State) (wid : Nat) (w : Work) (i : Issue) : State :=
  match i with
  | .err c => completeErr s wid c
  | .denied m => completeErr (noteStop s w.stream m) wid 0x08
  | .bad e =>
    let r := stopFault s w.stream e 0xFFFF 0xFFFFFFFF false
    faultWork r.1 wid w.stream r.2
  | .empty => complete (bump s 0x1001030) wid 1 0
  | .bound => complete s wid 2 0
  | .ready op => takeRefs (workPut s wid { w with phase := .running, op := some op }) wid op.ranges

/-- ARRAY_OP: 09 R293, 02 R48. -/
def execArrayOp (wid : Nat) (s : State) : Host.Outcome State Fault Refusal :=
  match workGet s wid with
  | some w =>
    if leAt w.desc 0 1 ≠ 0x01 ∨ w.pair.isNone ∨ (w.phase ≠ .fetched ∧ w.phase ≠ .heldOff) then .next s
    else if w.cancelled then .next (complete s wid 3 0)
    else if s.pods.below then .next (complete s wid 4 0xFF0C)
    else
      let x := streamGet s w.stream
      match x.state with
      | .running => .next (applyIssue s wid w
          (issueOp s w.stream wid Place.ring (leAt w.desc 8 8) [leAt w.desc 16 8]))
      | .shed => .next (setPhase s wid .heldOff)
      | .halted => .next (setPhase s wid .heldOff)
      | _ => .next (complete s wid 6 x.state.code)
  | none => .next s

/-! ### Tiles, cursors and band counters (05 R145, R161, 06 R198 to R200) -/

/-- Address of the partition of a number where the stream owns it. -/
def partBase (s : State) (part stream : Nat) : Option Nat :=
  match tget s.parts part with
  | some p => if p.stream = stream then some (0x4000000000 + p.half * 0x2000000 + p.base * 131072) else none
  | none => none

/-- Write the header of a partition: only the device does (05 R161). -/
def headerPut (s : State) (part stream offset : Nat) (b : List Byte) : State :=
  match partBase s part stream with
  | some a => storeBytes s (a + offset) b
  | none => s

/-- The tiles of an operation that a logical index computes: those of the group its own group serves (R145, 08 R276). -/
def tilesOf (s : State) (op : Op) (lidx : Nat) : List Tile :=
  let lay := op.lay s
  let g := lidx / 2 ^ lay.m.split
  if lay.G ≤ g then [] else
  (allTiles (problemsOf (decOp op.block) op.ptrs op.rt) lay.ptr lay.m lay.G).filter fun t => lay.computes t.group == g

/-- A work cursor: next tile and kept tiles (05 R161). -/
def cursorBytes (op : Op) (lidx : Nat) (tiles : List Tile) : List Byte :=
  let mine := (op.kept.filter fun k => k.1 == lidx).map (·.2)
  let next := match tiles.find? fun t => !mine.contains t.num with
    | some t => t.num
    | none => maxN (tiles.map fun t => t.num + 1)
  leBytes 4 next ++ leBytes 4 mine.length

/-- The work cursor of a logical index written (05 R161). -/
def putCursor (s : State) (op : Op) (stream lidx : Nat) (tiles : List Tile) : State :=
  headerPut s (decMap op.map).part stream (0x300 + lidx * 8) (cursorBytes op lidx tiles)

/-- The work cursors of every logical index, as an operation starts (05 R161). -/
def putCursors (s : State) (op : Op) (stream : Nat) (tiles : List (List Tile)) : State :=
  headerPut s (decMap op.map).part stream 0x300 (tiles.zipIdx.flatMap fun t => cursorBytes op t.2 t.1)

/-- The band counter of a logical index (06 R198). -/
def putCounter (s : State) (part stream lidx band op rows : Nat) : State :=
  headerPut s part stream (lidx * 8) (leBytes 4 band ++ leBytes 2 op ++ leBytes 2 rows)

/-- 06 R198: counter x = (band, op, rows) is after y. -/
def counterAfter (x y : Nat × Nat × Nat) : Bool :=
  if x.1 = y.1 then decide (y.2.1 < x.2.1 ∨ (y.2.1 = x.2.1 ∧ y.2.2 < x.2.2)) else serialGe 32 x.1 y.1

/-- The band counter of a logical index as it stands in a partition's header. -/
def counterAt (s : State) (part stream lidx : Nat) : Nat × Nat × Nat :=
  match partBase s part stream with
  | some a =>
    let b := memGetN s.mem (a + lidx * 8) 8
    (leAt b 0 4, leAt b 4 2, leAt b 6 2)
  | none => (0, 0, 0)

/-- A counter advances; it never goes back (06 R198). -/
def advance (s : State) (part stream lidx : Nat) (x : Nat × Nat × Nat) : State :=
  if counterAfter x (counterAt s part stream lidx) then putCounter s part stream lidx x.1 x.2.1 x.2.2 else s

/-- The counter that completing an operation of a schedule gives a logical index (06 R199). -/
def Op.doneAt (op : Op) : Nat × Nat × Nat :=
  if op.last then ((op.band + 1) % 2 ^ 32, 0, 0) else (op.band, op.opIdx + 1, 0)

/-- Every tile of a logical index has a kept completion. -/
def allKept (s : State) (op : Op) (lidx : Nat) : Bool :=
  (tilesOf s op lidx).all fun t => op.kept.contains (lidx, t.num)

/-- A logical index with every tile kept advances its counter, for an operation of a schedule. -/
def publish (s : State) (w : Work) (op : Op) (lidx : Nat) : State :=
  if w.pair.isNone && allKept s op lidx then advance s (decMap op.map).part w.stream lidx op.doneAt else s

/-- An operation starts: every work cursor shows it, and the logical indices that own nothing complete it at once (05 R145,
R146, R161). -/
def startTiles (s : State) (wid : Nat) : State :=
  match workGet s wid with
  | some w => match w.op with
    | some op =>
      let tiles := (List.range 96).map (tilesOf s op)
      tiles.zipIdx.foldl (fun s t => if t.1.isEmpty then publish s w op t.2 else s) (putCursors s op w.stream tiles)
    | none => s
  | none => s

/-! ### The operations -/

/-- The reader of an operation: what was fetched ahead for it, then what its band's spool holds, then memory. -/
def Op.reader (s : State) (n wid : Nat) (op : Op) : Reader :=
  fetchedReader (bandReader s n wid op.band op.opIdx) op.fetched

/-- The environment of an issued operation. A SCALE stage without a named table takes the standing entry of the output
channel; for a channel of 4,096 or above the array has no entry (03 R86, 04 R132), and the value is free (DESIGN CHOICE,
log entry 83). -/
def Op.env (s : State) (n wid : Nat) (op : Op) : Env :=
  let o := decOp op.block
  let m := decMap op.map
  { rd := op.reader s n wid, split := 2 ^ m.split, exact := (streamGet s n).cost.mode == 1,
    scale := fun lidx ch => match op.scale with
      | some l => l.getD ch 0
      | none => if 4096 ≤ ch then (Config.freeScale ch).toNat else (tget op.stand (lidx * 4096 + ch)).getD 0,
    lut := op.lut,
    exps := if o.quantMode = some 2 then [] else op.exps.map fun e => sx 6 e, cross := op.cross, blocks := none }

/-- The output record of most channels among the problems: an adaptation record numbers its groups and channels by it (log
entry 81). -/
def widest (ds : List Tensor) : Option Tensor :=
  ds.foldl (fun r d => match r with
    | some e => if e.c < d.c then some d else r
    | none => some d) none

/-- The operation with the standing scale entries that the end of its first band brings into force (00 R20, 03 R87). -/
def Op.later (s : State) (n : Nat) (op : Op) : Op :=
  { op with stand := readStanding (applyShadow s (opRegs n)) (decOp op.block) }

/-- What an operation writes and counts under an environment, its bands after the first under a second one, or where it
stops. -/
def Op.outputs (s : State) (env later : Env) (ring : Bool) (op : Op) : Except OpFault RunOut :=
  let o := decOp op.block
  let lay := op.lay s
  let probs := problemsOf o op.ptrs op.rt
  match widest (outsOf probs) with
  | none => .ok ⟨[], Tally.zero 0, none, 0, 0⟩
  | some d =>
    let start : Except OpFault (Option AdaptRec) :=
      if o.quantMode = some 2 then
        match readAdapt env.rd (decAdapt (op.exps.map (BitVec.ofNat 8))) d with
        | .ok r => .ok (some r)
        | .error e => .error ⟨e, none⟩
      else .ok none
    match start with
    | .error e => .error e
    | .ok a => runBands env later probs d lay (allTiles probs o.ptr lay.m lay.G)
        ⟨[], Tally.zero d.c, a, 0, 0⟩ (bandPieces probs lay.m ring)

/-- What the compute of an operation gives: its outputs, or, where its partials pass through blocks, the blocks of this
device's partials with the saturations met (08 R261, R263). -/
inductive Computed where
  | done (r : RunOut)
  | partials (w : List (Nat × Nat × List Byte)) (ovf : Nat)
deriving DecidableEq, Repr

/-- What it writes. -/
def Computed.writes : Computed → List (Nat × Nat × List Byte)
  | .done r => r.writes
  | .partials w _ => w

/-- What an operation writes and counts, or where it stops. -/
def Op.run (s : State) (n wid : Nat) (ring : Bool) (op : Op) : Except OpFault Computed :=
  let env := op.env s n wid
  match op.cross with
  | some c =>
    let o := decOp op.block
    let lay := op.lay s
    let probs := problemsOf o op.ptrs op.rt
    match runBlocks env probs c.own (allTiles probs o.ptr lay.m lay.G) with
    | .error e => .error e
    | .ok r => .ok (.partials r.1 r.2)
  | none => match op.outputs s env ((op.later s n).env s n wid) ring with
    | .error e => .error e
    | .ok r => .ok (.done r)

/-- Every write in order, each checked; the first that stops, with its tile and what was written before it. -/
def applyWrites (s : State) (n wid : Nat) : List (Nat × Nat × List Byte) → Except (State × OpFault) State
  | [] => .ok s
  | (t, a, b) :: ws =>
    match devWrite s (writeBy n wid) (movedAddr (streamGet s n) a) b with
    | .error e => .error (s, ⟨.mem e, some t⟩)
    | .ok s => applyWrites s n wid ws

/-- The operation as its keeping will count it (03 R88, R92). -/
def Op.withRun (op : Op) (r : RunOut) (fallbacks : Nat) : Op :=
  let t := r.tally
  { op with counts := [t.clipped, t.escapes, t.full, t.ovf + op.counts.getD 3 0, r.raises, r.falls, fallbacks],
            adapt := r.adapt.map fun a => (a.par.state, a.bytes), satLogged := op.satLogged || t.sat }

/-- A work that has been issued and has not completed. -/
def Work.open (w : Work) : Bool :=
  w.op.isSome && (w.phase == .running || w.phase == .yielded || w.phase == .partials || w.phase == .computed ||
    w.phase == .parked)

/-- The work holds the array: it computes, or the completions of its tiles are still to come (02 R27). -/
def Work.holds (w : Work) : Bool := w.op.isSome && (w.phase == .partials || w.phase == .computed)

/-- Address of the adaptation state record that an operation decides, if it does (03 R89). -/
def Op.adaptsAt (op : Op) : Option Nat :=
  if (decOp op.block).quantMode = some 2 then some (decAdapt (op.exps.map (BitVec.ofNat 8))).state else none

/-- Byte ranges of the records that the operation reads and writes, by class 0 read or 1 write. -/
def Op.traffic (op : Op) (cls : Nat) : List (Nat × Nat) :=
  let r := fun (t : Option Tensor) (no : Bool) => match t with | some t => t.ranges no | none => []
  (problemsOf (decOp op.block) op.ptrs op.rt).flatMap fun o =>
    if cls = 0 then r o.a false ++ r o.b false ++ r o.x false else r o.d (o.opcode == 0x0C)

/-- What a member of a pod group reads for a tile of the operation. -/
def Op.tileItems (s : State) (op : Op) (member : Nat) (t : Tile) : List ReadItem :=
  let lay := op.lay s
  match (problemsOf (decOp op.block) op.ptrs op.rt)[t.prob]? with
  | some o => tileReads o (2 ^ lay.m.split) op.cross member lay.lead t
  | none => []

/-- Everything that the operation reads of its inputs (04 R113). -/
def Op.items (s : State) (op : Op) : List ReadItem :=
  let lay := op.lay s
  (allTiles (problemsOf (decOp op.block) op.ptrs op.rt) lay.ptr lay.m lay.G).flatMap fun t =>
    (List.range (2 ^ lay.m.split)).flatMap fun j => op.tileItems s j t

/-- Byte ranges of what the operation reads. -/
def Op.reads (s : State) (op : Op) : List (Nat × Nat) := mergeRanges ((op.items s).map fun r => (r.1, r.2.1))

/-- Byte ranges of row y of an output. -/
def rowRanges (d : Tensor) (noCode : Bool) (y : Nat) : List (Nat × Nat) :=
  (if noCode then [] else (List.range (if d.chw then d.c else 1)).map fun ch =>
    (d.base + ch * d.planePitch + d.rowIdx y * d.pitch, if d.comp then compRow d.rowBytes else d.rowBytes)) ++
  (if d.fmt.wide then [] else [(d.expAddr y 0, d.nb * 64)] ++
    (if d.fmt.side then [(d.side + d.groupIdx y 0 0 * d.sideSize, d.rw * d.ngR * d.sideSize)] else []) ++
    (if d.fmt.sums then [(d.sums + d.groupIdx y 0 0 * 4, d.rw * d.ngR * 4)] else []))

/-- Rows of an operation's output, from its first, that must be produced before some ranges can be used; 0 where they hold none
of them. -/
def rowsNeeded (p : Op) (use : List (Nat × Nat)) : Nat :=
  maxN ((problemsOf (decOp p.block) p.ptrs p.rt).map fun o => match o.d with
    | some d => maxN ((List.range d.h).map fun y =>
        if (rowRanges d (o.opcode == 0x0C) y).any fun r => use.any fun u => meet r.1 r.2 u.1 u.2 then y + 1 else 0)
    | none => 0)

/-- The band counter of every logical index in use is at or after (band, op, rows) (06 R200). -/
def countersAt (s : State) (part n : Nat) (x : Nat × Nat × Nat) : Bool :=
  (List.range (activePods s)).all fun l => !counterAfter x (counterAt s part n l)

/-- An operation's tiles wait for what an earlier operation of its stream's schedule produces: until the rows that it reads or
writes again are published (06 R200), and until the earlier one has read what it writes. -/
def waitsOn (s : State) (n : Nat) (v : Work) (p op : Op) : Bool :=
  let out := op.traffic 1
  let rows := rowsNeeded p (op.reads s ++ out)
  v.open && ((p.reads s).any (fun r => out.any fun u => meet r.1 r.2 u.1 u.2) ||
    (rows != 0 && !(v.holds || v.phase == .parked) ||
      (rows != 0 && !countersAt s (decMap p.map).part n (p.band, p.opIdx, rows))))

/-- Work `wid` waits: for an earlier operation of the same schedule (06 R200), for the band counters that the schedule names, or
for the decision of an adaptation record that it reads (03 R91, R93). Operations of one band that name one record, such as the
two runs of a critical head, do not wait for each other: each decides from the state before the band, and gives the same
decision; which record the second run names is not stated (DESIGN CHOICE, log entry 99). -/
def waitsFor (s : State) (wid : Nat) (w : Work) : Bool :=
  match w.op with
  | none => false
  | some op =>
    (op.waits.any fun q =>
      !countersAt s (decMap op.map).part w.stream ((op.band + b2n q.1) % 2 ^ 32, q.2.1, q.2.2)) ||
    s.works.any fun e => decide (e.1 < wid) && e.2.stream == w.stream && (match e.2.op with
    | none => false
    | some p =>
      let sched := e.2.pair.isNone && w.pair.isNone
      (sched && waitsOn s w.stream e.2 p op) ||
        (op.adaptsAt.isSome && p.adaptsAt == op.adaptsAt && !(sched && p.band == op.band)))

/-- The operation's LPDDR accesses wait for a later window (06 R208). -/
def ddrBlocked (s : State) (n : Nat) (op : Op) : Bool :=
  ddrPending s n || [0, 1].any fun cls => (op.traffic cls).any fun r =>
    clockWaits s r.1 r.2 || (!op.asked && ddrWaits s n cls r.1)

/-- The stream of a work lets its operations run. -/
def streamGoes (s : State) (w : Work) : Bool :=
  let x := streamGet s w.stream
  w.op.isSome && !w.cancelled && x.active && x.faulting.isNone && !x.wants.isSome && x.spilled.isEmpty

/-- PWR.STATE.state. -/
def setMode (s : State) (m : Nat) : State :=
  regSetF { s with power := { s.power with mode := m } } 0xD000000 31 30 m

/-- The array has worked: a device in Idle is Active again (14 R452). -/
def arrayWorked (s : State) : State :=
  let s := { s with power := { s.power with lastArray := s.elapsed } }
  if s.power.mode = 1 then setMode s 0 else s

/-- The thermal level (PWR.TEMP). -/
def thermLevel (s : State) : Nat := f (regGet s 0xD00003C) 26 24

/-- Deferrable work may not hold the array now: above p_max and from thermal level 1 on it has the first 500 µs of each 1 ms (14
R449, R450; which 500 µs, log entry 113). -/
def deferLimited (s : State) : Bool :=
  (s.power.limiter || decide (1 ≤ thermLevel s)) && decide (500000 ≤ s.elapsed % 1000000)

/-- An issued work could compute now but for the array being in use. -/
def opReady (s : State) (wid : Nat) (w : Work) : Bool :=
  (w.phase == .running || w.phase == .yielded) && streamGoes s w && !waitsFor s wid w &&
    !((streamGet s w.stream).cls == .deferrable && deferLimited s) &&
    (match w.op with | some op => !ddrBlocked s w.stream op | none => false)

/-- A work could take the array: to compute, or, preempted, to go on (06 R196). -/
def wantsArray (s : State) (wid : Nat) (w : Work) : Bool :=
  opReady s wid w || (w.phase == .parked && streamGoes s w)

/-- Preemption rank (09 R305): line-locked before deferrable, then the stream's priority. -/
def outranks (s : State) (m n : Nat) : Bool :=
  let prio := fun (n : Nat) => f (regGet s (0x4004 + n * 0x40)) 19 16
  (streamGet s n).cls == .deferrable &&
    ((streamGet s m).cls == .lineLocked || decide (prio n < prio m))

/-- An operation of a higher rank than one of stream n is ready (06 R196, 09 R305). -/
def higherReady (s : State) (n : Nat) : Bool := s.works.any fun e => outranks s e.2.stream n && wantsArray s e.1 e.2

/-- A line-locked request to LPDDR that could be served now is waiting (06 R209). -/
def ddrLineWaiting (s : State) : Bool := s.works.any fun e =>
  (streamGet s e.2.stream).cls == .lineLocked && opReady s e.1 e.2 && (match e.2.op with
    | some op => [0, 1].any fun cls => (op.traffic cls).any fun r => region r.1 == .lpddr
    | none => false)

/-- A deferrable request is not served (06 R209). -/
def ddrHeldBack (s : State) (n : Nat) : Bool := (streamGet s n).cls == .deferrable && ddrLineWaiting s

/-- Due time of the band that a work belongs to: its first line's plus the latency bound (09 R305, 06 R220). -/
def bandDue (s : State) (w : Work) : Nat :=
  let x := streamGet s w.stream
  (match w.op with | some op => (bandTime s w.stream op.band).getD s.time | none => s.time) +
    latencyBound x.cost x.maxRate x.reserve * 1000

/-- Work a is served before work b (09 R305): line-locked work by its due time and then its stream, deferrable work by its
priority and then its issue. -/
def servedFirst (s : State) (a b : Nat × Work) : Bool :=
  let x := streamGet s a.2.stream
  let y := streamGet s b.2.stream
  let prio := fun (n : Nat) => f (regGet s (0x4004 + n * 0x40)) 19 16
  if x.cls = .lineLocked then
    y.cls == .deferrable || decide (bandDue s a.2 < bandDue s b.2 ∨ (bandDue s a.2 = bandDue s b.2 ∧
      (a.2.stream < b.2.stream ∨ (a.2.stream = b.2.stream ∧ a.1 < b.1))))
  else y.cls == .deferrable && decide (prio b.2.stream < prio a.2.stream ∨
    (prio a.2.stream = prio b.2.stream ∧ a.1 < b.1))

/-- Work `wid` may take the array: it is ready, no operation holds the array (02 R27), and no ready work is served before it
(09 R305). -/
def mayCompute (s : State) (wid : Nat) (w : Work) : Bool :=
  opReady s wid w && !(s.works.any fun e => e.1 != wid && e.2.holds) &&
    !(s.works.any fun e => e.1 != wid && wantsArray s e.1 e.2 && servedFirst s e (wid, w))

/-- Where an operation stopped: the fault counters, and the fault of its stream (06 R210). -/
def failOp (s : State) (wid : Nat) (w : Work) (op : Op) (f : OpFault) : State :=
  let r := stopFault s w.stream f.stop (if w.pair.isSome then 0xFFFF else op.opIdx) (f.tile.getD 0xFFFFFFFF)
    (decOp op.block).ptr
  if w.pair.isSome then faultWork r.1 wid w.stream r.2 else raiseFault r.1 w.stream r.2

/-- 03 R79: an operation with a saturated element is logged once. -/
def logSat (s : State) (w : Work) (op : Op) (sat : Bool) : State :=
  if sat && !op.satLogged then logAdd s 0x0217 1 1 (w.stream + 2 ^ 16 * (if w.pair.isSome then 0xFFFF else op.opIdx)) else s

/-- The LPDDR accesses of an operation are requested (06 R208): every block of its inputs that was not fetched ahead, once (05
R180), and every block that it writes. -/
def chargeOp (s : State) (n : Nat) (op : Op) (ws : List (Nat × Nat × List Byte)) : State :=
  let had := op.fetched.flatMap fun g => match g.seg with
    | some _ => [(g.unit, 4672)]
    | none => g.pieces.map fun p => (p.1, p.2.length)
  let reads := cutRanges (op.reads s) had
  let writes := ws.map fun w => (w.2.1, w.2.2.length)
  ddrAsk (ddrAsk (ddrTouch s (reads ++ writes)) n 0 (lpddrBlocks reads)) n 1 (lpddrBlocks writes)

/-- The requests of an operation are made once. -/
def requestOp (s : State) (wid : Nat) (w : Work) (op : Op) (ws : List (Nat × Nat × List Byte)) : State :=
  if op.asked then s else workPut (chargeOp s w.stream op ws) wid { w with op := some { op with asked := true } }

/-- Combinations that an operation computes in direct form (04 R142). -/
def Op.fallbacks (s : State) (n wid : Nat) (op : Op) : Nat :=
  sumN ((problemsOf (decOp op.block) op.ptrs op.rt).map (winoFallbacks (op.reader s n wid) op.cross))

/-- The ends of bands inside an operation let held writes take effect (00 R20). -/
def passBands (s : State) (n : Nat) (ring : Bool) (op : Op) : State :=
  let probs := problemsOf (decOp op.block) op.ptrs op.rt
  if 1 < (bandPieces probs (decMap op.map) ring).length then applyShadow s (opRegs n) else s

/-- The outputs of an operation written, and the operation as its keeping will count it. -/
def landOutputs (s : State) (wid : Nat) (w : Work) (op : Op) (r : RunOut) : State :=
  let n := w.stream
  match applyWrites s n wid r.writes with
  | .error (t, f) => failOp t wid w op f
  | .ok t =>
    let fb := op.fallbacks s n wid
    startTiles (workPut (logSat (passBands t n w.pair.isSome op) w op r.tally.sat) wid
      { w with phase := .computed, op := some (op.withRun r fb) }) wid

/-- One operation, evaluated whole once it may take the array: the stop that ends it (of a read, before anything of it is
written, log entry 22), its outputs, or its partial blocks, once the LPDDR windows have served its requests (06 R208). -/
def computeOp (opcode wid : Nat) (e : MemErrs) (s : State) : State :=
  match workGet s wid with
  | none => s
  | some w =>
    match w.op with
    | none => s
    | some op =>
      if (decOp op.block).opcode ≠ opcode ∨ !mayCompute s wid w ∨ s.pods.below then s else
      let n := w.stream
      let s := applyErrs s n e
      match op.run s n wid w.pair.isSome with
      | .error f => failOp s wid w op f
      | .ok r =>
        let s := requestOp s wid w op r.writes
        if ddrPending s n then s else
        let op := { op with asked := true }
        arrayWorked <| match r with
        | .done r => landOutputs s wid w op r
        | .partials ws ovf =>
          match applyWrites s n wid ws with
          | .error (t, f) => failOp t wid w op f
          | .ok t =>
            let own := match op.cross with | some c => c.combiner | none => false
            let sat := decide (0 < ovf)
            let t := logSat t w op sat
            let op := { op with counts := [0, 0, 0, ovf, 0, 0, op.fallbacks s n wid], satLogged := op.satLogged || sat }
            if own then workPut t wid { w with phase := .partials, op := some op }
            else startTiles (workPut t wid { w with phase := .computed, op := some op }) wid

/-- The work is operation `op` of a stream's band, and waits for the other devices' blocks as their combiner. -/
def Work.combines (w : Work) (n band op : Nat) : Bool :=
  w.stream == n && w.phase == .partials && (match w.op with
    | some p => p.band == band && p.opIdx == op
    | none => false)

/-- PARTIAL_COMBINE: the combiner has every block of its operation's partials, its own and the other devices', in the mode
of the stream: it adds them, subtracts the correction sum, drains and writes (08 R261 to R264, R267). -/
def execPartialCombine (n band op : Nat) (e : MemErrs) (s : State) : Host.Outcome State Fault Refusal :=
  match s.works.find? fun k => k.2.combines n band op with
  | some (wid, w) => match w.op with
    | some op => match op.cross with
      | some c =>
        if w.cancelled ∨ !(streamGet s w.stream).active ∨ (streamGet s w.stream).faulting.isSome then .next s
        else
          let s := applyErrs s w.stream e
          let env := op.env s w.stream wid
          let get := match (decOp op.block).d with
            | some d => readBlocks env.rd d env.split env.exact (c.own :: c.others)
            | none => fun _ _ _ _ => .ok []
          let env := { env with blocks := some get }
          .next (match op.outputs s env env false with
            | .error f => failOp s wid w op f
            | .ok r => landOutputs s wid w op r)
      | none => .next s
    | none => .next s
  | none => .next s

/-- CONV: 04 R106, R110 to R116, 03 R58 to R84. -/
def execConv (wid : Nat) (e : MemErrs) (s : State) : Host.Outcome State Fault Refusal :=
  .next (computeOp 0x01 wid e s)

/-- CONV_DW: 04 R117 to R119, R518. -/
def execConvDw (wid : Nat) (e : MemErrs) (s : State) : Host.Outcome State Fault Refusal :=
  .next (computeOp 0x02 wid e s)

/-- MATMUL: 04 R115. -/
def execMatmul (wid : Nat) (e : MemErrs) (s : State) : Host.Outcome State Fault Refusal :=
  .next (computeOp 0x03 wid e s)

/-- WINO3: 04 R120 to R122. -/
def execWino3 (wid : Nat) (e : MemErrs) (s : State) : Host.Outcome State Fault Refusal :=
  .next (computeOp 0x04 wid e s)

/-- S2D: 04 R123, R124. -/
def execS2d (wid : Nat) (e : MemErrs) (s : State) : Host.Outcome State Fault Refusal :=
  .next (computeOp 0x05 wid e s)

/-- D2S: 04 R123, R124. -/
def execD2s (wid : Nat) (e : MemErrs) (s : State) : Host.Outcome State Fault Refusal :=
  .next (computeOp 0x06 wid e s)

/-- POOL: 04 R125. -/
def execPool (wid : Nat) (e : MemErrs) (s : State) : Host.Outcome State Fault Refusal :=
  .next (computeOp 0x07 wid e s)

/-- ARGMAX_C: 04 R126. -/
def execArgmaxC (wid : Nat) (e : MemErrs) (s : State) : Host.Outcome State Fault Refusal :=
  .next (computeOp 0x08 wid e s)

/-- ELTW: 04 R127. -/
def execEltw (wid : Nat) (e : MemErrs) (s : State) : Host.Outcome State Fault Refusal :=
  .next (computeOp 0x09 wid e s)

/-- CONVERT: 04 R128. -/
def execConvert (wid : Nat) (e : MemErrs) (s : State) : Host.Outcome State Fault Refusal :=
  .next (computeOp 0x0A wid e s)

/-- COPY: 04 R129. -/
def execCopy (wid : Nat) (e : MemErrs) (s : State) : Host.Outcome State Fault Refusal :=
  .next (computeOp 0x0B wid e s)

/-- MEASURE: 04 R130, 03 R94. -/
def execMeasure (wid : Nat) (e : MemErrs) (s : State) : Host.Outcome State Fault Refusal :=
  .next (computeOp 0x0C wid e s)

/-! ### Tiles and completion -/

/-- A parked operation whose turn has come holds the array again (06 R196, 09 R305). -/
def unpark (s : State) (wid : Nat) (w : Work) : Work :=
  if w.phase = .parked ∧ streamGoes s w ∧
      !(s.works.any fun e => e.1 != wid && (e.2.holds || (wantsArray s e.1 e.2 && servedFirst s e (wid, w)))) then
    { w with phase := .computed }
  else w

/-- A logical index that has kept a tile stands at a preemption point: in frame kind always, in line kind where the next tile
is of another band (06 R196). -/
def atPoint (op : Op) (tiles : List Tile) (kept : List Nat) (tile : Nat) : Bool :=
  (decMap op.map).frame || (match tiles.find? (·.num == tile), tiles.find? fun t => !kept.contains t.num with
    | some a, some b => a.band != b.band
    | _, _ => true)

/-- TILE_COMPLETION: the first completion of a tile is kept and every later one dropped and counted, also after its
operation has ended (05 R166, 06 R199). While work of a higher rank is ready, a pod of a deferrable operation goes on to its
next preemption point and completes nothing more (06 R196). -/
def execTileCompletion (wid lidx tile : Nat) (s : State) : Host.Outcome State Fault Refusal :=
  match workGet s wid with
  | some w =>
    match w.op with
    | some op =>
      let tiles := tilesOf s op lidx
      let w := unpark s wid w
      let yields := higherReady s w.stream
      let stopped := if yields then op.stopped else []
      if op.kept.contains (lidx, tile) then .next (bump s 0x1001034)
      else if w.phase ≠ .computed || !(tiles.any fun t => t.num == tile) || stopped.contains lidx then .next s
      else
        let kept := op.kept ++ [(lidx, tile)]
        let point := yields && atPoint op tiles ((kept.filter fun k => k.1 == lidx).map (·.2)) tile
        let op := { op with kept := kept, reissue := op.reissue.filter fun k => k != (lidx, tile),
                            stopped := if point then stopped ++ [lidx] else stopped }
        let s := workPut s wid { w with op := some op }
        .next (publish (putCursor s op w.stream lidx tiles) w op lidx)
    | none => .next s
  | none => .next (if s.endedOps.contains wid then bump s 0x1001034 else s)

/-- An operation's adaptation record put, where it decides one (03 R92). -/
def keepAdapt (s : State) (n wid : Nat) (op : Op) : Except MemStop State :=
  match op.adapt with
  | some (a, b) => devWrite s (writeBy n wid) a b
  | none => .ok s

/-- Add an operation's counts to the counters of 03 R97 and 04 R142. -/
def keepCounts (s : State) (op : Op) : State :=
  let k := fun i => op.counts.getD i 0
  let s := bump64 s 0x1001010 (k 0)
  let s := bumpBy s 0x1001018 (k 1)
  let s := bumpBy s 0x100101C (k 2)
  let s := bumpBy s 0x1001020 (k 3)
  let a := regGet s 0x1001028
  let s := regPut s 0x1001028 (min (f a 15 0 + k 4) 65535 + 65536 * min (f a 31 16 + k 5) 65535)
  bumpBy s 0x100102C (k 6)

/-- Every band counter of a partition. -/
def putCounters (s : State) (part stream band op : Nat) : State :=
  (List.range 96).foldl (fun s l => putCounter s part stream l band op 0) s

/-- Every tile of every logical index has a kept completion. -/
def opKept (s : State) (op : Op) : Bool := (List.range 96).all (allKept s op)

/-- OPERATION_COMPLETE, once every tile is kept: 06 R199, 09 R303; the completion of a ring-issued operation follows its
writes and is a band's end (03 R90, 00 R20), an operation of a schedule waits for its band to be kept. -/
def completeOp (wid : Nat) (s : State) : State :=
  match workGet s wid with
  | some w =>
    match w.op with
    | some op =>
      if (unpark s wid w).phase ≠ .computed || !opKept s op then s
      else
        let s := dropWorkBlocks s wid
        if w.pair.isSome then
          match keepAdapt s w.stream wid op with
          | .error m => failOp s wid w op ⟨.mem m, none⟩
          | .ok s => complete (applyShadow (keepCounts s op) (opRegs w.stream)) wid w.status w.detail
        else workPut s wid { w with phase := .waiting }
    | none => s
  | none => s

/-- BAND_COUNTER_WAKE: a logical index publishes output rows of the operation it computes; every tile of it that holds one
of those rows is kept (06 R199, R200). The counter never goes back; the pods that wait on it are woken by the write. -/
def execBandCounterWake (n lidx band op rows : Nat) (s : State) : Host.Outcome State Fault Refusal :=
  match s.works.find? fun e => e.2.stream == n && e.2.pair.isNone && e.2.phase == .computed && (match e.2.op with
      | some p => p.band == band && p.opIdx == op
      | none => false) with
  | some e => match e.2.op with
    | some p =>
      if (tilesOf s p lidx).all fun t => decide (rows ≤ t.y) || p.kept.contains (lidx, t.num) then
        .next (advance s (decMap p.map).part n lidx (band, op, rows))
      else .next s
    | none => .next s
  | none => .next s

/-! ### Prefetch -/

/-- The stream's prefetch depth (06 R202). -/
def prefetchDepth (s : State) (n : Nat) (line : Bool) : Nat :=
  let c := regGet s (0x4004 + n * 0x40)
  if line then (if f c 6 0 = 0 then 64 else f c 6 0) else (if f c 11 8 = 0 then 16 else f c 11 8)

/-- The rows and columns of a record A that a tile's window covers, as first row, rows, first column and columns. -/
def tileWindow (o : OpBlk) (a : Tensor) (t : Tile) : Nat × Nat × Nat × Nat :=
  let op := o.opcode
  let cut := fun (lo hi top : Nat) => (min lo top, min hi top - min lo top)
  let r := if op = 1 ∨ op = 2 ∨ op = 4 ∨ op = 7 then
      (cut (t.y * o.sy - o.pt) ((t.y + t.h - 1) * o.sy + (o.kh - 1) * o.dy + 1 - o.pt) a.h,
        cut (t.x * o.sx - o.pl) ((t.x + t.w - 1) * o.sx + (o.kw - 1) * o.dx + 1 - o.pl) a.w)
    else if op = 5 then
      (cut (t.y * (o.aux % 16)) ((t.y + t.h) * (o.aux % 16)) a.h, cut (t.x * (o.aux / 16)) ((t.x + t.w) * (o.aux / 16)) a.w)
    else if op = 6 then
      (cut (t.y / (o.aux % 16)) ((t.y + t.h - 1) / (o.aux % 16) + 1) a.h,
        cut (t.x / (o.aux / 16)) ((t.x + t.w - 1) / (o.aux / 16) + 1) a.w)
    else (cut t.y (t.y + t.h) a.h, cut t.x (t.x + t.w) a.w)
  (r.1.1, r.1.2, r.2.1, r.2.2)

/-- The tile that a logical index takes at a step of an operation, and its problem. -/
def stepTile (s : State) (op : Op) (lidx step : Nat) : Option (OpBlk × Tile) :=
  match (tilesOf s op lidx)[step]? with
  | some t => ((problemsOf (decOp op.block) op.ptrs op.rt)[t.prob]?).map fun o => (o, t)
  | none => none

/-- The step that a logical index is at: its tiles are kept in order. -/
def stepOf (op : Op) (lidx : Nat) : Nat := (op.kept.filter fun k => k.1 == lidx).length

/-- What a logical index reads at a step. -/
def stepItems (s : State) (op : Op) (lidx step : Nat) : List ReadItem :=
  match (tilesOf s op lidx)[step]? with
  | some t => op.tileItems s (lidx % 2 ^ (decMap op.map).split) t
  | none => []

/-- Weights that a layer streams from LPDDR: they are fetched once for the operation and not for each step (05 R180). -/
def streamedUnit (op : Op) (a n : Nat) : Bool :=
  (problemsOf (decOp op.block) op.ptrs op.rt).any fun o => match o.b with
    | some b => b.weights && region b.base == .lpddr && (b.ranges false).any fun r => meet r.1 r.2 a n
    | none => false

/-- Steps at which a unit is fetched for a logical index, when it is fetched at one of them. -/
def unitSteps (s : State) (op : Op) (lidx step a n : Nat) : List Nat :=
  if streamedUnit op a n then List.range (tilesOf s op lidx).length else [step]

/-- A logical index reads some of a range at a step. -/
def covers (s : State) (op : Op) (lidx step a n : Nat) : Bool :=
  (stepItems s op lidx step).any fun r => meet r.1 r.2.1 a n

/-- The multicast group of a unit at a step: the pods whose tile reads some of it and to which it has not been delivered for
that step (05 R152, R153). -/
def multicastGroup (s : State) (op : Op) (step a n : Nat) : List Nat :=
  let had := fun l => op.fetched.any fun g =>
    (g.step == step || streamedUnit op a n) && g.unit == a && g.members.contains l
  (List.range 96).filter fun l => !had l && (unitSteps s op l step a n).any fun k => covers s op l k a n

/-- The last input line that a logical index reads at a step, counted from 1; 0 for none. -/
def lastLine (s : State) (op : Op) (lidx step : Nat) : Nat :=
  match stepTile s op lidx step with
  | some (o, t) => match o.a with
    | some a => let w := tileWindow o a t; w.1 + w.2.1
    | none => 0
  | none => 0

/-- 06 R202: how far a step lies ahead of the pods: input lines in line kind, tile steps in frame kind. -/
def stepsAhead (s : State) (op : Op) (step : Nat) : Nat :=
  let pods := List.range 96
  if (decMap op.map).frame then step - maxN (pods.map (stepOf op))
  else maxN (pods.map fun l => lastLine s op l step) - maxN (pods.map fun l => lastLine s op l (stepOf op l))

/-- The unit of an address that the fetch engine takes: the slot of a zero-run segment, with its source bytes, or a block of
4 KiB. -/
def fetchUnit (op : Op) (addr : Nat) : Nat × Option Nat :=
  let recs := (problemsOf (decOp op.block) op.ptrs op.rt).flatMap fun o => [o.a, o.b, o.x].filterMap id
  match recs.find? fun t => t.comp && decide (t.base ≤ addr ∧ addr < t.base + t.span) with
  | some t =>
    let o := addr - t.base
    let k := o % t.pitch / 4672
    (t.base + o / t.pitch * t.pitch + k * 4672, some (min 4096 (t.rowBytes - 4096 * k)))
  | none => (addr / 4096 * 4096, none)

/-- Bytes of a unit. -/
def unitLen (u : Nat × Option Nat) : Nat := if u.2.isSome then 4672 else 4096

/-- The ranges of a unit that the members of its group read: nothing that no tap covers is fetched (04 R113). -/
def unitRanges (s : State) (op : Op) (step : Nat) (u : Nat × Option Nat) (members : List Nat) : List (Nat × Nat) :=
  let n := unitLen u
  match u.2 with
  | some _ => [(u.1, n)]
  | none =>
    let items := members.flatMap fun l => (unitSteps s op l step u.1 n).flatMap (stepItems s op l)
    mergeRanges ((items.filter fun r => meet r.1 r.2.1 u.1 n).map fun r =>
      let lo := max r.1 u.1
      (lo, min (r.1 + r.2.1) (u.1 + n) - lo))

/-- An earlier operation of the stream is still to write some of the ranges (06 R200). -/
def stillToCome (s : State) (n wid : Nat) (l : List (Nat × Nat)) : Bool :=
  s.works.any fun e => decide (e.1 < wid) && e.2.stream == n &&
    (e.2.phase == .running || e.2.phase == .yielded || e.2.phase == .partials) && (match e.2.op with
    | some p => (p.traffic 1).any fun r => l.any fun u => meet r.1 r.2 u.1 u.2
    | none => false)

/-- Memory that a stream's schedule or operations fill: camera and output rings, and the outputs of its works. -/
def filledRanges (s : State) (n : Nat) : List (Nat × Nat) :=
  (match (streamGet s n).sched with
   | some d =>
     (d.cams.flatMap fun c => [(c.pixBase, c.ringRows * c.rowPitch), (c.hdrBase, c.ringRows * 64),
       (c.expBase, c.ringRows * (ceilDiv (ceilDiv c.rowPitch (max c.groupSize 1)) 80 * 64))]) ++
     (d.chans.flatMap fun c => match decTensor c.out 0 false with
       | some t => (c.hdrBase, t.rows * 64) :: t.ranges false
       | none => [])
   | none => []) ++
  (s.works.filter fun e => e.2.stream == n).flatMap fun e => match e.2.op with
    | some op => op.traffic 1
    | none => []

/-- A staging slot may lie here: 4 KiB, aligned, in the stream's own partition past its header, clear of every other slot
and of what operations write (06 R203). -/
def slotOk (s : State) (n dst : Nat) : Bool :=
  let inPart := s.parts.any fun e =>
    let a := 0x4000000000 + e.2.half * 0x2000000 + e.2.base * 131072
    e.2.stream == n && decide (a + 4096 ≤ dst ∧ dst + 4096 ≤ a + e.2.len * 131072)
  decide (dst % 4096 = 0) && inPart && !(s.staging.any fun g => g.dst == dst) &&
    !((filledRanges s n).any fun r => meet r.1 r.2 dst 4096)

/-- The bytes of a unit's ranges as they enter the Leek: a segment is decompressed (04 R141). -/
def fetchUnitBytes (rd : Reader) (u : Nat × Option Nat) (l : List (Nat × Nat)) : Except OpStop (List (Nat × List Byte)) :=
  match u.2 with
  | some n => match readSegment rd u.1 n with
    | .ok b => .ok [(u.1, b)]
    | .error e => .error e
  | none => collect (fun r => match rdMem rd r.1 r.2 with
    | .ok b => .ok (r.1, b)
    | .error e => .error e) l

/-- PREFETCH_BLOCK: what the pods read of the block of an address, once for a step of an operation, for every pod whose tile
reads some of it, within the depth and into a staging slot (06 R202, R203, 05 R152), within the LPDDR allowance of a
line-locked stream and behind its requests (06 R208, R209). A block that is not granted or not present stops the prefetch and raises nothing (10 R327); a
block of unreadable data is left for the tile that needs it. -/
def execPrefetchBlock (n wid addr dst step : Nat) (e : MemErrs) (s : State) : Host.Outcome State Fault Refusal :=
  match workGet s wid with
  | none => .next s
  | some w => match w.op with
    | none => .next s
    | some op =>
      let x := streamGet s n
      let u := fetchUnit op addr
      let members := multicastGroup s op step u.1 (unitLen u)
      let l := unitRanges s op step u members
      if w.stream != n || !x.active || x.faulting.isSome || x.prefStop || w.cancelled || !w.open || members.isEmpty ||
          decide (prefetchDepth s n (!(decMap op.map).frame) < stepsAhead s op step) || !slotOk s n dst ||
          stillToCome s n wid l || ddrWaits s n 0 (movedAddr x u.1) || (ddrHeldBack s n && region (movedAddr x u.1) == .lpddr) then .next s
      else
        let s := applyErrs s n e
        match fetchUnitBytes (bandReader s n wid op.band op.opIdx) u l with
        | .error (.mem (.uncorrectable ..)) => .next s
        | .error (.mem _) => .next (streamPut s n { streamGet s n with prefStop := true })
        | .error _ => .next s
        | .ok b =>
          let at_ := l.map fun r => (movedAddr (streamGet s n) r.1, r.2)
          let s := ddrAsk (ddrTouch (b.foldl (fun s p => storeBytes s (dst + (p.1 - u.1)) p.2) s) at_) n 0 (lpddrBlocks at_)
          let s := consReturn (consIssue (consIssue s 5 1) 6 64) 6 64
          let again := op.fetched.any fun g => (g.step == step || streamedUnit op u.1 (unitLen u)) && g.unit == u.1
          let op := { op with fetched := op.fetched ++ [⟨step, u.1, u.2, members, b⟩], refetched := op.refetched + b2n again }
          .next { workPut s wid { w with op := some op } with
            staging := s.staging ++ [⟨n, wid, step, u.1, dst, members⟩] }

/-- The input buffers of a pod have room for a unit: it is for the tile that the pod is at, or for the next in the idle half
(06 R203); weights, whose buffer has one half (05 R151), for the present tile alone. A unit that the pod has no more use for it
accepts and drops. -/
def hasRoom (s : State) (op : Op) (g : Staging) (member : Nat) : Bool :=
  let n := match op.fetched.find? fun e => e.unit == g.src && e.seg.isSome with | some _ => 4672 | none => 4096
  let cur := stepOf op member
  let weights := (problemsOf (decOp op.block) op.ptrs op.rt).any fun o => match o.b with
    | some b => b.weights && (b.ranges false).any fun r => meet r.1 r.2 g.src n
    | none => false
  covers s op member cur g.src n || (!weights && decide (g.step ≤ cur + 1)) ||
    !((List.range (tilesOf s op member).length).any fun k => decide (cur ≤ k) && covers s op member k g.src n)

/-- MULTICAST_SLOT_RELEASE: a member of a block's group accepts it, once it has been read and the member's input buffer has room
for it; the last one returns the slot (05 R152, 06 R203). -/
def execMulticastSlotRelease (dst member : Nat) (s : State) : Host.Outcome State Fault Refusal :=
  match s.staging.find? fun g => g.dst == dst with
  | none => .next s
  | some g =>
    let room := match (workGet s g.wid).bind fun w => w.op with
      | some op => hasRoom s op g member
      | none => true
    if ddrPending s g.stream || !room then .next s else
    let left := g.members.filter (· != member)
    if left.isEmpty && !g.members.isEmpty then
      .next (consReturn { s with staging := s.staging.filter fun g => g.dst != dst } 5 1)
    else .next { s with staging := s.staging.map fun h => if h.dst = dst then { h with members := left } else h }

/-- PREEMPT: a deferrable operation yields the array while work of a higher rank is ready, once every pod that has tiles left
stands at its preemption point; its cursors and its prefetched blocks stay (06 R196, R205, 09 R305). -/
def execPreempt (wid : Nat) (s : State) : Host.Outcome State Fault Refusal :=
  match workGet s wid with
  | some w => match w.op with
    | some op =>
      if !higherReady s w.stream then .next s
      else if w.phase = .running then .next (setPhase s wid .yielded)
      else if w.phase = .computed ∧ !opKept s op ∧
          (List.range 96).all fun l => allKept s op l || op.stopped.contains l then .next (setPhase s wid .parked)
      else .next s
    | none => .next s
  | none => .next s

end Sys2Proof.Machine
end

