-- ==== Sys2Proof/Machine/Leek.lean ====
section
/-! DEFINITION. Leek space: partitions (05 R160 to R164), the spool pool and waits between deferrable streams
(06 R216 to R218, 10 R338), and the power-down of a half (10 R348). -/
namespace Sys2Proof.Machine

/-! ### Units of a half -/

/-- MGMT.BOOT_STATUS.state (13 R443). -/
def bootState (s : State) : Nat := f (regGet s 0x0) 31 28

/-- The compute partition is in partial reset. -/
def resetting (s : State) : Bool := bootState s == 4

/-- A unit of a half that no partition and no spool pool holds. -/
def unitFree (s : State) (h u : Nat) : Bool :=
  s.leekUp.getD h false && decide (u < 256 - spoolUnits s h) &&
    s.parts.all fun e => e.2.half != h || decide (u < e.2.base ∨ e.2.base + e.2.len ≤ u)

/-- Lengths of the free runs that start at each unit, from the top down: the list for units u to 255. -/
def runLengths (s : State) (h : Nat) : Nat → List Nat
  | 0 => []
  | n + 1 =>
    let rest := runLengths s h n
    (if unitFree s h (255 - n) then rest.headD 0 + 1 else 0) :: rest

/-- The longest free run of a half (LEEK.FREE). -/
def longestRun (s : State) (h : Nat) : Nat := maxN (runLengths s h 256)

/-- LEEK.FREE as admission and release leave it (R164). -/
def setLeekFree (s : State) : State := regPut s 0x2000100 (longestRun s 0 + 2 ^ 16 * longestRun s 1)

/-- The lowest-addressed free run of a length (R160). -/
def findRun (s : State) (h len : Nat) : Option Nat := (runLengths s h 256).findIdx? fun n => decide (len ≤ n)

/-- Units needed for a number of bytes. -/
def unitsFor (bytes : Nat) : Nat := ceilDiv bytes 131072

/-- The lowest-numbered free partition entry; the spool pool takes one (R160, 06 R216). -/
def freePart (s : State) : Option Nat := lowest 64 fun n => (tget s.parts n).isNone

/-- The lowest-indexed free window entry. -/
def freeWindow (s : State) : Option Nat := lowest 256 fun n => (tget s.wins n).isNone

/-- A locked window that the device makes (10 R321, R323). -/
def deviceWindow (base units kind owner : Nat) (fabric : Bool) : Window :=
  { base := base, len := units * 2, kind := kind, read := true, write := true, fabric := fabric, tracked := false,
    owner := owner, reader := 0, resFirst := 0, back := 0, auto := false, state := 2, lock := true, holder := owner }

/-- Allocate a partition and its window for a stream. -/
def allocPart (s : State) (n h bytes : Nat) (fabric : Bool) : State :=
  let len := unitsFor bytes
  match findRun s h len, freePart s, freeWindow s with
  | some base, some p, some w =>
    let x := deviceWindow (0x4000000000 + h * 0x2000000 + base * 131072) len 1 n fabric
    let s := { s with parts := tset s.parts p ⟨n, h, base, len⟩, wins := tset s.wins w x }
    consIssue (consIssue (consIssue s 3 1) 4 len) 2 1
  | _, _, _ => s

/-- An entry that admission holds for a stream, with the fields of CTRL as last written (00 R13). -/
def heldEntry (v n : Nat) : Window :=
  { base := 0, len := 1, kind := f v 28 26, read := bitOf v 25, write := bitOf v 24, fabric := bitOf v 23,
    tracked := bitOf v 22, owner := n, reader := f v 14 8, resFirst := 0, back := 0, auto := false, state := 1, lock := false,
    holder := n }

/-- First register of window n, less 0x60_0000_0000. -/
def winBase (n : Nat) : Nat := 0x4000000 + n * 0x20

/-- Move one free window entry to held for a stream (10 R323). -/
def holdWindow (s : State) (n : Nat) : State :=
  match freeWindow s with
  | some w =>
    consIssue { s with wins := tset s.wins w (heldEntry (regGet s (winBase w + 0xC)) n) } 2 1
  | none => s

/-- Hold k entries. -/
def holdWindows : Nat → State → Nat → State
  | 0, s, _ => s
  | k + 1, s, n => holdWindows k (holdWindow s n) n

/-- Free every window entry that an owner holds or owns (10 R323). -/
def freeWindows (s : State) (n : Nat) : State :=
  let mine := s.wins.filter fun e => e.2.owner == n || e.2.holder == n
  consReturn { s with wins := s.wins.filter fun e => !(e.2.owner == n || e.2.holder == n) } 2 mine.length

/-- Return a stream's partitions. -/
def freeParts (s : State) (n : Nat) : State :=
  let mine := s.parts.filter fun e => e.2.stream == n
  let units := sumN (mine.map fun e => e.2.len)
  consReturn (consReturn { s with parts := s.parts.filter fun e => e.2.stream != n } 3 mine.length) 4 units

/-! ### The spool pool -/

/-- Buffers of the pool. -/
def poolSize (s : State) : Nat := 2 * (spoolUnits s 0 + spoolUnits s 1)

/-- Free buffers, lowest first. -/
def poolFreeBufs (s : State) : List Nat := (List.range (poolSize s)).filter fun i => (tget s.spool i).isNone

/-- Buffers that a stream holds. -/
def poolHeld (s : State) (n : Nat) : List Nat := (s.spool.filter fun e => e.2 == n).map (·.1)

/-- Give a stream k buffers. -/
def poolTake (s : State) (n k : Nat) : State :=
  let b := (poolFreeBufs s).take k
  consIssue { s with spool := b.foldl (fun t i => tset t i n) s.spool } 7 b.length

/-- Take back the first k buffers a stream holds. -/
def poolGive (s : State) (n k : Nat) : State :=
  let b := (poolHeld s n).take k
  consReturn { s with spool := b.foldl (fun t i => tdel t i) s.spool } 7 b.length

/-- Streams that wait and can now be served take their buffers, in the order of admission. -/
def serveWaits (s : State) : State :=
  (admittedIds s).foldl (fun s n =>
    let x := streamGet s n
    match x.wants with
    | some (k, _) =>
      if x.spilled.isEmpty ∧ k ≤ (poolFreeBufs s).length then
        poolTake (streamPut s n { x with wants := none }) n k
      else s
    | none => s) s

/-- SPOOL_BUFFER_REQUEST: 06 R216. -/
def execSpoolBufferRequest (n : Nat) (ask : SpoolAsk) (s : State) : Host.Outcome State Fault Refusal :=
  let x := streamGet s n
  if x.cls ≠ .deferrable ∨ x.state ≠ .running ∨ x.faulting.isSome then .next s else
  match ask with
  | .give k => .next (serveWaits (poolGive s n k))
  | .take k =>
    if poolSize s < k then .next (raiseFault s n (plainFault 0x07))
    else if x.wants.isSome ∨ !x.spilled.isEmpty then .next s
    else if k ≤ (poolFreeBufs s).length then .next (poolTake s n k)
    else .next (streamPut s n { x with wants := some (k, s.elapsed) })

/-- The overflow window a stream can spill to: valid, its own, and large enough for every buffer it holds (10 R338). -/
def spillWindow (s : State) (n : Nat) : Option Window :=
  match ownWindow s n 4 with
  | some (_, w) => if (poolHeld s n).length ≤ w.len then some w else none
  | none => none

/-- Copy 64 KiB for a stream, from and to places its windows grant (02 R29). -/
def spillCopy (s : State) (n src dst : Nat) : Except MemStop State :=
  match devRead s (readBy n 0) src 65536 with
  | .error m => .error m
  | .ok b => devWrite s (writeBy n 0) dst b

/-- Copy a list of (source, destination), stopping at the first stop. -/
def spillCopies (s : State) (n : Nat) : List (Nat × Nat) → Except MemStop State
  | [] => .ok s
  | (a, b) :: l => match spillCopy s n a b with
    | .error m => .error m
    | .ok s => spillCopies s n l

/-- Where a stream's buffers go in its overflow window: one to each 64 KiB. -/
def spillPlan (s : State) (n : Nat) (w : Window) : List (Nat × Nat) :=
  (poolHeld s n).zipIdx.map fun (b, i) => (b, w.base + i * 65536)

/-- Spill a stream's buffers to a window; a copy that stops leaves it as it was, but for what was written. -/
def spillStream (s : State) (n : Nat) (w : Window) : Except MemStop State :=
  let plan := spillPlan s n w
  match spillCopies s n (plan.map fun p => (spoolAddr s p.1, p.2)) with
  | .error m => .error m
  | .ok s => .ok (poolGive (streamPut s n { streamGet s n with spilled := plan }) n plan.length)

/-- Rank of a deferrable stream: its priority, a higher identifier lower (06 R217). -/
def rankBelow (s : State) (a b : Nat) : Bool :=
  let p := fun n => f (regGet s (0x4004 + n * 0x40)) 19 16
  decide (p a < p b) || (p a == p b && decide (b < a))

/-- The lowest-ranked of some streams. -/
def lowestRank (s : State) : List Nat → Option Nat
  | [] => none
  | n :: ns => match lowestRank s ns with
    | some m => some (if rankBelow s n m then n else m)
    | none => some n

/-- SPOOL_DEADLOCK_CHECK: 06 R217. The copies are deferrable requests, which wait for line-locked ones (R209); one that stops is a
fault of its own cause (06 R210, 10 R326). -/
def execSpoolDeadlockCheck (s : State) : Host.Outcome State Fault Refusal :=
  let wait := f (regGet s 0x3F00) 16 0 * 1000
  let late := s.streams.any fun e => match e.2.wants with
    | some (_, t) => e.2.cls == .deferrable && decide (wait < s.elapsed - t)
    | none => false
  let holders := (admittedIds s).filter fun n => !(poolHeld s n).isEmpty
  let stuck := holders.all fun n =>
    let x := streamGet s n
    x.wants.isSome || x.state == .halted || x.faulting.isSome
  if !late || !(poolFreeBufs s).isEmpty || !stuck then .next s else
  match lowestRank s holders with
  | none => .next s
  | some n =>
    match spillWindow s n with
    | some w =>
      if ddrLineWaiting s ∨ pairLost s then .next s else
      match spillStream s n w with
      | .ok s => .next (serveWaits (logAdd s 0x0407 0 1 n))
      | .error m => .next (raiseFault (noteStop s n m) n (memFault m 0xFFFF 0xFFFFFFFF false none))
    | none =>
      let s := raiseFault (logAdd s 0x0407 0 1 (n + 2 ^ 8)) n (plainFault 0x07)
      .next (serveWaits (poolGive (streamPut s n { streamGet s n with wants := none }) n (poolHeld s n).length))

/-- SPILL_RESTORE: once the buffers of all its spilled contents are free the stream takes them back, each content to the
buffer it came from, whose address its operations use (06 R218). -/
def execSpillRestore (n : Nat) (s : State) : Host.Outcome State Fault Refusal :=
  let x := streamGet s n
  if x.spilled.isEmpty ∨ ddrLineWaiting s ∨ pairLost s ∨ x.spilled.any fun p => !(poolFreeBufs s).contains p.1 then .next s else
  let t := consIssue { streamPut s n { x with spilled := [] } with
    spool := x.spilled.foldl (fun t p => tset t p.1 n) s.spool } 7 x.spilled.length
  match spillCopies t n (x.spilled.map fun p => (p.2, spoolAddr s p.1)) with
  | .ok t => .next t
  | .error m => .next (raiseFault (noteStop s n m) n (memFault m 0xFFFF 0xFFFFFFFF false none))

/-! ### MGMT.SPOOL_CFG and power (06 R216, 10 R348) -/

/-- A write of SPOOL_CFG that its rule allows: no deferrable stream admitted, and the units free. -/
def spoolCfgOk (s : State) (v : Nat) : Bool :=
  let no := { regPut s 0x3F04 0 with parts := s.parts.filter fun e => e.2.stream != 0 }
  let free := fun (h k : Nat) => (List.range k).all fun i => unitFree no h (255 - i)
  (s.streams.all fun e => e.2.state == .free || e.2.cls == .lineLocked) && free 0 (f v 7 0) && free 1 (f v 23 16)

/-- The windows and capacity that follow SPOOL_CFG (10 R321 kind 2): one locked window for each half with units. -/
def setSpoolCfg (s : State) (v : Nat) : State :=
  let gone := (s.wins.filter fun e => e.2.kind == 2 && e.2.lock).length
  let entry := (s.parts.filter fun e => e.2.stream == 0).length
  let oldU := spoolUnits s 0 + spoolUnits s 1
  let s := { s with wins := s.wins.filter fun e => !(e.2.kind == 2 && e.2.lock),
                    parts := s.parts.filter fun e => e.2.stream != 0, spool := [] }
  let s := consReturn (consReturn (consReturn s 2 gone) 3 entry) 4 oldU
  let s := consCap (regPut s 0x3F04 v) 7 (poolSize (regPut s 0x3F04 v))
  let u := fun (h : Nat) => spoolUnits s h
  let total := u 0 + u 1
  let s := match freePart s with
    | some p =>
      if total = 0 then s else
      let h := if u 0 = 0 then 1 else 0
      consIssue (consIssue { s with parts := tset s.parts p ⟨0, h, 256 - u h, u h⟩ } 3 1) 4 total
    | none => s
  [0, 1].foldl (fun s h =>
    match freeWindow s with
    | some w =>
      if spoolUnits s h = 0 then s else
      let base := 0x4000000000 + h * 0x2000000 + (256 - spoolUnits s h) * 131072
      consIssue { s with wins := tset s.wins w (deviceWindow base (spoolUnits s h) 2 0 false) } 2 1
    | none => s) s

/-- A half loses its contents, its poison marks and its power. -/
def leekOff (s : State) (h : Nat) : State :=
  { s with leekUp := modAt s.leekUp h fun _ => false,
           mem := memLose s.mem fun a => region a == .leek h,
           poison := s.poison.filter fun u => region u != .leek h }

/-- A half of LEEK.FREE. -/
def setHalfFree (s : State) (h n : Nat) : State := if h = 0 then regSetF s 0x2000100 8 0 n else regSetF s 0x2000100 24 16 n

/-- LEEK_HALF_POWER_DOWN: 10 R348. -/
def execLeekHalfPowerDown (h : Nat) (s : State) : Host.Outcome State Fault Refusal :=
  if s.parts.any fun e => e.2.half == h && e.2.stream != 0 then .next (logAdd s 0x0108 2 1 (h + 2 ^ 8))
  else if spoolUnits s h ≠ 0 then .next (logAdd s 0x0108 2 1 h)
  else if s.leekUp.getD h false then .next (setPower (setHalfFree (leekOff s h) h 0) (9 + h) false)
  else .next s

end Sys2Proof.Machine
end

