-- ==== Sys2Proof/Machine/Sha3.lean ====
section
/-! DEFINITION. SHA3-512, the digest that the manual names (05 R519, 15 R485): the published standard FIPS 202, which
the manual does not restate (PRESUMED, log entry 23). Lanes are numbers below 2^64; lane (x, y) has index x + 5y. -/
namespace Sys2Proof.Machine

/-- Rotate a lane left. -/
def rotl (x n : Nat) : Nat := (x <<< n ||| x >>> (64 - n)) % 2 ^ 64

/-- Rotation of each lane. -/
def rhoTable : List Nat :=
  [0, 1, 62, 28, 27, 36, 44, 6, 55, 20, 3, 10, 43, 25, 39, 41, 45, 15, 21, 8, 18, 2, 61, 56, 14]

/-- The lane that moves to each place. -/
def piTable : List Nat :=
  [0, 6, 12, 18, 24, 3, 9, 10, 16, 22, 1, 7, 13, 19, 20, 4, 5, 11, 17, 23, 2, 8, 14, 15, 21]

/-- Round constants. -/
def roundConstants : List Nat :=
  [0x1, 0x8082, 0x800000000000808A, 0x8000000080008000, 0x808B, 0x80000001, 0x8000000080008081, 0x8000000000008009,
   0x8A, 0x88, 0x80008009, 0x8000000A, 0x8000808B, 0x800000000000008B, 0x8000000000008089, 0x8000000000008003,
   0x8000000000008002, 0x8000000000000080, 0x800A, 0x800000008000000A, 0x8000000080008081, 0x8000000000008080,
   0x80000001, 0x8000000080008008]

/-- One round. -/
def keccakRound (a : List Nat) (rc : Nat) : List Nat :=
  let g := fun (l : List Nat) i => l.getD i 0
  let c := (List.range 5).map fun x => g a x ^^^ g a (x + 5) ^^^ g a (x + 10) ^^^ g a (x + 15) ^^^ g a (x + 20)
  let d := (List.range 5).map fun x => g c ((x + 4) % 5) ^^^ rotl (g c ((x + 1) % 5)) 1
  let t := a.zipIdx.map fun (v, i) => v ^^^ g d (i % 5)
  let b := piTable.map fun i => rotl (g t i) (g rhoTable i)
  let chi := (List.range 25).map fun i =>
    let y := i / 5 * 5
    g b i ^^^ ((2 ^ 64 - 1 - g b (y + (i + 1 - y) % 5)) &&& g b (y + (i + 2 - y) % 5))
  match chi with
  | v :: vs => (v ^^^ rc) :: vs
  | [] => []

/-- The permutation of 24 rounds. -/
def keccak (a : List Nat) : List Nat := roundConstants.foldl keccakRound a

/-- Absorb padded blocks of 72 bytes. -/
def absorb : Nat → List Nat → List Byte → List Nat
  | 0, a, _ => a
  | n + 1, a, m =>
    let lanes := (List.range 9).map fun i => leAt m (8 * i) 8
    let a := a.zipIdx.map fun (v, i) => v ^^^ lanes.getD i 0
    absorb n (keccak a) (m.drop 72)

/-- The message with the domain bits 01 and the padding. -/
def sha3Pad (m : List Byte) : List Byte :=
  let k := 72 - m.length % 72
  if k = 1 then m ++ [0x86] else m ++ [0x06] ++ List.replicate (k - 2) 0 ++ [0x80]

/-- SHA3-512 of a message: 64 bytes. -/
def sha3 (m : List Byte) : List Byte :=
  let p := sha3Pad m
  ((absorb (p.length / 72) (List.replicate 25 0) p).take 8).flatMap fun v => (List.range 8).map fun i =>
    BitVec.ofNat 8 (v >>> (8 * i))

end Sys2Proof.Machine
end

