-- ==== Sys2Proof/Machine/Admission.lean ====
section
/-! DEFINITION. Admission: the programme package, the request, the checks of 05 R171 to R173, the reservation and the
result record (05 R169 to R179, R519 to R521), and its re-run after a pod loss (02 R47). -/
namespace Sys2Proof.Machine

/-! ### Packages -/

/-- A variant cost record (R169). -/
def decCost (b : List Byte) : Cost :=
  { beats := (List.range 9).map fun i => leAt b (4 * i) 4, leekBytes := [leAt b 36 4, leAt b 40 4],
    slots := [leAt b 44 4, leAt b 48 4], ddrRead := leAt b 52 4, ddrWrite := leAt b 56 4, ddrRemote := leAt b 60 4,
    fabric := (List.range 6).map fun p => leAt b (64 + 4 * p) 4, sbSlots := leAt b 88 2, trackSlots := leAt b 90 2,
    windows := leAt b 92 1, latBands := leAt b 93 1, bandLines := leAt b 94 2, latFixed := leAt b 96 4,
    edition := leAt b 100 2, mode := leAt b 102 1, streamedLayers := leAt b 103 1, streamedBytes := leAt b 104 4 }

/-- The variants a mask names. -/
def variantsOf (mask : Nat) : List Nat := bitsOf 4 mask

/-- R519: the header of a package, with its digest before it, is in order: its mask, its RSV bytes, and a length that covers
its records and its schedules. R519 does not say what the offsets of the schedules are counted from, nor when the length covers a
schedule whose own length it does not give: the model counts them from the package's first byte and takes an offset of at most the
length (DESIGN CHOICE, log entry 92). -/
def headerOk (b : List Byte) : Bool :=
  let mask := leAt b 68 1
  let vs := variantsOf mask
  let len := leAt b 64 4
  decide (mask ≠ 0 ∧ mask < 16) && zeroAt b 69 11 && zeroAt b 112 16 && decide (128 + 128 * vs.length ≤ len) &&
    vs.all fun v => decide (leAt b (80 + 8 * v) 8 ≤ len)

/-- R519: the variants of a package with their cost records, none where it is malformed. R169 gives band_lines no range: a
line-locked variant with 0 lines per band, whose rates R171 divides by them, is taken as malformed (DESIGN CHOICE, log entry 92). -/
def decPackage (b : List Byte) (lineLocked : Bool) : Option (List (Nat × Cost)) :=
  let recs := (variantsOf (leAt b 68 1)).zipIdx.map fun (v, i) => (v, slice b (128 + 128 * i) 128)
  let ok := headerOk b && b.take 64 == sha3 (b.drop 64) &&
    recs.all fun r => zeroAt r.2 108 20 && decide (leAt r.2 102 1 ≤ 1) && (!lineLocked || decide (leAt r.2 94 2 ≠ 0))
  if ok then some (recs.map fun r => (r.1, decCost r.2)) else none

/-! ### Requests -/

/-- The request block (R170). -/
structure Request where
  package : Nat
  stream : Nat
  cls : Cls
  dry : Bool
  maxRate : Nat
  cameras : Nat
  resamplers : Nat
  displays : Nat
  reserve : Nat
  latLimit : Nat
  result : Nat
deriving DecidableEq, Repr

def decRequest (b : List Byte) : Request :=
  { package := leAt b 0 8, stream := leAt b 8 2, cls := if leAt b 10 1 = 0 then .lineLocked else .deferrable,
    dry := bitOf (leAt b 11 1) 0, maxRate := leAt b 12 4, cameras := leAt b 16 2, resamplers := leAt b 18 2,
    displays := leAt b 20 1, reserve := leAt b 22 2, latLimit := leAt b 24 4, result := leAt b 32 8 }

/-- R170, R520: the subcode of a request that is not evaluated; `dn` is the descriptor's stream byte. -/
def requestErr (b : List Byte) (dn : Nat) : Option Nat :=
  let q := decRequest b
  firstErr [
    (0x03, over40 q.package || over40 q.result),
    (0x01, decide (1 < leAt b 10 1 ∨ 1 < leAt b 11 1 ∨ 3 < leAt b 20 1) || !zeroAt b 21 1 || !zeroAt b 28 4 ||
      !zeroAt b 40 24 || decide (q.stream = 0 ∨ 127 < q.stream) || q.stream != dn ||
      (q.cls == .lineLocked && decide (q.maxRate < 1 ∨ 1000000 < q.maxRate ∨ q.reserve < 2000 ∨ 8000 < q.reserve))),
    (0x02, decide (q.result % 64 ≠ 0))]

/-! ### Capacities and loads -/

/-- A non-negative fraction: numerator and denominator. -/
abbrev Frac := Nat × Nat

/-- Sum of fractions. -/
def fsum (l : List Frac) : Frac := l.foldl (fun a b => (a.1 * b.2 + b.1 * a.2, a.2 * b.2)) (0, 1)

/-- A fraction at most a whole number. -/
def fle (x : Frac) (n : Nat) : Bool := decide (x.1 ≤ n * x.2)

/-- Rounded up. -/
def fceil (x : Frac) : Nat := ceilDiv x.1 x.2

/-- What a capacity leaves, rounded down. -/
def fleft (n : Nat) (x : Frac) : Nat := (n * x.2 - x.1) / x.2

/-- A cost per band as a rate per second. -/
def rateOf (c maxRate bandLines : Nat) : Frac := (c * maxRate, max bandLines 1)

/-- The load in units of 1/65,536 of capacity (R521). -/
def loadOf (x : Frac) (n : Nat) : Nat :=
  if n = 0 then (if x.1 = 0 then 0 else 0xFFFF) else min (ceilDiv (x.1 * 65536) (x.2 * n)) 0xFFFF

/-- B_g in beats per second (02 R40, 13 R437). -/
def guaranteedRate (s : State) : Nat := leAt s.boot.nor.bytes 30 2 * 1000000

/-- Whether a line-locked stream is admitted. -/
def lineLockedAdmitted (s : State) : Bool :=
  s.streams.any fun e => e.2.state != .free && e.2.cls == .lineLocked

/-- The shares that are in force, or that the next line-locked stream latches (06 R207). -/
def shareWord (s : State) : Nat := if lineLockedAdmitted s then regGet s 0x3000404 else regGet s 0x3000400

/-- Lanes of a port that is up (12 R407). -/
def portLanes (s : State) (p : Nat) : Nat :=
  let st := regGet s (0xB001004 + p * 0x40)
  if f st 31 29 = 2 then 4 / 2 ^ f st 28 27 else 0

/-- A line-locked stream's figures: its cost, rate, and whether its array beats count (02 R47). -/
structure Load where
  cost : Cost
  rate : Nat
  array : Bool
deriving DecidableEq, Repr

/-- The admitted line-locked streams, in order of admission, but for one. -/
def loadsBut (s : State) (n : Nat) : List Load :=
  ((admittedIds s).filter fun k => k != n && (streamGet s k).cls == .lineLocked).map fun k =>
    let x := streamGet s k
    ⟨x.cost, x.maxRate, !x.bypass47⟩

/-- A rated resource: its number and reason code, the cost it counts, its capacity. -/
structure Rated where
  res : Nat
  reason : Nat
  cost : Cost → Nat
  arrayOnly : Bool
  cap : Nat

/-- The rated resources of R171 after the array and the Leek runs, in R179's order: bank slots, LPDDR classes, ports. -/
def ratedRest (s : State) : List Rated :=
  let bg := guaranteedRate s
  let sh := shareWord s
  [⟨3, 0x03, fun c => c.slots.getD 0 0, false, 16 * bg⟩, ⟨3, 0x03, fun c => c.slots.getD 1 0, false, 16 * bg⟩,
   ⟨4, 0x04, (·.ddrRead), false, f sh 7 0 * 2048000000⟩, ⟨5, 0x05, (·.ddrWrite), false, f sh 15 8 * 2048000000⟩,
   ⟨6, 0x06, (·.ddrRemote), false, f sh 23 16 * 2048000000⟩] ++
  (List.range 6).map fun p => ⟨7, 0x07, fun c => c.fabric.getD p 0, false, 6250000000 * portLanes s p⟩

/-- The array (R171): the column of the present pod count. -/
def ratedArray (s : State) : Rated :=
  ⟨1, 0x01, fun c => c.beats.getD (96 - activePods s) 0, true, guaranteedRate s⟩

/-- What streams ask of a rated resource, per second. -/
def Rated.demand (r : Rated) (l : List Load) : Frac :=
  fsum ((l.filter fun x => !r.arrayOnly || x.array).map fun x => rateOf (r.cost x.cost) x.rate x.cost.bandLines)

/-- A failed check: reason, resource, demand and capacity remaining (R521). -/
structure Fail where
  reason : Nat
  res : Nat
  demand : Nat
  left : Nat
deriving DecidableEq, Repr

/-- The check of one rated resource for a candidate beside others. -/
def Rated.check (r : Rated) (others : List Load) (me : Load) : Option Fail :=
  if fle (r.demand (others ++ [me])) r.cap then none
  else some ⟨r.reason, r.res, fceil (r.demand [me]), fleft r.cap (r.demand others)⟩

/-- The failing port with the largest load, a port without capacity above all; R521 reports the most loaded failing
port. -/
def worstOf : List (Fail × Frac) → Option Fail
  | [] => none
  | x :: xs => some ((xs.foldl (fun (b y : Fail × Frac) => if b.2.1 * y.2.2 < y.2.1 * b.2.2 then y else b) x).1)

/-- The checks of resources 3 to 7; of the ports, the most loaded failing one. -/
def checkRest (s : State) (others : List Load) (me : Load) : Option Fail :=
  let rs := ratedRest s
  let plain := (rs.filter fun r => r.res != 7).findSome? fun r => r.check others me
  plain.or (worstOf ((rs.filter fun r => r.res == 7).filterMap fun r =>
    (r.check others me).map fun e =>
      let d := r.demand (others ++ [me])
      (e, (d.1, d.2 * r.cap))))

/-! ### Table resources -/

/-- 05 R171 resource 2: runs, then partition entries. -/
def checkLeek (s : State) (c : Cost) : Option Fail :=
  let need := fun h => unitsFor (c.leekBytes.getD h 0)
  let run := fun h => if need h ≠ 0 ∧ (findRun s h (need h)).isNone then
    some (⟨0x02, 2, need h, longestRun s h⟩ : Fail) else none
  let want := b2n (need 0 != 0) + b2n (need 1 != 0)
  let free := 64 - s.parts.length
  ((run 0).or (run 1)).or (if free < want then some ⟨0x02, 2, 1, 0⟩ else none)

/-- Slots, tracks and windows (R171, R177). -/
def checkTables (s : State) (c : Cost) (ll : Bool) : Option Fail :=
  let llS := s.streams.filter fun e => e.2.state != .free && e.2.cls == .lineLocked
  let tracks := sumN (llS.map fun e => e.2.cost.trackSlots)
  let sb := llReserved s
  let wins := b2n (c.leekBytes.getD 0 0 != 0) + b2n (c.leekBytes.getD 1 0 != 0) + c.windows
  let freeW := 256 - s.wins.length
  let sbCap := if ll then 960 else 1024
  (if sbCap < sb + c.sbSlots then some (⟨0x08, 8, c.sbSlots, sbCap - sb⟩ : Fail) else none).or
    ((if ll && decide (40960 < tracks + c.trackSlots) then some (⟨0x09, 9, c.trackSlots, 40960 - tracks⟩ : Fail)
      else none).or
      (if freeW < wins then some ⟨0x0A, 10, wins, freeW⟩ else none))

/-- Pixel payload per lane and second of a CoaXPress rate, in units of 62.5 MB (06 R184). -/
def lanePayload (rate : Nat) : Nat := [2, 4, 5, 8, 10, 16, 20].getD rate 0

/-- Quarter bytes per pixel on the link of a camera format (06 R184). -/
def quarterBytes (format : Nat) : Nat := [4, 5, 6, 7, 12].getD format 0

/-- 06 R184, R171: camera ports. -/
def checkCameras (s : State) (q : Request) : Option Fail :=
  let ports := bitsOf 16 q.cameras
  let gone := fun p => s.streams.any fun e => e.2.state != .free && bitOf e.2.camMask p
  let cfg := fun p => regGet s (0x6001000 + p * 0x40)
  let st := fun p => regGet s (0x6001004 + p * 0x40)
  ports.findSome? fun p =>
    if gone p || !bitOf (cfg p) 31 || !bitOf (st p) 31 then some ⟨0x0C, 11, 1, 0⟩
    else
      let cap := 2 ^ f (st p) 29 28 * lanePayload (f (st p) 27 24) * 62500000
      let need := q.maxRate * f (cfg p) 15 0 * quarterBytes (f (cfg p) 23 20)
      if 4 * cap < need then some ⟨0x0C, 11, ceilDiv need 4, cap⟩ else none

/-- R171: resampler channels and displays. -/
def checkOutputs (s : State) (q : Request) : Option Fail :=
  let ch := (bitsOf 16 q.resamplers).any fun c =>
    s.streams.any fun e => e.2.state != .free && bitOf e.2.rsmpMask c
  let d := (bitsOf 2 q.displays).any fun d => s.streams.any fun e => e.2.state != .free && bitOf e.2.dispMask d
  if ch || d then some ⟨0x0D, 12, 1, 0⟩ else none

/-- R172, R173, R177: the first check that a variant fails. -/
def checkVariant (s : State) (q : Request) (c : Cost) : Option Fail :=
  let ll := q.cls == .lineLocked
  let me : Load := ⟨c, q.maxRate, true⟩
  let others := loadsBut s q.stream
  if c.edition ≠ f (regGet s 0x1001000) 15 0 then some ⟨0x0E, 0, 0, 0⟩
  else if !ll then (checkLeek s c).or (checkTables s c false)
  else
    ((ratedArray s).check others me).or ((checkLeek s c).or ((checkRest s others me).or ((checkTables s c true).or
      ((checkCameras s q).or ((checkOutputs s q).or
        (if q.latLimit ≠ 0 ∧ q.latLimit < latencyBound c q.maxRate q.reserve then some ⟨0x0F, 0, 0, 0⟩ else none))))))

/-- The outcome of an evaluation: a variant, or the failure reported. -/
inductive Verdict where
  | fits (v : Nat) (c : Cost)
  | fails (e : Fail)
deriving DecidableEq, Repr

/-- R173: a budget check is one of resources 1 to 7. -/
def Fail.budget (e : Fail) : Bool := decide (1 ≤ e.res ∧ e.res ≤ 7 ∧ e.res ≠ 2)

/-- R173: the first variant that passes, or the reason of the failure reported. -/
def evaluate (s : State) (q : Request) (vs : List (Nat × Cost)) : Verdict :=
  match vs.find? fun v => (checkVariant s q v.2).isNone with
  | some (v, c) => .fits v c
  | none =>
    let fs := vs.filterMap fun v => (checkVariant s q v.2).map fun e => (v.1, e)
    match fs.reverse.find? fun x => x.1 % 2 == 1 && x.2.budget with
    | some x => .fails { x.2 with reason := 0x0B }
    | none => match fs with
      | x :: _ => .fails x.2
      | [] => .fails ⟨0x10, 0, 0, 0⟩

/-- The failure of a request that needs no look at its package: below 88 active pods every request is refused with reason
0x01 (02 R48); then R173. -/
def earlyFail (s : State) (q : Request) : Option Fail :=
  if s.pods.below then some ⟨0x01, 1, 0, 0⟩
  else if resetting s then some ⟨0x12, 0, 0, 0⟩
  else if (streamGet s q.stream).state ≠ .free then some ⟨0x11, 0, 0, 0⟩
  else none

/-- R173: the checks of the request as a whole, then its variants; `pkg` none stands for a package whose stated length
cannot be read whole. -/
def decideRequest (s : State) (q : Request) (pkg : Option (List Byte)) : Verdict :=
  match earlyFail s q with
  | some e => .fails e
  | none => match pkg.bind fun b => decPackage b (q.cls == .lineLocked) with
    | none => .fails ⟨0x10, 0, 0, 0⟩
    | some vs => evaluate s q vs

/-- The package as the device reads it: its header first, and the rest where the header is in order (R519). The error is a
header that is not granted; a stated length that reaches bytes which cannot be read makes the package malformed, and the stop
is noted (DEDUCED, log entry 92). -/
def readPackage (s : State) (wid : Nat) (q : Request) : Except MemStop (Option (List Byte) × Option MemStop) :=
  if (earlyFail s q).isSome then .ok (none, none) else
  match devRead s (readBy 0 wid) q.package 128 with
  | .error m => .error m
  | .ok h =>
    if !headerOk h then .ok (none, none) else
    match devRead s (readBy 0 wid) q.package (leAt h 64 4) with
    | .error m => .ok (none, some m)
    | .ok b => .ok (some b, none)

/-! ### Reservation (R174) -/

/-- Reserve everything for the variant taken. Records that still wait for the identifier's result ring keep it (09 R301). -/
def reserve (s : State) (q : Request) (v : Nat) (c : Cost) (pair : Nat) : State :=
  let n := q.stream
  let ll := q.cls == .lineLocked
  let first := ll && !lineLockedAdmitted s
  let fabric := c.fabric.any (· != 0)
  let s := [0, 1].foldl (fun s h =>
    if c.leekBytes.getD h 0 = 0 then s else allocPart s n h (c.leekBytes.getD h 0) fabric) s
  let s := holdWindows c.windows s n
  let x := streamGet s n
  let old := x.cause
  let s := streamPut s n { Stream.free with
      state := .admitted, cause := old, record := x.record, pos := x.pos, cls := q.cls, variant := v, cost := c,
      maxRate := if ll then q.maxRate else 0, reserve := if ll then q.reserve else 0, order := s.admitSeq,
      camMask := if ll then q.cameras else 0, rsmpMask := if ll then q.resamplers else 0,
      dispMask := if ll then q.displays else 0, home := pair,
      ring := x.ring.filter fun r => !r.staging.isEmpty }
  let s := { s with admitSeq := s.admitSeq + 1 }
  let s := if first then regPut s 0x3000404 (regGet s 0x3000400) else s
  logAdd (setLeekFree s) 0x0402 0 0 (n + 2 ^ 8 * 1)

/-! ### The result record (R178, R521) -/

/-- The partition entry of a stream in a half, 0xFF for none. -/
def partIndex (s : State) (n h : Nat) : Nat :=
  match s.parts.find? fun e => e.2.stream == n && e.2.half == h with
  | some e => e.1
  | none => 0xFF

/-- The loads after admission: array, bank slots, LPDDR classes, the most loaded port. -/
def loadWords (s : State) (others : List Load) (me : Load) : List Nat :=
  let l := fun (r : Rated) => loadOf (r.demand (others ++ [me])) r.cap
  let rest := ratedRest s
  [l (ratedArray s)] ++ (rest.take 5).map l ++ [maxN ((rest.drop 5).map l)]

/-- The record of a verdict; `s` is the state before, `t` after. In a refused request's the fields that describe a variant read 0,
for which R178 gives no value (DESIGN CHOICE, log entry 101). -/
def resultBytes (s t : State) (q : Request) (vd : Verdict) : List Byte :=
  let ll := q.cls == .lineLocked
  let bg := leBytes 4 (leAt s.boot.nor.bytes 30 2)
  match vd with
  | .fails e =>
    leBytes 1 (if q.dry then 3 else 1) ++ leBytes 1 e.reason ++ leBytes 1 0xFF ++ leBytes 1 0 ++ leBytes 4 0 ++
      leBytes 2 q.stream ++ leBytes 2 0 ++ leBytes 4 0 ++ bg ++ leBytes 28 0 ++ leBytes 2 0xFFFF ++ leBytes 5 0 ++
      leBytes 1 e.res ++ leBytes 8 e.demand ++ leBytes 8 e.left ++ leBytes 56 0
  | .fits v c =>
    let me : Load := ⟨c, q.maxRate, true⟩
    let lat := if ll then latencyBound c q.maxRate q.reserve else 0
    let period := if ll then (roundEvenDiv (c.bandLines * 1000000000 : Nat) q.maxRate).toNat else 0
    let loads := if ll then loadWords s (loadsBut s q.stream) me else List.replicate 7 0
    let extra := if ll then ceilDiv (c.streamedBytes * q.maxRate) (max c.bandLines 1) else 0
    let part := fun h => if q.dry then 0xFF else partIndex t q.stream h
    let wins := if q.dry then 0 else t.wins.length - s.wins.length
    leBytes 1 (if q.dry then 2 else 0) ++ leBytes 1 0 ++ leBytes 1 v ++ leBytes 1 c.mode ++ leBytes 4 lat ++
      leBytes 2 q.stream ++ leBytes 2 c.bandLines ++ leBytes 4 period ++ bg ++ loads.flatMap (leBytes 2) ++
      leBytes 2 0 ++ leBytes 4 c.streamedBytes ++ leBytes 8 extra ++ leBytes 1 (part 0) ++ leBytes 1 (part 1) ++
      leBytes 2 (if q.dry || !ll then 0 else c.sbSlots) ++ leBytes 2 (if q.dry || !ll then 0 else c.trackSlots) ++
      leBytes 1 wins ++ leBytes 1 0 ++ leBytes 16 0 ++ leBytes 56 0

/-! ### The Sprout's queue -/

/-- Descriptors that pass one queue in the Sprout (09 R288). -/
def isManagement (op : Nat) : Bool := op == 3 || op == 4 || op == 5 || op == 6 || op == 7 || op == 12

/-- The work is a started descriptor of an opcode whose row has not run, and, for a management descriptor, stands at
the front of the Sprout's queue. -/
def startedAs (s : State) (wid op : Nat) : Option Work :=
  match workGet s wid with
  | some w =>
    if w.pair.isSome && leAt w.desc 0 1 == op && w.phase == .fetched &&
        (!isManagement op || s.works.all fun e =>
          decide (wid ≤ e.1) || !(e.2.pair.isSome && isManagement (leAt e.2.desc 0 1))) then some w
    else none
  | none => none

/-! ### Re-run after a pod loss (02 R47) -/

/-- The reason a stream no longer fits beside those that passed, 0 when it does. -/
def rerunReason (s : State) (passed : List Load) (me : Load) : Nat :=
  match ((ratedArray s).check passed me).or (checkRest s passed me) with
  | some e => e.reason
  | none => 0

/-- Check the admitted line-locked streams in order; those that fail run in bypass from their next band. Below 88 active pods every
one is reported, those already in bypass included (02 R48). -/
def rerunAdmission (s : State) : State :=
  let go := (admittedIds s).filter fun k => (streamGet s k).cls == .lineLocked && (s.pods.below || !(streamGet s k).bypass47)
  (go.foldl (fun (r : State × List Load) k =>
    let s := r.1
    let x := streamGet s k
    let me : Load := ⟨x.cost, x.maxRate, true⟩
    let reason := if s.pods.below then 0x01 else rerunReason s r.2 me
    let s := logAdd s 0x0404 0 1 (k + 2 ^ 8 * reason + 2 ^ 16 * activePods s)
    let s := streamEvent s k 0x41 (reason + 2 ^ 8 * activePods s)
    if reason = 0 then (s, r.2 ++ [me])
    else
      let s := streamPut s k { streamGet s k with bypass47 := true }
      ((if x.state = .running then setStream s k .bypass false else s), r.2)) (s, ([] : List Load))).1

end Sys2Proof.Machine
end

