-- ==== Sys2Proof/Machine/Camera.lean ====
section
/-! DEFINITION. Cameras: ingest of lines (06 R182 to R192), line tokens (06 R189, 07 R243), loss and heartbeat (06
R191), event packets (09 R299) and camera control (09 R290, R296). -/
namespace Sys2Proof.Machine

/-! ### Ports -/

/-- CXP.PORT_n.CFG and STATUS (06 R192). -/
def camCfg (s : State) (p : Nat) : Nat := regGet s (0x6001000 + p * 0x40)

def camStatus (s : State) (p : Nat) : Nat := regGet s (0x6001004 + p * 0x40)

def camEnabled (s : State) (p : Nat) : Bool := bitOf (camCfg s p) 31

def camUp (s : State) (p : Nat) : Bool := camEnabled s p && bitOf (camStatus s p) 31

/-- The admitted stream that holds a port, 0 for none. -/
def camHolder (s : State) (p : Nat) : Nat :=
  match s.streams.find? fun e => e.2.state != .free && bitOf e.2.camMask p with
  | some e => e.1
  | none => 0

/-- The stream stores its cameras' lines: it is admitted and is not being released (06 R186, R212). -/
def Stream.ingests (x : Stream) : Bool := x.active || x.state == .halted || x.state == .admitted

/-- The places of a port's rings. -/
def camPlace (x : Stream) (p : Nat) : Option CamPlace :=
  match x.sched with
  | some d => d.cams.find? fun c => c.port == p
  | none => none

/-! ### Line tokens (06 R189, 07 R243) -/

/-- Every line of a band has been stored: for area frames, its last row or a later frame. -/
def bandIn (x : Stream) (p : Nat) (c : Camera) (band : Nat) : Bool :=
  let bl := max 1 x.cost.bandLines
  if c.lines.any (·.area) then
    decide (band / frameBands x + 1 < c.frames) ||
      c.lines.any fun l => l.frame == some (band / frameBands x) && decide ((band % frameBands x + 1) * bl ≤ l.row + 1)
  else match x.camBase.find? fun b => b.1 == p with
    | some b => serialGe 32 c.seq ((b.2 + (band + 1) * bl) % 2 ^ 32)
    | none => true

/-- The line of its band, counted from the band's first, that a stored line is (06 R197). -/
def lineOfBand (x : Stream) (p : Nat) (l : LineRec) : Nat :=
  let bl := max 1 x.cost.bandLines
  if l.area then l.row % bl else match x.camBase.find? fun b => b.1 == p with
    | some b => (l.seq + 2 ^ 32 - b.2) % 2 ^ 32 % bl
    | none => 0

/-- The last band whose operations read a line: its own, or a later one that reads lines before its first again. Bands of one
area frame read no line of another (log entry 26). -/
def lastReader (x : Stream) (p : Nat) (l : LineRec) (b : Nat) : Nat :=
  let r := b + (lineOfBand x p l + x.sched.elim 0 (·.halo)) / max 1 x.cost.bandLines
  if l.area then min r (b / frameBands x * frameBands x + frameBands x - 1) else r

/-- No scheduled operation will read a line again: every band that reads it is kept or was produced in bypass, or it has none (06
R189, log entry 26). -/
def bandDone (x : Stream) (p : Nat) (l : LineRec) : Bool :=
  match bandOf x p l with
  | some b => (List.range (lastReader x p l b + 1 - b)).all fun i =>
      decide (b + i < x.kept) || x.bypassed.contains (b + i)
  | none => true

/-- CH_n.CFG (07 R251). -/
def chanCfg (s : State) (c : Nat) : Nat := regGet s (0x7001000 + c * 0x100)

/-- Channels of a stream that a port feeds. -/
def chansOf (s : State) (n p : Nat) : List Nat :=
  (List.range 16).filter fun c => bitOf (streamGet s n).rsmpMask c && f (chanCfg s c) 27 24 == p

/-- Distance from a to b in the direction of travel. -/
def along (back : Bool) (a b : Nat) : Int := if back then serialDiff 48 a b else serialDiff 48 b a

/-- Where a grid position lies among the lines (07 R235): sequence number of tap line i, phase, den. -/
structure TapSel where
  i : Nat
  phase : Nat
  den : Nat
deriving DecidableEq, Repr

/-- The lines among which the frames of the channel's present direction lie: before a change of direction that is still to
come for the lines, those stored until then (log entry 89). -/
def Chan.window (x : Chan) : List PosLine :=
  match x.legs with
  | l :: _ => x.lines.filter fun p => decide (p.line.time ≤ l.at_)
  | [] => x.lines

/-- The lines of the channel's present direction: from when the extreme before it was reached. -/
def Chan.leg (x : Chan) : List PosLine := x.window.filter fun p => decide (x.legFrom ≤ p.line.time)

/-- 07 R234, R235: the taps of grid position g, from the first line of the direction that lies at or after it; none until that
line and the one after line i are stored. Where the direction begins beyond g, line i is its first line (log entry 89). -/
def selectTap (back : Bool) (ls leg : List PosLine) (g : Nat) : Option TapSel :=
  match leg.reverse.find? fun l => decide (0 ≤ along back g l.pos) with
  | none => none
  | some b =>
    let line := fun (q : Nat) => ls.find? fun l => l.line.seq == q % 2 ^ 32
    if b.pos = g then (line (b.line.seq + 1)).map fun o => ⟨b.line.seq, 0, (along back g o.pos).toNat⟩
    else match (line (b.line.seq + 2 ^ 32 - 1)).filter fun a => decide (0 ≤ along back a.pos g) with
      | none => some ⟨b.line.seq, 0, 0⟩
      | some a =>
        let den := (along back a.pos b.pos).toNat
        let ph := (roundEvenDiv (along back a.pos g * 64) (max 1 den)).toNat
        some (if 64 ≤ ph then ⟨b.line.seq, 0, den⟩ else ⟨a.line.seq, ph, den⟩)

def encCfg (s : State) (e : Nat) : Nat := regGet s (0x7000000 + e * 0x20)

/-- Some encoder is enabled, or a position message has been accepted (07 R241). -/
def hasOdo (s : State) : Bool := bitOf (encCfg s 0) 31 || bitOf (encCfg s 1) 31 || s.odo.lastSeq.isSome

/-- How far the track has gone for the lines now being produced: to the extreme of their direction, and at standstill to
where it began (07 R241, R242). -/
def Chan.reached (x : Chan) : Nat :=
  match x.legs with
  | l :: _ => l.was
  | [] => x.stopAt.getD x.extreme

/-- The track has crossed the grid position of the channel's next line. -/
def lineCrossed (s : State) (x : Chan) : Bool :=
  match x.next with
  | some g => hasOdo s && decide (0 ≤ along x.lineBack g x.reached)
  | none => false

/-- The place in a channel's lines, newest first, of the oldest one that its next output draws on. For a line, tap 0 of a
position that the track has crossed, else the fourth newest (07 R235, R243); for an area frame, the first row of the newest frame
not beyond the output's place, while it is not crossed no more than the newest two frames (07 R250). None where every line may be
needed. -/
def oldestTap (cfg : Nat) (crossed : Bool) (c : Chan) : Option Nat :=
  if !bitOf cfg 31 then
    match (c.next.filter fun _ => crossed).bind (selectTap c.lineBack c.lines c.leg) with
    | none => some 3
    | some t => (c.lines.findIdx? fun l => l.line.seq == t.i).map (· + 3)
  else
    let ls := c.lines
    let first := fun (i : Nat) => match ls[i]?, ls[i + 1]? with
      | some l, some o => l.line.frame != o.line.frame
      | _, _ => true
    let begins := ls.zipIdx.filter fun l => first l.2
    let at_ := (begins.find? fun l => if f cfg 30 29 ≠ 0 then decide (l.1.line.time ≤ c.lastOut) else
      match c.next with
      | none => true
      | some g => decide (0 ≤ along c.lineBack l.1.pos g)).map (·.2)
    if f cfg 30 29 = 0 ∧ !crossed then
      match at_, (begins[1]?).map (·.2) with
      | some i, some j => some (min i j)
      | none, j => j
      | i, none => i
    else at_

/-- Whether a channel can still take a line: it is among the four newest stored, its position is not yet evaluated, or it
lies at or after the oldest one that the next output draws on. -/
def chanNeeds (cfg : Nat) (crossed : Bool) (c : Chan) (newest seq : Nat) : Bool :=
  decide ((newest + 2 ^ 32 - seq) % 2 ^ 32 < 4) || c.lines.all (fun l => l.line.seq != seq) ||
    match oldestTap cfg crossed c with
    | none => true
    | some i => (c.lines.take (i + 1)).any fun l => l.line.seq == seq

/-- The token of a line returns: no operation reads the line before Start; a HALTED stream, whose schedule stands, gives it
back when its channels have consumed it (06 R189, R212, R214, log entry 26). -/
def tokenFree (s : State) (n p : Nat) (l : LineRec) : Bool :=
  let x := streamGet s n
  let newest := ((camGet s p).seq + 2 ^ 32 - 1) % 2 ^ 32
  let ch := (chansOf s n p).filterMap fun k => (tget s.chans k).map fun c => (chanCfg s k, c)
  x.state == .admitted || ((bandDone x p l || (x.state == .halted && !ch.isEmpty)) &&
    ch.all fun k => !chanNeeds k.1 (lineCrossed s k.2) k.2 newest l.seq)

/-- Return the tokens of a port's lines that nothing will read again. -/
def returnTokens (s : State) (p : Nat) : State :=
  let n := camHolder s p
  let c := camGet s p
  let free := fun (l : LineRec) => l.tok && tokenFree s n p l
  let k := (c.lines.filter free).length
  if k = 0 then s else
  consReturn (camPut s p { c with lines := c.lines.map fun l => if free l then { l with tok := false } else l }) (22 + p) k

/-- Return the tokens of every port that a stream holds. -/
def returnTokensOf (s : State) (n : Nat) : State :=
  (bitsOf 16 (streamGet s n).camMask).foldl returnTokens s

/-! ### Lines -/

/-- LINE_HEADER: 06 R185; every row of an area frame carries its image header's stamp. An image begins where the number changes or
the line numbers start over. A line that answers a trigger answers the oldest one not yet answered (07 R248). -/
def execLineHeader (port image line : Nat) (area gap triggered : Bool) (s : State) : Host.Outcome State Fault Refusal :=
  if !camUp s port then .next s else
  let c := camGet s port
  let now := ((s.time : Int) + sx 32 (regGet s (0x6001008 + port * 0x40))).toNat
  let begins := c.image.all fun i => decide (i.1 ≠ image ∨ line ≤ i.2.2)
  let stamp := if begins then now else c.image.elim now (·.2.1)
  let answers := triggered && !c.trigs.isEmpty
  let h : LineHdr := ⟨if area then stamp else now, image, line, area, gap, answers, c.trigs.headD 0⟩
  .next (camPut s port { c with
    hdr := some h, image := some (image, stamp, line), skip := if begins then none else c.skip, trigs := if answers then c.trigs.drop 1 else c.trigs })

/-- Samples of a line: pixels times channels of the format. -/
def camChannels (format : Nat) : Nat := if format = 4 then 3 else 1

/-- 06 R187: the bytes of a row of the pixel ring. -/
def pixelBytes (format : Nat) (px : List Nat) : List Byte :=
  if format = 0 ∨ format = 4 then px.map fun p => BitVec.ofNat 8 (p + 128)
  else px.flatMap fun p => leBytes 2 p

/-- 06 R188: the line header. -/
def lineHeaderBytes (h : LineHdr) (seq pixels : Nat) (replaced afterLoss : Bool) : List Byte :=
  leBytes 8 h.time ++ leBytes 4 seq ++ leBytes 2 pixels ++
    leBytes 1 (b2n replaced + 2 * b2n h.triggered + 4 * b2n h.gap + 8 * b2n afterLoss) ++ leBytes 1 0 ++
    leBytes 6 (if h.triggered then h.trigPos else 0) ++ leBytes 2 0 ++ leBytes 4 h.image ++ leBytes 4 h.line ++
    leBytes 32 0

/-- What ingest writes for line `seq` of a port: pixels, exponent blocks of an N8 ring with the tags of 03 R65, and
the header (06 R186 to R188). -/
def lineWrites (c : CamPlace) (format seq width : Nat) (px : List Nat) (header : List Byte) : List (Nat × List Byte) :=
  let row := seq % max 1 c.ringRows
  let nb := ceilDiv width 80
  let exps := if format = 0 ∨ format = 4 then
      (List.range nb).map fun j =>
        (c.expBase + (row * nb + j) * 64,
          expBlock ((c.tagBase + seq * nb + j) % 256) (List.replicate (min 80 (width - 80 * j)) 0))
    else []
  [(c.pixBase + row * c.rowPitch, pixelBytes format px)] ++ exps ++ [(c.hdrBase + row * 64, header)]

/-- Writes of ingest for a stream, in order; the first that stops. -/
def putAll (s : State) (n : Nat) : List (Nat × List Byte) → Except MemStop State
  | [] => .ok s
  | (a, b) :: ws => match devWrite s (writeBy n 0) a b with
    | .error m => .error m
    | .ok s => putAll s n ws

/-- A stream's own master meets a stop: the stream halts (10 R326). -/
def streamStop (s : State) (n : Nat) (m : MemStop) : State :=
  raiseFault (noteStop s n m) n (memFault m 0xFFFF 0xFFFFFFFF false none)

/-- The ring has a row for the port's next line: a token is free, and the row's last line has given its own back (06 R189,
02 R49). -/
def rowFree (place : CamPlace) (c : Camera) : Bool :=
  let R := max 1 place.ringRows
  decide ((c.lines.filter (·.tok)).length < R) && !(c.lines.any fun l => l.tok && l.seq % R == c.seq % R)

/-- LINE_ARRIVAL: 06 R186 to R191. A port that no admitted stream holds stores nothing (log entry 27). -/
def execLineArrival (port : Nat) (pixels : List Nat) (bad : Bool) (s : State) : Host.Outcome State Fault Refusal :=
  let c := camGet s port
  let n := camHolder s port
  let x := streamGet s n
  match c.hdr, camPlace x port with
  | some h, some place =>
    if !camUp s port || !x.ingests then .next (camPut s port { c with hdr := none }) else
    let cfg := camCfg s port
    let width := f cfg 15 0
    let format := f cfg 23 20
    let ch := camChannels format
    if !rowFree place c then
      .next (bump (camPut s port { c with hdr := none, missed := true }) (0x600100C + port * 0x40))
    else
      let got := pixels.length / ch
      let replaced := bad || decide (got < width)
      let px := if replaced then c.lastPixels.getD (List.replicate (width * ch) 0) else pixels.take (width * ch)
      let hb := lineHeaderBytes h c.seq got replaced c.afterLoss
      match putAll s n (lineWrites place format c.seq width px hb) with
      | .error m => .next (streamStop (camPut s port { c with hdr := none }) n m)
      | .ok s =>
        let begins := h.area && c.skip != some h.image &&
          !(c.lines.head?.any fun l => l.image == h.image && decide (l.row < h.line))
        let frames := c.frames + b2n begins
        let lr : LineRec := {
          seq := c.seq, time := h.time, gap := h.gap, replaced := replaced, afterLoss := c.afterLoss,
          image := h.image, missed := c.missed, area := h.area, row := h.line,
          frame := (if h.area && c.skip != some h.image then some (frames - 1) else none), tok := true }
        let s := camPut s port { c with
          seq := (c.seq + 1) % 2 ^ 32, lastPixels := some px, hdr := none, frames := frames, missed := false,
          lines := (lr :: c.lines).take (max 1 place.ringRows), lost := false, afterLoss := false }
        let s := consIssue s (22 + port) 1
        let s := if replaced then bump s (0x6001010 + port * 0x40) else s
        .next (returnTokens s port)
  | _, _ => .next (camPut s port { c with hdr := none })

/-! ### Links -/

/-- CAMERA_LINK_UP: 06 R182, R184; a rate above CFG's or lanes it does not name are never chosen. -/
def execCameraLinkUp (port lanes rate : Nat) (s : State) : Host.Outcome State Fault Refusal :=
  let cfg := camCfg s port
  if !camEnabled s port || camUp s port || decide (f cfg 29 28 ≠ lanes ∨ f cfg 27 24 < rate) then .next s else
  let s := regPut s (0x6001004 + port * 0x40) (2 ^ 31 + lanes * 2 ^ 28 + rate * 2 ^ 24)
  .next (camPut s port { camGet s port with heartbeat := some s.elapsed })

/-- CAMERA_HEARTBEAT: 06 R191. -/
def execCameraHeartbeat (port : Nat) (s : State) : Host.Outcome State Fault Refusal :=
  if !camUp s port then .next s else
  let s := regSetF s (0x6001004 + port * 0x40) 30 30 1
  .next (camPut s port { camGet s port with heartbeat := some s.elapsed })

/-- A camera is lost: its link is down, or it has sent no heartbeat for 200 ms (06 R191). -/
def cameraLost (port : Nat) (linkDown : Bool) (s : State) : State :=
  let c := camGet s port
  let silent := match c.heartbeat with
    | some t => decide (200000000 ≤ s.elapsed - t)
    | none => true
  if !camUp s port || (!linkDown && (!silent || (c.lost && !bitOf (camStatus s port) 30))) then s else
  let s := if linkDown then regPut s (0x6001004 + port * 0x40) 0 else regSetF s (0x6001004 + port * 0x40) 30 30 0
  let s := camPut s port { c with hdr := none, lost := true, afterLoss := true, image := none, trigs := [] }
  logAdd (bump s (0x6001014 + port * 0x40)) 0x020B 6 1 (port + 2 ^ 8 * b2n linkDown)

/-- CAMERA_LOSS: 06 R191. -/
def execCameraLoss (port : Nat) (linkDown : Bool) (s : State) : Host.Outcome State Fault Refusal :=
  .next (cameraLost port linkDown s)

/-! ### Event packets -/

/-- CAMERA_EVENT_PACKET: 09 R298, R299. -/
def execCameraEventPacket (port : Nat) (data : List Byte) (s : State) : Host.Outcome State Fault Refusal :=
  if !camUp s port then .next s else
  let c := camGet s port
  let slot := c.evSeq % 16
  let a := reg64 s 0x5000008 + (port * 16 + slot) * 256
  let d := data.take 248
  let b := leBytes 4 c.evSeq ++ leBytes 2 d.length ++ leBytes 2 0 ++ d
  let s := match devWrite s (writeBy 0 0) a b with
    | .ok s => s
    | .error m => noteStop s 0 m
  let s := camPut s port { c with evSeq := (c.evSeq + 1) % 2 ^ 32 }
  .next (eventAdd s 0x42 (port + 2 ^ 4 * slot + 2 ^ 8 * (c.evSeq % 256)))

/-! ### Camera control -/

/-- A started descriptor whose data access stops (10 R326): a named stream halts, and stream 0 completes at once. -/
def workStop (s : State) (wid n : Nat) (m : MemStop) : State :=
  let s := noteStop s n m
  if n = 0 then complete s wid 4 (m.cause + 2 ^ 8 * m.win)
  else if (streamGet s n).state = .admitted then complete s wid 4 (m.cause + 2 ^ 8 * m.win)
  else faultWork s wid n (memFault m 0xFFFF 0xFFFFFFFF false none)

/-- CAM_CTRL: 09 R290, R291. A port that is down never answers. -/
def execCamCtrl (wid : Nat) (s : State) : Host.Outcome State Fault Refusal :=
  match workGet s wid with
  | none => .next s
  | some w =>
    let d := w.desc
    if w.pair.isNone ∨ leAt d 0 1 ≠ 0x09 ∨ w.phase ≠ .fetched then .next s
    else if w.cancelled then .next (complete s wid 3 0)
    else
      let port := leAt d 8 1
      let dir := leAt d 9 1
      let len := leAt d 10 2
      let h := camHolder s port
      if w.stream ≠ 0 ∧ w.stream ≠ h then .next (completeErr s wid 0x01)
      else
        let data := if dir = 0 then Except.ok [] else devRead s (readBy w.stream wid) (leAt d 16 8) len
        match data with
        | .error m => .next (workStop s wid w.stream m)
        | .ok b =>
          let s := workPut s wid { w with phase := .waiting, aux := s.elapsed }
          .next { s with out := .camera port dir (leAt d 12 4) len b :: s.out }

/-- A control transfer that the camera has not answered. -/
def camPending (s : State) (wid : Nat) : Option Work :=
  match workGet s wid with
  | some w => if w.pair.isSome && leAt w.desc 0 1 == 0x09 && w.phase == .waiting then some w else none
  | none => none

/-- CAMERA_ACK: acknowledgment code 0 ends the transfer as done; any other is the detail of a camera error (09 R296). -/
def execCameraAck (wid code : Nat) (data : List Byte) (s : State) : Host.Outcome State Fault Refusal :=
  match camPending s wid with
  | none => .next s
  | some w =>
    if code ≠ 0 then .next (complete s wid 8 code)
    else if leAt w.desc 9 1 = 1 then .next (complete s wid 0 0)
    else
      let b := data.take (leAt w.desc 10 2)
      match devWrite s (writeBy w.stream wid) (leAt w.desc 16 8) b with
      | .error m => .next (workStop s wid w.stream m)
      | .ok s => .next (complete s wid 0 b.length)

/-- CAM_CTRL_TIMEOUT: 1 s without a reply (09 R296). -/
def execCamCtrlTimeout (wid : Nat) (s : State) : Host.Outcome State Fault Refusal :=
  match camPending s wid with
  | none => .next s
  | some w => if 1000000000 ≤ s.elapsed - w.aux then .next (complete s wid 8 0xFF) else .next s

end Sys2Proof.Machine
end

