-- ==== Sys2Proof/Machine/Odometry.lean ====
section
/-! DEFINITION. Odometry and the position tracks: encoder inputs (07 R226 to R228), position messages and their
correction (07 R229, R230), positions at a time (07 R233), the motion of each channel (07 R241, R242) and distance
triggers (07 R247, R248). -/
namespace Sys2Proof.Machine

/-! ### Positions -/

/-- A position in 2^-24 mm as the 48-bit count of 1/65,536 mm (07 R232, log entry 28). -/
def pos48 (p : Int) : Nat := low (p / 256) 48

/-- The odometry position (RSMP.ODO_POS). -/
def odoPos (s : State) : Nat := pos48 s.odo.pos

/-- CH_n.OFFSET, signed 40 bits. -/
def chanOffset (s : State) (c : Nat) : Int := sx 40 (reg64 s (0x7001010 + c * 0x100))

/-- The present position of a channel's track. -/
def trackPos (s : State) (c : Nat) : Nat := low (odoPos s + chanOffset s c) 48

/-- 07 R233 `pos_at` between two samples. -/
def between (t : Nat) (a b : Nat × Nat) : Nat :=
  low (a.2 + roundEvenDiv (serialDiff 48 b.2 a.2 * (t - a.1 : Nat)) (b.1 - a.1)) 48

/-- The position at a time from samples, newest first: between the two that bracket it, the latest after all of them,
the earliest before all of them (log entry 28). -/
def posAt (t : Nat) : List (Nat × Nat) → Nat
  | [] => 0
  | [a] => a.2
  | b :: a :: rest =>
    if b.1 ≤ t then b.2 else if a.1 ≤ t then between t a b else posAt t (a :: rest)

/-- The odometry position at a time. -/
def odoAt (s : State) (t : Nat) : Nat := posAt t (s.odo.samples.map fun x => (x.1, pos48 x.2))

/-- The position of a channel's track at a time. -/
def trackAt (s : State) (c t : Nat) : Nat :=
  match s.odo.samples with
  | [] => trackPos s c
  | l => posAt t (l.map fun x => (x.1, low (pos48 x.2 + chanOffset s c) 48))

/-! ### Encoders -/

def encScale (s : State) (e : Nat) : Nat := regGet s (0x7000004 + e * 0x20)

def encGet (s : State) (e : Nat) : Encoder := (tget s.encs e).getD ⟨0, none, []⟩

def encPut (s : State) (e : Nat) (x : Encoder) : State := { s with encs := tset s.encs e x }

/-- ODO_CFG.mode, .slew and .step (07 R251). -/
def odoMode (s : State) : Nat := f (regGet s 0x7000040) 1 0

/-- The present distance of an encoder. -/
def encDist (s : State) (e : Nat) : Int := (encGet s e).count * (encScale s e : Nat)

/-- An encoder's distance at a time, interpolated as 07 R233 does. -/
def encDistAt (s : State) (e t : Nat) : Int :=
  let rec go : List (Nat × Int) → Int
    | [] => 0
    | [a] => a.2
    | b :: a :: rest =>
      if b.1 ≤ t then b.2
      else if a.1 ≤ t then a.2 + roundEvenDiv ((b.2 - a.2) * (t - a.1 : Nat)) (b.1 - a.1)
      else go (a :: rest)
  go (encGet s e).samples

/-- 07 R228: the odometry distance, at the time of a sample. -/
def odoDist (s : State) (t : Nat) : Int :=
  match odoMode s with
  | 0 => encDist s 0
  | 1 => encDist s 1
  | 2 => roundEvenDiv (encDistAt s 0 t + encDistAt s 1 t) 2
  | _ => if s.odo.using1 then encDist s 1 else encDist s 0

/-- The odometry keeps its position when its source, mode or scale changes. -/
def odoRebase (s : State) : State := { s with odo := { s.odo with lastDist := odoDist s s.time, means := [] } }

/-- CFG or SCALE of an encoder has changed: its distances start over from the present count (07 R227). -/
def encChanged (s : State) (e : Nat) : State :=
  let x := encGet s e
  if x.samples.isEmpty then s else encPut s e { x with samples := [(s.time, x.count * (encScale s e : Nat))] }

/-- 07 R228: over the last 10 ms the encoders differ by more than 5 % of the larger and more than 10 mm. -/
def encDiffer (s : State) : Bool :=
  let d := fun (e : Nat) => encDistAt s e s.time - encDistAt s e (s.time - 10000000)
  let gap := (d 0 - d 1).natAbs
  decide (10 * 2 ^ 24 < gap ∧ max (d 0).natAbs (d 1).natAbs < 20 * gap)

/-- 07 R228: the check of mode 3, which holds at every instant, and an illegal transition of encoder 0. -/
def odoCheck (s : State) (illegal0 : Bool) : State :=
  if odoMode s ≠ 3 then s
  else if illegal0 || encDiffer s then
    let s := { s with odo := { s.odo with diffAt := some s.elapsed } }
    if s.odo.using1 then s else
    logAdd (odoRebase { s with odo := { s.odo with using1 := true } }) 0x020D 7 1 1
  else s

/-- A new sample of the odometry position: the increment, changed by the correction (07 R230). -/
def odoSample (s : State) (t : Nat) : State :=
  let o := s.odo
  let D := odoDist s t
  let d := D - o.lastDist
  let lim : Int := (d.natAbs * f (regGet s 0x7000040) 15 8 / 1000 : Nat)
  let adj := clamp (-lim) lim o.remaining
  let p := o.pos + d + adj
  { s with odo := { o with pos := p, lastDist := D, remaining := o.remaining - adj, samples := (t, p) :: o.samples } }

/-! ### Channels in motion -/

/-- CH_n.PITCH. -/
def chanPitch (s : State) (c : Nat) : Nat := max 1 (regGet s (0x7001004 + c * 0x100))

/-- The stream that holds a channel, 0 for none. -/
def chanHolder (s : State) (c : Nat) : Nat :=
  match s.streams.find? fun e => e.2.state != .free && bitOf e.2.rsmpMask c with
  | some e => e.1
  | none => 0

/-- The grid position at or after p in the direction of travel. -/
def gridAhead (back : Bool) (pitch p : Nat) : Nat :=
  (if back then p / pitch * pitch else ceilDiv p pitch * pitch) % 2 ^ 48

/-- The grid position at or before p in the direction of travel (07 R242). -/
def gridBehind (back : Bool) (pitch p : Nat) : Nat := gridAhead (!back) pitch p

/-- The grid position after x in the direction of travel. -/
def gridNext (back : Bool) (pitch x : Nat) : Nat := if back then (x + 2 ^ 48 - pitch) % 2 ^ 48 else (x + pitch) % 2 ^ 48

def chanPut (s : State) (c : Nat) (x : Chan) : State := { s with chans := tset s.chans c x }

/-- A channel when it is taken by a stream, with its coefficient table once that has been read. -/
def newChan (s : State) (c : Nat) (coef : List Byte) : Chan :=
  { motion := 1, back := false, extreme := trackPos s c, next := none, lineBack := false, legFrom := 0,
    extremeAt := s.time, legs := [], stopAt := none,
    lastMove := s.elapsed, lastMovePos := trackPos s c, lines := [], coef := coef, outSeq := 0, turn := false,
    afterStop := false, dirLast := false, held := [], released := 0, trigLast := none, trigHeld := none, latches := [],
    lastOut := 0, lastFrame := [] }

/-- No line of the present direction lies at or after g, and a line of the next direction is stored: a line-scan channel produces
no line for g in it (07 R234, log entry 89). -/
def Chan.uncrossed (x : Chan) (g at_ : Nat) : Bool :=
  (selectTap x.lineBack x.lines x.leg g).isNone && x.lines.any fun p => decide (at_ < p.line.time)

/-- Once every line of a direction has been produced, the lines go on in the next one (07 R234, R242). -/
def turnLines (area : Bool) : List Leg → Chan → Chan
  | [], x => { x with legs := [] }
  | l :: ls, x =>
    let y := { x with legs := l :: ls }
    let t := { x with lineBack := l.back, legFrom := l.since, turn := true }
    match x.next with
    | some g =>
      if along x.lineBack g l.was < 0 ∨ (!area && y.uncrossed g l.at_) then turnLines area ls { t with next := some l.first }
      else y
    | none => turnLines area ls t

/-- 07 R248: a trigger is allowed on the port now. -/
def trigAllowed (s : State) (c : Nat) : Bool :=
  let port := f (chanCfg s c) 27 24
  let n := chanHolder s c
  let rate := max 1 (streamGet s n).maxRate
  (chansOf s n port).all fun k => match tget s.chans k with
    | some x => match x.trigLast with
      | some t => decide (1000000000 ≤ (s.elapsed - t) * rate)
      | none => true
    | none => true

/-- A crossing is deferred on a port: channel c's at `pos`, and no other channel's of the port, since only the most recent is
sent (07 R248). -/
def deferTrigger (s : State) (c pos : Nat) : State :=
  (chansOf s (chanHolder s c) (f (chanCfg s c) 27 24)).foldl (fun s k => match tget s.chans k with
    | some x => chanPut s k { x with trigHeld := if k = c then some pos else none }
    | none => s) s

/-- A crossing is deferred on a channel's port. -/
def trigDeferred (s : State) (c : Nat) : Bool :=
  (chansOf s (chanHolder s c) (f (chanCfg s c) 27 24)).any fun k => (tget s.chans k).any (·.trigHeld.isSome)

/-- Send a trigger packet. -/
def sendTrigger (s : State) (c pos : Nat) : State :=
  match tget s.chans c with
  | some x =>
    let port := f (chanCfg s c) 27 24
    let s := camPut (chanPut s c { x with trigLast := some s.elapsed, trigHeld := none }) port
      { camGet s port with trigs := (camGet s port).trigs ++ [pos] }
    { s with out := .trigger port pos :: s.out }
  | none => s

/-- 07 R247, R248: one crossing of a trigger position. -/
def crossTrigger (s : State) (c pos : Nat) : State :=
  match tget s.chans c with
  | some _ =>
    if trigAllowed s c && !trigDeferred s c then sendTrigger s c pos
    else bump (deferTrigger s c pos) (0x7001044 + c * 0x100)
  | none => s

/-- The trigger positions passed between the old extreme and the new one: the first, how many, and the last. -/
def crossings (back : Bool) (tp old new : Nat) : Option (Nat × Nat × Nat) :=
  let first := gridNext back tp (gridBehind back tp old)
  let last := gridBehind back tp new
  if along back first last < 0 then none else some (first, (along back first last).toNat / tp + 1, last)

/-- 07 R247, R248: every crossing of one edge. After the first of them none can be sent at once, so the others are deferred
and the last one stays. -/
def crossAll (s : State) (c : Nat) (r : Nat × Nat × Nat) : State :=
  let s := crossTrigger s c r.1
  if r.2.1 ≤ 1 then s else bumpBy (deferTrigger s c r.2.2) (0x7001044 + c * 0x100) (r.2.1 - 1)

/-- 07 R241, R242, R247: one channel after the track has moved. -/
def chanMoved (s : State) (c : Nat) : State :=
  match tget s.chans c with
  | none => s
  | some x =>
    let P := trackPos s c
    let pitch := chanPitch s c
    let far := decide (pitch ≤ (serialDiff 48 P x.lastMovePos).natAbs)
    let stood := x.motion == 3
    let x := if far then { x with lastMove := s.elapsed, lastMovePos := P, afterStop := x.afterStop || stood, stopAt := none }
      else x
    let still := stood && !far
    let ahead := along x.back x.extreme P
    let hyst : Int := (f (chanCfg s c) 23 16 * pitch : Nat)
    if 0 ≤ ahead then
      let s := chanPut s c { x with
        extreme := P, extremeAt := s.time, motion := if still then 3 else if x.back then 2 else 1 }
      let tp := match regGet s (0x7001008 + c * 0x100) with | 0 => pitch | n => n
      let port := f (chanCfg s c) 27 24
      if still || !bitOf (camCfg s port) 30 || !camUp s port then s else
      match crossings x.back tp x.extreme P with
      | some r => crossAll s c r
      | none => s
    else if hyst ≤ -ahead then
      let back := !x.back
      let leg : Leg := ⟨s.time, x.extremeAt, x.stopAt.getD x.extreme, gridBehind back pitch P, back⟩
      let y := { x with back := back, extreme := P, extremeAt := s.time, motion := if still then 3 else if back then 2 else 1,
                        stopAt := x.stopAt.map fun _ => P }
      bump (chanPut s c (turnLines (bitOf (chanCfg s c) 31) (x.legs ++ [leg]) y)) (0x7001040 + c * 0x100)
    else chanPut s c { x with motion := if still then 3 else 4 }

/-! ### The mean of two encoders (07 R228) -/

/-- Both encoders' distances at a time stand: each has a later sample, or the time base has passed the time by 100 µs, after
which a later sample changes nothing (07 R233, log entry 87). -/
def meanReady (s : State) (t : Nat) : Bool :=
  decide (t + 100000 < s.time) || [0, 1].all fun e => match (encGet s e).samples with
    | (u, _) :: _ => decide (t ≤ u)
    | [] => false

/-- Take the samples of the mean whose time has come, in order. -/
def flushMeans : List Nat → State → State
  | [], s => s
  | t :: ts, s =>
    if meanReady s t then
      flushMeans ts ((List.range 16).foldl chanMoved (odoSample { s with odo := { s.odo with means := ts } } t))
    else s

/-- What the odometry does as time passes: means are taken, and mode 3 is checked. -/
def odoTick (s : State) : State :=
  if odoMode s = 2 then flushMeans s.odo.means s else if odoMode s = 3 then odoCheck s false else s

/-- An edge on an encoder input in Dormant: the last 16 of each input are kept (14 R454). -/
def wakeEdge (s : State) (e : Nat) : State :=
  { s with power := { s.power with
    wakeEdges := tset s.power.wakeEdges e ((s.elapsed :: (tget s.power.wakeEdges e).getD []).take 16) } }

/-- ENCODER_EDGE: 07 R226 to R228, R230, R242, R247. Edges less than 500 ns apart are both counted, and counted as
lost pairs (log entry 29). -/
def execEncoderEdge (e : Nat) (q : Quad) (s : State) : Host.Outcome State Fault Refusal :=
  if s.power.mode = 2 then .next (if q == .both || decide (1 < e) then s else wakeEdge s e) else
  if !bitOf (encCfg s e) 31 then .next s else
  let x := encGet s e
  match q with
  | .both =>
    let s := bumpF s (0x7000008 + e * 0x20) 15 0
    .next (odoCheck s (e == 0))
  | _ =>
    let up := (q == .fwd) != bitOf (encCfg s e) 30
    let count := x.count + (if up then 1 else -1)
    let t := s.time - f (encCfg s e) 7 0 * 20
    let close := match x.lastEdge with
      | some l => decide (s.elapsed - l < 500)
      | none => false
    let s := if close then bumpF s (0x7000008 + e * 0x20) 31 16 else s
    let s := encPut s e { x with count := count, lastEdge := some s.elapsed,
                                 samples := (t, count * (encScale s e : Nat)) :: x.samples }
    let s := odoCheck s false
    let m := odoMode s
    if m = 2 then
      let l := insertBy (fun a b => decide (a ≤ b)) t s.odo.means
      .next (flushMeans l { s with odo := { s.odo with means := l } })
    else if e = (if m = 3 then b2n s.odo.using1 else m) then
      .next ((List.range 16).foldl chanMoved (odoSample s t))
    else .next s

/-- ODO_SOURCE_RETURN: 07 R228. -/
def execOdoSourceReturn (s : State) : Host.Outcome State Fault Refusal :=
  let quiet := match s.odo.diffAt with
    | some t => decide (1000000000 ≤ s.elapsed - t)
    | none => true
  if odoMode s == 3 && s.odo.using1 && quiet then
    .next (logAdd (odoRebase { s with odo := { s.odo with using1 := false } }) 0x020D 7 1 0)
  else .next s

/-- TRIGGER_DEFERRED: 07 R248. -/
def execTriggerDeferred (c : Nat) (s : State) : Host.Outcome State Fault Refusal :=
  match tget s.chans c with
  | some x => match x.trigHeld with
    | some p => if trigAllowed s c then .next (sendTrigger s c p) else .next s
    | none => .next s
  | none => .next s

/-- A position message for the port of POSMSG_CFG that is valid and no duplicate (07 R229). -/
def posMsgTaken (s : State) (b : List Byte) : Bool :=
  bitOf (regGet s 0x7000044) 16 && decide (b.length = 32) && leAt b 0 2 == 1 && bitOf (leAt b 22 2) 0 &&
    s.odo.lastSeq != some (leAt b 4 4)

/-- POSITION_MESSAGE: 07 R229, R230. Its error is taken at its time + 10 ms, when every sample that bears on it is in
(log entry 30). -/
def positionMessage (s : State) (b : List Byte) : State :=
  if !posMsgTaken s b then s else
  let t := leAt b 8 8
  if t + 10000000 < s.time ∨ t + 1000000000 < s.time then bumpF s 0x7000058 31 16
  else { s with odo := { s.odo with 
      lastSeq := some (leAt b 4 4),
      pending := insertBy (fun a b => decide (a.1 < b.1)) (t, leAt b 16 6) s.odo.pending } }

/-- POSITION_MESSAGE: 07 R229, R230. -/
def execPositionMessage (payload : List Byte) (s : State) : Host.Outcome State Fault Refusal :=
  .next (positionMessage s payload)

/-- CORRECTION_START: 07 R230. -/
def execCorrectionStart (s : State) : Host.Outcome State Fault Refusal :=
  match s.odo.pending with
  | [] => .next s
  | (t, p) :: rest =>
    if s.time < t + 10000000 then .next s else
    let e := serialDiff 48 p (odoAt s t)
    let step := f (regGet s 0x7000040) 31 16
    let s := { s with odo := { s.odo with pending := rest, remaining := e * 256 } }
    if step ≠ 0 ∧ step * 65536 < e.natAbs then
      .next (logAdd (bumpF s 0x7000058 15 0) 0x020E 7 1 (min (e.natAbs / 65536) (2 ^ 32 - 1)))
    else .next s

end Sys2Proof.Machine
end

