-- ==== Sys2Proof/Machine/Resample.lean ====
section
/-! DEFINITION. The resampler: positions of lines (07 R233), output lines with their taps, status and header (07 R234
to R246), standstill, area frames (07 R249, R250) and the line reserve (02 R37, 06 R220). -/
namespace Sys2Proof.Machine

/-! ### Lines in order -/

/-- LINE_POSITION_EVAL: the oldest line of the channel's port whose position is not evaluated, once the time base has
passed its time + 100 µs (07 R233). -/
def execLinePositionEval (c : Nat) (s : State) : Host.Outcome State Fault Refusal :=
  match tget s.chans c with
  | none => .next s
  | some x =>
    let lines := (camGet s (f (chanCfg s c) 27 24)).lines
    match lines.reverse.find? fun l => x.lines.all fun p => p.line.seq != l.seq with
    | none => .next s
    | some l =>
      if s.time ≤ l.time + 100000 then .next s else
      let pos := trackAt s c l.time
      let y := match x.next with
        | some _ => x
        | none => { x with next := some (gridAhead x.back (chanPitch s c) pos), lineBack := x.back }
      let z := { y with lines := (⟨l, pos⟩ :: x.lines).take (max 16 lines.length) }
      .next (chanPut s c (turnLines (bitOf (chanCfg s c) 31) z.legs z))

/-- Line of a sequence number; beyond the lines stored, the nearest one (log entry 31). -/
def tapLine (ls : List PosLine) (seq : Nat) : Option PosLine :=
  match ls.find? fun l => l.line.seq == seq with
  | some l => some l
  | none => match ls with
    | [] => none
    | l :: _ => if serialGe 32 seq l.line.seq then some l else ls.getLast?

/-- 07 R236: the bank of a spacing. -/
def bankOf (th den pitch : Nat) : Nat :=
  ([f th 7 0, f th 15 8, f th 23 16].filter fun t => t != 0 && decide (t * pitch < den * 64)).length

/-! ### Sources -/

/-- The pixel ring of a camera as a ring tensor (06 R187). -/
def ringTensor (cfg : Nat) (p : CamPlace) : Tensor :=
  let n8 := f cfg 23 20 == 0 || f cfg 23 20 == 4
  let fmt : Fmt := { code := if n8 then 1 else 2, gs := p.groupSize, side := false, adaptive := false, sums := false,
                     zp := if n8 then -128 else 0, tag := p.tagBase, wexp := 0 }
  { base := p.pixBase, chw := false, comp := false, ring := max 1 p.ringRows, word := 0, fmt := fmt, h := p.ringRows,
    w := f cfg 15 0, c := camChannels (f cfg 23 20), rh := p.ringRows, rw := f cfg 15 0, rc := camChannels (f cfg 23 20), pitch := p.rowPitch, exp := p.expBase, side := 0, sums := 0,
    weights := false }

/-- The places of a channel. -/
def chanPlace (x : Stream) (c : Nat) : Option ChanPlace :=
  match x.sched with
  | some d => d.chans.find? fun p => p.chan == c
  | none => none

/-- The values of a line, less the zero point, with their exponents, in element order. -/
def lineVals (rd : Reader) (t : Tensor) (y : Nat) : Except OpStop (List (Int × Int)) :=
  match collect (fun x => readPos rd t y x) (List.range t.w) with
  | .error e => .error e
  | .ok l => .ok (l.flatten.map fun v => (v.1 - t.fmt.zp, v.2))

/-- 07 R237: one coefficient of a bank and phase, and the phase's exponent. -/
def coefCode (coef : List Byte) (bank ph t : Nat) : Int := sx 8 (leAt coef (bank * 1024 + ph * 16 + t) 1)

def coefExp (coef : List Byte) (bank ph : Nat) : Int := sx 6 (leAt coef (bank * 1024 + ph * 16 + 8) 1)

/-- 07 R237 `rsmp_pixel`: the sum over taps (tap number, line's elements) at element k. -/
def rsmpPixel (coef : List Byte) (bank ph : Nat) (eref : Int) (taps : List (Nat × List (Int × Int))) (k : Nat) : Elem :=
  let r := accumulate 0 (taps.map fun t =>
    let v := t.2.getD k (0, 0)
    alignTotal (coefCode coef bank ph t.1 * v.1) (coefExp coef bank ph + v.2 - eref))
  ⟨r.1, b2n r.2, r.2⟩

/-- A line's own values at e_ref (04 R131). -/
def nearPixel (eref : Int) (v : Int × Int) : Elem := (⟨0, 0, false⟩ : Elem).step (alignValue v.1 0 v.2 eref)

/-- The elements of a position as the output tensor holds them (03 R73), at e_out in every format (R237), with their
counts. -/
def chanPos (d : Tensor) (eref eout : Int) (es : List Elem) : PosOut :=
  let ovf := sumN (es.map (·.ovf))
  if d.fmt.wide then
    let r := es.map fun e => wideOut e.v eref eout d.fmt.bits
    ⟨r.map (·.1), [], [], [], [], 0, 0, ovf + (r.filter (·.2)).length, es.any (·.sat)⟩
  else
    let gs := (chunks d.fmt.gs d.ng es).map fun g =>
      toCodes eref eout d.fmt.zp d.fmt.n8 d.fmt.side d.sideCap 0 (g.map (·.v))
    let all := gs.flatten
    ⟨all.map (·.code), gs.map fun _ => eout, gs.map fun g => sideRecord d (g.filterMap (·.entry)),
      gs.map fun g => sumI (g.map convValue), all.map (·.clipped), (all.filter (·.entry.isSome)).length,
      (all.filter (escFull · d.fmt.side)).length, ovf, es.any (·.sat)⟩

/-- The writes of an output row. -/
def chanRow (d : Tensor) (y : Nat) (ps : List PosOut) : Writes :=
  codeWrites d y (ps.map (·.codes)) ++
    (if d.fmt.wide then [] else
      expWrites d y (ps.map (·.exps)) ++
      (if d.fmt.side then [(d.side + d.groupIdx y 0 0 * d.sideSize, (ps.flatMap (·.sides)).flatten)] else []) ++
      (if d.fmt.sums then
        [(d.sums + d.groupIdx y 0 0 * 4, (ps.flatMap (·.sums)).flatMap fun v => leBytes 4 (low v 32))] else []))

/-- The counts of an output row in the counters of 03 R97. -/
def countRow (s : State) (ps : List PosOut) : State :=
  let clips := sumN (ps.map fun p => (p.clips.filter id).length)
  let s := bump64 s 0x1001010 clips
  let s := bumpBy s 0x1001018 (sumN (ps.map (·.escapes)))
  let s := bumpBy s 0x100101C (sumN (ps.map (·.full)))
  bumpBy s 0x1001020 (sumN (ps.map (·.ovf)))

/-! ### One output line -/

/-- How an output line comes about. -/
inductive LineWay where
  /-- in the normal course -/
  | normal
  /-- at its deadline, from its input lines (06 R222) -/
  | deadline
deriving DecidableEq, Repr

/-- What decides an output line: its taps (tap number, line), tap line i, phase, bank, den and the step that ρ is taken of;
whether it is formed from the pixel ring; a line taken as it is; and the marks nearest, loss, ρ > 1 and interpolated. -/
structure LinePlan where
  taps : List (Nat × PosLine)
  i : Nat
  phase : Nat
  bank : Nat
  den : Nat
  unit : Nat
  bypass : Bool
  single : Option PosLine
  near : Bool
  lost : Bool
  wide : Bool
  interp : Bool
deriving DecidableEq, Repr

/-- Lines lost at a full ring lie between two taps: the position is filled as at over-speed (02 R49). -/
def LinePlan.missed (p : LinePlan) : Bool := (p.taps.drop 1).any fun t => t.2.line.missed

/-- 07 R246: the status word. -/
def statusWord (p : LinePlan) (x : Chan) : Nat :=
  let gap := p.taps.any fun t => t.2.line.gap
  let rep := p.taps.any fun t => t.2.line.replaced
  let st := if p.bypass then 4 else if p.wide || gap || rep || p.near || p.missed then 3 else if p.interp then 2
    else if x.lineBack then 1 else 0
  st + 8 * b2n x.lineBack + 16 * b2n p.near + 32 * b2n rep + 64 * b2n p.lost + 128 * b2n gap + 256 * b2n x.turn +
    512 * b2n x.afterStop

/-- The time at which the track passed a position: between the newest two samples that bracket it (07 R245). -/
def passTime (s : State) (c : Nat) (back : Bool) (g : Nat) : Nat :=
  let rec go : List (Nat × Nat) → Nat
    | [] => s.time
    | [a] => a.1
    | b :: a :: rest =>
      let k := along back a.2 g
      let d := along back a.2 b.2
      if 0 ≤ k ∧ k ≤ d ∧ 0 < d then a.1 + (roundEvenDiv (k * (b.1 - a.1 : Nat)) d.toNat).toNat else go (a :: rest)
  go (s.odo.samples.map fun x => (x.1, low (pos48 x.2 + chanOffset s c) 48))

/-- 07 R245: the output header. -/
def outHeader (r : FrameRow) (seq : Nat) : List Byte :=
  leBytes 6 r.pos ++ leBytes 2 r.status ++ leBytes 8 r.time ++ leBytes 4 seq ++ leBytes 4 r.src ++ leBytes 1 r.phase ++
    leBytes 1 0 ++ leBytes 2 r.rho ++ leBytes 4 0

/-- Lines that a plan draws on: a line taken as it is, or the taps. -/
def LinePlan.drawn (p : LinePlan) : List PosLine := match p.single with
  | some l => [l]
  | none => p.taps.map (·.2)

/-- Due time of an output line: that of the earliest line it draws on plus the latency bound (06 R220). -/
def dueOf (x : Stream) (ls : List PosLine) : Nat :=
  match ls.map (·.line.time) with
  | [] => 0
  | t :: ts => ts.foldl min t + latencyBound x.cost x.maxRate x.reserve * 1000

/-- Write a row into the channel's output rings, with its counts, and hold it in the reserve; whether it was written. -/
def putRow (s : State) (c n : Nat) (hdrBase : Nat) (d : Tensor) (due : Nat) (r : FrameRow) : Bool × State :=
  match tget s.chans c with
  | none => (false, s)
  | some x =>
    match putAll s n (chanRow d x.outSeq r.px ++ [(hdrBase + x.outSeq % max 1 d.rows * 32, outHeader r x.outSeq)]) with
    | .error m => (false, streamStop s n m)
    | .ok s =>
      let s := if r.status % 8 = 3 then bump s (0x7001038 + c * 0x100) else s
      let s := if bitOf r.status 4 then bump s (0x700103C + c * 0x100) else s
      let s := if r.status % 8 = 4 then bump s (0x400C + n * 0x40) else s
      (true, chanPut s c { x with
        outSeq := (x.outSeq + 1) % 2 ^ 32, turn := false, afterStop := false, dirLast := bitOf r.status 3,
        held := x.held ++ [⟨x.outSeq, r.pos, r.status, s.time, due⟩] })

/-- The source that an output line is formed from: the pixel ring in bypass, else the enhanced lines (07 R239). -/
def lineSource (s : State) (c : Nat) (st : Stream) (place : ChanPlace) (bypass : Bool) : Option Tensor :=
  let port := f (chanCfg s c) 27 24
  if bypass then (camPlace st port).map (ringTensor (camCfg s port)) else decTensor place.enh 0 false

/-- The output tensor of a channel for lines of a source (07 R238). -/
def outTensor (s : State) (c : Nat) (place : ChanPlace) (t : Tensor) : Option Tensor :=
  let w := regGet s (0x7001020 + c * 0x100)
  (decTensor place.out 0 false).map fun d => { d with word := w, fmt := decFmt w, w := t.w, c := t.c, rw := t.w, rc := t.c }

/-- The values of the lines that a plan draws on. -/
def planVals (rd : Reader) (t : Tensor) (p : LinePlan) : Except OpStop (List (Nat × List (Int × Int))) :=
  let used := match p.single with
    | some l => [(0, l)]
    | none => p.taps
  collect (fun (u : Nat × PosLine) => (lineVals rd t u.2.line.seq).map fun v => (u.1, v)) used

/-- A bypass line whose own taps cannot be read is taken from the newest line held that can, and of zeros where there is none,
so that the raster lacks no line (01 R25; DESIGN CHOICE, log entry 88). -/
def readable (rd : Reader) (t : Tensor) (x : Chan) (p : LinePlan) : LinePlan × List (Nat × List (Int × Int)) :=
  match x.lines.findSome? fun l => match lineVals rd t l.line.seq with
    | .ok v => some (l, v)
    | .error _ => none with
  | some (l, v) => ({ p with single := some l, near := true }, [(0, v)])
  | none => match p.taps with
    | (_, l) :: _ => ({ p with single := some l, near := true }, [(0, [])])
    | [] => (p, [])

/-- The pixels of a plan from the values of its lines (07 R237). -/
def planPixels (s : State) (c : Nat) (x : Chan) (d : Tensor) (p : LinePlan) (vals : List (Nat × List (Int × Int))) :
    List PosOut :=
  let ef := regGet s (0x7001024 + c * 0x100)
  let eref := sx 8 (f ef 7 0)
  let elem := fun (k : Nat) => match p.single with
    | some _ => nearPixel eref ((vals.headD (0, [])).2.getD k (0, 0))
    | none => rsmpPixel x.coef p.bank p.phase eref vals k
  (List.range d.w).map fun i =>
    chanPos d eref (sx 8 (f ef 15 8)) ((List.range d.c).map fun ch => elem (i * d.c + ch))

/-- Bands of which an output line has been produced in bypass (06 R214). -/
def noteBypass (s : State) (n port : Nat) (p : LinePlan) : State :=
  if !p.bypass then s else
  let y := streamGet s n
  match (p.taps.find? fun t => t.2.line.seq == p.i).bind fun t => bandOf y port t.2.line with
  | some b => streamPut s n { y with bypassOut := dedup (b :: y.bypassOut) }
  | none => s

/-- Form and write one output line as planned, at position `pos` and time `time`: pixels, header, counts and the reserve.
Whether it was written, and its row. A tap that cannot be read is a fault of the stream (06 R210). -/
def writeLine (s : State) (c n pos time : Nat) (p : LinePlan) : Option FrameRow × State :=
  match tget s.chans c, chanPlace (streamGet s n) c with
  | some x, some place =>
    let st := streamGet s n
    let rd := streamReader s n 0
    match lineSource s c st place p.bypass with
    | none => (none, s)
    | some t => match outTensor s c place t with
      | none => (none, s)
      | some d =>
        let read := planVals rd t p
        let s := match read with
          | .error e => let r := stopFault s n e 0xFFFF 0xFFFFFFFF false; raiseFault r.1 n r.2
          | .ok _ => s
        let got := match read with
          | .ok v => some (p, v)
          | .error _ => if p.bypass then some (readable rd t x p) else none
        match got with
        | none => (none, s)
        | some (p, vals) =>
          let px := planPixels s c x d p vals
          let row : FrameRow := ⟨px, pos, statusWord p x, time, p.i, p.phase % 64 + 64 * p.bank,
            min (p.den * 256 / max 1 p.unit) 0xFFFF⟩
          let r := putRow s c n place.hdrBase d (dueOf st p.drawn) row
          if !r.1 then (none, r.2) else
          let s := countRow r.2 px
          let s := if px.any (·.sat) then logAdd s 0x0217 7 1 (n + 2 ^ 16 * 0xFFFF) else s
          (some row, noteBypass s n (f (chanCfg s c) 27 24) p)
  | _, _ => (none, s)

/-- Every tap's band is kept: the enhanced lines are there. -/
def tapsKept (x : Stream) (port : Nat) (taps : List (Nat × PosLine)) : Bool :=
  taps.all fun t => match bandOf x port t.2.line with
    | some b => decide (b < x.kept)
    | none => false

/-- A tap's band was produced in bypass, or the tap depends on an operation whose bound was exceeded (05 R159). -/
def tapsBypassed (x : Stream) (port : Nat) (taps : List (Nat × PosLine)) : Bool :=
  taps.any fun t => match bandOf x port t.2.line with
    | some b => x.bypassed.contains b || x.bypassLines.contains (b, lineOfBand x port t.2.line)
    | none => false

/-- Some tap's band waits for the lines of a lost camera of the stream: its lines are made in bypass at once (01 R24). -/
def tapsOpen (s : State) (x : Stream) (port : Nat) (taps : List (Nat × PosLine)) : Bool :=
  x.camBase.any fun q => (camGet s q.1).lost && taps.any fun t => match bandOf x port t.2.line with
    | some b => !bandIn x q.1 (camGet s q.1) b
    | none => true

/-- The stream's lines leave in bypass where they are not enhanced: it is in BYPASS, or it halted and step 4 stands (06
R212). -/
def Stream.bypasses (x : Stream) : Bool := x.state == .bypass || (x.state == .halted && (x.step == 4 || x.bypass47))

/-- The eight taps of a selection (07 R235). -/
def tapsOf (ls : List PosLine) (sel : TapSel) : List (Nat × PosLine) :=
  (List.range 8).filterMap fun k => (tapLine ls ((sel.i + 2 ^ 32 + k - 3) % 2 ^ 32)).map fun l => (k, l)

/-- Every tap is stored. -/
def tapsStored (ls : List PosLine) (sel : TapSel) : Bool :=
  ls.any fun l => l.line.seq == (sel.i + 4) % 2 ^ 32

/-- During a camera loss a position comes from the last line held, in bypass (06 R191). -/
def lossPlan (pitch : Nat) (l : PosLine) : LinePlan :=
  ⟨[(0, l)], l.line.seq, 0, 0, 0, pitch, true, some l, false, true, false, false⟩

/-- The plan of the channel's next output line, and its grid position; none while it cannot be made. -/
def planLine (s : State) (c n : Nat) (way : LineWay) : Option (Nat × LinePlan) :=
  match tget s.chans c with
  | none => none
  | some x =>
    match x.next with
    | none => none
    | some g =>
      if !lineCrossed s x then none else
      let st := streamGet s n
      let port := f (chanCfg s c) 27 24
      let cam := camGet s port
      let pitch := chanPitch s c
      let ls := x.lines
      let last := if cam.lost then x.lines.head?.map fun l => (g, lossPlan pitch l) else none
      match selectTap x.lineBack ls x.leg g with
      | none => last
      | some sel =>
        let taps := tapsOf ls sel
        if cam.lost && !tapsStored ls sel then last else
        let bank := bankOf (regGet s (0x700100C + c * 0x100)) sel.den pitch
        let near := if 2 * pitch < sel.den then
            tapLine ls (if sel.phase < 32 then sel.i else (sel.i + 1) % 2 ^ 32)
          else none
        let kept := tapsKept st port taps
        let bypass := way == .deadline || tapsBypassed st port taps || (st.bypasses && !kept) ||
          (!kept && tapsOpen s st port taps)
        if (way == .deadline || tapsStored ls sel) && (bypass || kept) then
          some (g, ⟨taps, sel.i, sel.phase, bank, sel.den, pitch, bypass, near, near.isSome, cam.lost,
            decide (pitch < sel.den), false⟩)
        else none

/-- The channel after its line at grid position g: the next position of the direction, or the next direction (07 R234). -/
def stepGrid (s : State) (c g : Nat) : State :=
  match tget s.chans c with
  | some x => chanPut s c (turnLines (bitOf (chanCfg s c) 31) x.legs { x with next := some (gridNext x.lineBack (chanPitch s c) g) })
  | none => s

/-- Produce the next output line by a way, and step to the grid position after it (07 R234). -/
def produceLine (s : State) (c : Nat) (way : LineWay) : State :=
  let n := chanHolder s c
  match planLine s c n way, tget s.chans c with
  | some (g, p), some x =>
    let r := writeLine s c n g (passTime s c x.lineBack g) p
    if r.1.isNone then r.2 else returnTokens (stepGrid (slotJob r.2) c g) (f (chanCfg s c) 27 24)
  | _, _ => s

/-- Every line of a plan can be read from its source. -/
def planReads (s : State) (c n : Nat) (p : LinePlan) : Bool :=
  match (chanPlace (streamGet s n) c).bind fun place => lineSource s c (streamGet s n) place p.bypass with
  | some t => match planVals (streamReader s n 0) t p with
    | .ok _ => true
    | .error _ => false
  | none => false

/-- A stream whose channels give output lines: it has started and is not being released (06 R194, R212). -/
def Stream.outputs (x : Stream) : Bool := x.active || x.state == .halted

/-- OUTPUT_LINE: 07 R234 to R246, 06 R191, R212. -/
def execOutputLine (c : Nat) (s : State) : Host.Outcome State Fault Refusal :=
  let n := chanHolder s c
  if bitOf (chanCfg s c) 31 || !(streamGet s n).outputs || !slotsFor s n 1 then .next s else .next (produceLine s c .normal)

/-- STANDSTILL: the track has moved less than one pitch in stop_time (07 R241). -/
def execStandstill (c : Nat) (s : State) : Host.Outcome State Fault Refusal :=
  match tget s.chans c with
  | some x =>
    if f (chanCfg s c) 15 0 * 1000000 ≤ s.elapsed - x.lastMove then
      .next (chanPut s c { x with motion := 3, stopAt := some (x.stopAt.getD x.extreme) })
    else .next s
  | none => .next s

/-! ### Area frames (07 R249, R250) -/

/-- The stored frames of a channel, newest first: an image's lines in order, once all its rows are stored. -/
def framesOf (st : Stream) (ls : List PosLine) : List (List PosLine) :=
  let nums := dedup (ls.filterMap (·.line.frame))
  let rows := max 1 st.cost.bandLines * frameBands st
  (nums.zipIdx.filter fun i => decide (0 < i.2) ||
      ls.any fun l => l.line.frame == some i.1 && decide (rows ≤ l.line.row + 1)).map
    fun i => (ls.filter fun l => l.line.frame == some i.1).reverse

/-- A frame's place on an axis: its position, or its time. -/
def frameAt (byTime : Bool) (fr : List PosLine) : Nat :=
  match fr with
  | l :: _ => if byTime then l.line.time else l.pos
  | [] => 0

/-- Distance from a to b on the axis, in the direction of travel. -/
def axis (byTime back : Bool) (a b : Nat) : Int := if byTime then (b : Int) - a else along back a b

/-- How an output frame is made (07 R250): the frame whose rows it shows, frame i, the frame it is blended with, the distance and
phase of R235, whether it is the nearest stored frame, and whether none after the output is stored. -/
structure FrameWay where
  shown : List PosLine
  first : List PosLine
  blend : Option (List PosLine)
  den : Nat
  phase : Nat
  near : Bool
  last : Bool
deriving DecidableEq, Repr

/-- 07 R250: the frames that an output at g is made of, with `step` from one output to the next; none without a
frame. -/
def frameWay (byTime back : Bool) (frs : List (List PosLine)) (g step : Nat) : Option FrameWay :=
  match frs.findIdx? fun fr => decide (0 ≤ axis byTime back (frameAt byTime fr) g) with
  | none => frs.getLast?.map fun fr => ⟨fr, fr, none, 0, 0, true, false⟩
  | some 0 => frs.head?.map fun fr => ⟨fr, fr, none, 0, 0, true, true⟩
  | some (k + 1) =>
    let a := frs.getD (k + 1) []
    let b := frs.getD k []
    let den := (axis byTime back (frameAt byTime a) (frameAt byTime b)).toNat
    let ph := (roundEvenDiv (axis byTime back (frameAt byTime a) g * 64) (max 1 den)).toNat
    let i := if 64 ≤ ph then b else a
    let ph := if 64 ≤ ph then 0 else ph
    some (if 2 * step < den then ⟨if ph < 32 then i else b, i, none, den, ph, true, false⟩
      else ⟨i, i, if ph = 0 then none else some b, den, ph, false, false⟩)

/-- Rows of the camera's frames. -/
def frameHeight (ls : List PosLine) : Nat := maxN ((ls.filter (·.line.frame.isSome)).map fun l => l.line.row + 1)

/-- The line of a frame that row j comes from: its own, or where it was lost at a full ring the nearest one stored, and whether it is
its own (02 R49). -/
def frameRow (fr : List PosLine) (j : Nat) : Option (PosLine × Bool) :=
  match fr.find? fun l => l.line.row == j with
  | some l => some (l, true)
  | none =>
    let gap := fun (l : PosLine) => max l.line.row j - min l.line.row j
    (fr.foldl (fun m l => match m with
      | some u => if gap l < gap u then some l else some u
      | none => some l) none).map fun l => (l, false)

/-- The plan of row j of an output frame. A row filled in place of a lost one is taken as at over-speed (02 R49). -/
def framePlan (way : FrameWay) (bypass lost : Bool) (th step j : Nat) : Option LinePlan :=
  match frameRow way.shown j, frameRow way.first j with
  | some (l, own), some (i, _) =>
    let wide := decide (step < way.den)
    let bank := bankOf th way.den (max 1 step)
    match way.blend.bind fun b => frameRow b j with
    | some (o, own2) =>
      some ⟨[(3, l), (4, o)], i.line.seq, way.phase, bank, way.den, step, bypass, none, false, lost, wide || !own || !own2, true⟩
    | none => some ⟨[(3, l)], i.line.seq, way.phase, bank, way.den, step, bypass, some l, way.near || !own, lost, wide, false⟩
  | _, _ => none

/-- Every line that an output frame draws on. -/
def FrameWay.all (w : FrameWay) : List PosLine := w.shown ++ w.blend.getD []

/-- The plans of an output frame's rows. -/
def framePlans (way : FrameWay) (bypass lost : Bool) (th step height : Nat) : List LinePlan :=
  (List.range height).filterMap (framePlan way bypass lost th step)

/-- Write the rows of an output frame; the frame is made when all of them are written. -/
def writeRows (c n pos time : Nat) : List LinePlan → List FrameRow → State → Option (List FrameRow) × State
  | [], out, s => (some out, s)
  | p :: rest, out, s =>
    let r := writeLine s c n pos time p
    match r.1 with
    | some row => writeRows c n pos time rest (out ++ [row]) r.2
    | none => (none, r.2)

/-- The place of a channel's next output frame, in time or in position, and the step between frames; none while no
frame is owed. -/
def frameOwed (s : State) (c : Nat) (x : Chan) : Option (Nat × Nat) :=
  if f (chanCfg s c) 30 29 = 0 then
    match x.next with
    | some g => if lineCrossed s x then some (g, chanPitch s c) else none
    | none => none
  else match x.latches with
    | [] => none
    | T :: _ =>
      let st := streamGet s (chanHolder s c)
      let t0 := T - latencyBound st.cost st.maxRate st.reserve * 1000
      some (t0, t0 - x.lastOut)

/-- The channel after its frame at g is made. -/
def nextFrame (s : State) (c g : Nat) (rows : List FrameRow) : State :=
  match tget s.chans c with
  | some y =>
    if f (chanCfg s c) 30 29 = 0 then stepGrid (chanPut s c { y with lastFrame := rows }) c g
    else chanPut s c { y with latches := y.latches.drop 1, lastOut := g, lastFrame := rows }
  | none => s

/-- How the output frame at g is made, and whether in bypass; none while it cannot be made. `force` makes it in bypass at its
deadline. In a camera loss a frame that no later one will complete is in bypass at once (06 R191). -/
def frameMode (s : State) (c : Nat) (force : Bool) (x : Chan) (g step : Nat) : Option (FrameWay × Bool) :=
  let st := streamGet s (chanHolder s c)
  let port := f (chanCfg s c) 27 24
  match frameWay (f (chanCfg s c) 30 29 != 0) x.lineBack (framesOf st x.window) g step with
  | none => none
  | some way =>
    let taps := way.all.map fun l => (3, l)
    let kept := tapsKept st port taps
    let bypass := force || tapsBypassed st port taps || (st.bypasses && !kept) || (!kept && tapsOpen s st port taps) ||
      ((camGet s port).lost && way.last)
    if bypass || kept then some (way, bypass) else none

/-- An output frame at g where its frames are enhanced, or in bypass. -/
def makeFrame (s : State) (c : Nat) (force : Bool) (x : Chan) (g step : Nat) : Option State :=
  match frameMode s c force x g step with
  | none => none
  | some (way, bypass) =>
    let byTime := f (chanCfg s c) 30 29 != 0
    let port := f (chanCfg s c) 27 24
    let pos := if byTime then trackAt s c g else g
    let time := if byTime then g else passTime s c x.lineBack g
    let r := writeRows c (chanHolder s c) pos time
      (framePlans way bypass (camGet s port).lost (regGet s (0x700100C + c * 0x100)) step (frameHeight x.lines)) [] s
    match r.1 with
    | some rows => some (returnTokens (nextFrame (slotJob r.2) c g rows) port)
    | none => some r.2

/-- The channel's owed frame can be made, and every line of it can be read. -/
def frameReadable (s : State) (c : Nat) : Bool :=
  match tget s.chans c with
  | none => false
  | some x => match frameOwed s c x with
    | none => false
    | some (g, step) => match frameMode s c false x g step with
      | none => false
      | some (way, bypass) =>
        bypass || (framePlans way bypass false 0 step (frameHeight x.lines)).all (planReads s c (chanHolder s c))

/-- One output frame of a channel, where it is owed and can be made. -/
def areaStep (s : State) (c : Nat) (force : Bool) : Option State :=
  match tget s.chans c with
  | some x => match frameOwed s c x with
    | some (g, step) => makeFrame s c force x g step
    | none => none
  | none => none

/-- At standstill in display mode the last output frame is repeated for a latch, row by row; where there is none, none is invented
(07 R250). It draws on no input line, and is due by the latency bound from now (log entry 31). -/
def repeatFrame (s : State) (c : Nat) (x : Chan) : State :=
  let n := chanHolder s c
  let st := streamGet s n
  match chanPlace st c with
  | none => s
  | some place =>
    let s := chanPut s c { x with latches := x.latches.drop 1 }
    x.lastFrame.foldl (fun s r => match (decTensor place.out 0 false).map fun d =>
        let w := regGet s (0x7001020 + c * 0x100)
        { d with word := w, fmt := decFmt w, w := r.px.length, rw := r.px.length } with
      | some d => (putRow s c n place.hdrBase d (s.time + latencyBound st.cost st.maxRate st.reserve * 1000) r).2
      | none => s) s

/-- AREA_FRAME: 07 R249, R250. In position mode a frame for each grid position the track has crossed, none at
standstill; in display mode one for each latch of the display, and at standstill the last frame is repeated. -/
def execAreaFrame (c : Nat) (s : State) : Host.Outcome State Fault Refusal :=
  let cfg := chanCfg s c
  match tget s.chans c with
  | none => .next s
  | some x =>
    let n := chanHolder s c
    if !bitOf cfg 31 || !(streamGet s n).outputs || !slotsFor s n 1 then .next s
    else if (x.motion = 3 ∨ !hasOdo s) ∧ f cfg 30 29 ≠ 0 ∧ !x.latches.isEmpty then .next (repeatFrame s c x)
    else .next ((areaStep s c false).getD s)

/-! ### The line reserve -/

/-- A path owes a line: it holds a ready one, or a grid position has been crossed, or a display has latched, whose line is
not ready (07 R244). -/
def owesLine (s : State) (c : Nat) : Bool :=
  match tget s.chans c with
  | some x => !x.held.isEmpty ||
      (if bitOf (chanCfg s c) 31 && f (chanCfg s c) 30 29 != 0 then !x.latches.isEmpty else lineCrossed s x)
  | none => false

/-- Margin of one path in ns: due time of the newest ready line less the present time (06 R220). -/
def pathMargin (s : State) (c : Nat) : Nat :=
  match tget s.chans c with
  | some x => match x.held.getLast? with
    | some o => o.due - s.time
    | none => 0
  | none => 0

/-- A stream's margin in µs: the least of its paths that owe a line, the whole reserve when none does (log entry 32). -/
def marginOf (s : State) (n : Nat) : Nat :=
  let x := streamGet s n
  let ms := ((bitsOf 16 x.rsmpMask).filter (owesLine s)).map fun c => min (pathMargin s c / 1000) x.reserve
  ms.foldl min x.reserve

/-- The margin of a stream is below a share, in percent, of its reserve. -/
def lowMargin (s : State) (n pct : Nat) : Bool := decide (marginOf s n * 100 < pct * (streamGet s n).reserve)

/-- A line-locked stream's margin as it stands now: since when it has been at least 90 % (06 R223). -/
def noteMargin (s : State) (n : Nat) : State :=
  let x := streamGet s n
  if x.cls ≠ .lineLocked ∨ !x.outputs then s
  else if lowMargin s n 90 then (if x.highSince.isNone then s else streamPut s n { x with highSince := none })
  else if x.highSince.isSome then s else streamPut s n { x with highSince := some s.elapsed }

/-- LINE_RESERVE_RELEASE: the oldest line of the path, after the reserve time (02 R37, R38). -/
def execLineReserveRelease (c : Nat) (s : State) : Host.Outcome State Fault Refusal :=
  match tget s.chans c with
  | some x =>
    match x.held with
    | o :: rest =>
      if o.ready + (streamGet s (chanHolder s c)).reserve * 1000 ≤ s.time then
        .next (chanPut s c { x with held := rest, released := x.released + 1 })
      else .next s
    | [] => .next s
  | none => .next s

end Sys2Proof.Machine
end

