-- ==== Sys2Proof/Machine/Display.lean ====
section
/-! DEFINITION. Display outputs: links (11 R354 to R357), modes and configuration (11 R355, R377), plane sets and
commits (11 R361 to R368), the pixel buffer and the pixels sent (11 R363, R369), frames, underrun and self refresh (11 R371 to
R375). -/
namespace Sys2Proof.Machine

/-! ### Registers of an output -/

/-- Base of DISPn less 0x60_0000_0000. -/
def dispBase (d : Nat) : Nat := 0x9000000 + d * 0x1000000

def dispReg (s : State) (d off : Nat) : Nat := regGet s (dispBase d + off)

def dispSet (s : State) (d off v : Nat) : State := regPut s (dispBase d + off) v

def dispCfg (s : State) (d : Nat) : Nat := dispReg s d 0

/-- An output before it is enabled. -/
def Disp.reset : Disp :=
  { current := none, pending := none, faulted := false, running := false, part := .blank, started := 0, idle := 0,
    psr := false, psrSink := false, linked := false, fresh := false, aborted := false, underrun := false, auxCmd := 0, buf := [],
    fetched := 0, chroma := [], line := 0, last := 0, under := none, blankAt := 0, latchedAt := none, restart := false }

def dispGet (s : State) (d : Nat) : Disp := (tget s.disps d).getD Disp.reset

def dispPut (s : State) (d : Nat) (x : Disp) : State := { s with disps := tset s.disps d x }

/-- The admitted stream that holds an output, 0 for none. -/
def dispHolder (s : State) (d : Nat) : Nat :=
  match s.streams.find? fun e => e.2.state != .free && bitOf e.2.dispMask d with
  | some e => e.1
  | none => 0

def dispEnabled (s : State) (d : Nat) : Bool := bitOf (dispCfg s d) 31

def dispVrr (s : State) (d : Nat) : Bool := bitOf (dispCfg s d) 29

/-- Fields of the timing registers. -/
def hActive (s : State) (d : Nat) : Nat := f (dispReg s d 0x8) 15 0

def hTotal (s : State) (d : Nat) : Nat := f (dispReg s d 0x8) 31 16

def vActive (s : State) (d : Nat) : Nat := f (dispReg s d 0x10) 15 0

def vTotal (s : State) (d : Nat) : Nat := f (dispReg s d 0x10) 31 16

/-- DISPn.STATUS: HPD and the link as stored, the rest from the output. -/
def dispStatus (s : State) (d : Nat) : Nat :=
  let x := dispGet s d
  let v := dispReg s d 0x30
  2 ^ 31 * b2n (x.running && !x.psr) + f v 30 23 * 2 ^ 23 + 2 ^ 22 * b2n x.psr + 2 ^ 21 * b2n x.pending.isSome +
    2 ^ 20 * b2n x.current.isSome + 2 ^ 19 * b2n x.faulted + 2 ^ 8 * dispHolder s d

/-- Whole lines that have passed on an output since a time (R358). -/
def linesSince (s : State) (d t : Nat) : Nat := (s.elapsed - t) * dispReg s d 0x4 / (1000000 * max 1 (hTotal s d))

/-- DISPn.LINE: the present line, from the time since line 0 or the latch point and the pixel clock (R358). -/
def dispLine (s : State) (d : Nat) : Nat :=
  let x := dispGet s d
  if !x.running || x.psr || x.restart then 0
  else if x.part = .active then min (linesSince s d x.started) (vActive s d - 1)
  else min (vActive s d + linesSince s d x.blankAt) (if dispVrr s d then 65535 else vTotal s d - 1)

/-- DISPn.FRAME. -/
def dispFrame (s : State) (d : Nat) : Nat := reg64 s (dispBase d + 0x38)

/-! ### Modes (R355, R377) -/

/-- The timing registers hold a mode that can run; VRR counts only with vrr 1. -/
def modeOk (s : State) (d cfg : Nat) : Bool :=
  let ha := hActive s d
  let va := vActive s d
  let hs := dispReg s d 0xC
  let vs := dispReg s d 0x14
  let vr := dispReg s d 0x18
  let pclk := f (dispReg s d 0x4) 19 0
  decide (64 ≤ ha ∧ ha ≤ 5120 ∧ 64 ≤ va ∧ va ≤ 2160 ∧ ha * va ≤ 8294400 ∧ hTotal s d ≤ 8192 ∧ vTotal s d ≤ 8192) &&
    decide (25000 ≤ pclk ∧ pclk ≤ 1000000 ∧ 1 ≤ f hs 23 12 ∧ 1 ≤ f hs 11 0 ∧ 1 ≤ f vs 23 12 ∧ 1 ≤ f vs 11 0) &&
    decide (ha + f hs 23 12 + f hs 11 0 < hTotal s d ∧ va + f vs 23 12 + f vs 11 0 < vTotal s d) &&
    (!bitOf cfg 29 || decide (f vs 23 12 + f vs 11 0 + 1 ≤ f vr 15 0 ∧ f vr 15 0 ≤ f vr 31 16 ∧ va + f vr 31 16 ≤ 16383))

/-- Link rates in units of 10 Mb/s per lane (R353). -/
def linkRate (rate : Nat) : Nat := [162, 270, 540, 810, 216, 243, 324, 432].getD rate 0

/-- The trained link carries the mode (R355). -/
def linkCarries (s : State) (d lanes rate : Nat) : Bool :=
  let bpc := if bitOf (dispCfg s d) 19 then 10 else 8
  decide (f (dispReg s d 0x4) 19 0 * 3 * bpc ≤ 2 ^ lanes * linkRate rate * 8000)

/-- The rates of the configured link type below a rate, highest first. -/
def lowerRates (edp : Bool) (rate : Nat) : List Nat :=
  let all := if edp then [3, 2, 7, 6, 1, 5, 4, 0] else [3, 2, 1, 0]
  all.filter fun r => decide (linkRate r < linkRate rate)

/-- R354: the settings tried, in order, as (lanes, rate). -/
def trainOrder (cfg : Nat) : List (Nat × Nat) :=
  let lanes := f cfg 27 26
  let rate := f cfg 25 22
  if !bitOf cfg 21 then [(lanes, rate)] else
  (List.range (lanes + 1)).reverse.flatMap fun l => (rate :: lowerRates (bitOf cfg 30) rate).map fun r => (l, r)

/-- Set link_up and what was trained, and log the change (code 0x0212); the sink receives nothing more of the frame in progress
(R357). -/
def setLink (s : State) (d : Nat) (up : Bool) (lanes rate : Nat) : State :=
  let st := dispReg s d 0x30
  if bitOf st 29 == up && !up then s else
  let s := dispPut s d { dispGet s d with linked := false }
  let s := dispSet s d 0x30 (setF (setF (setF st 29 29 (b2n up)) 28 27 lanes) 26 23 rate)
  logAdd s 0x0212 (9 + d) 1 (d + 2 ^ 8 * b2n up + 2 ^ 9 * lanes + 2 ^ 11 * rate)

/-- DISPLAY_ENABLE: R354; the settings at which the sink trains come with it. -/
def execDisplayEnable (d : Nat) (trains : List (Nat × Nat)) (psrSink : Bool) (s : State) :
    Host.Outcome State Fault Refusal :=
  let st := dispReg s d 0x30
  if !dispEnabled s d || !bitOf st 30 || bitOf st 29 then .next s else
  match (trainOrder (dispCfg s d)).find? fun t => trains.contains t && linkCarries s d t.1 t.2 with
  | some (l, r) => .next (setLink (dispPut s d { dispGet s d with psrSink := psrSink }) d true l r)
  | none => .next (logAdd s 0x021A (9 + d) 1 d)

/-! ### Plane sets (R361, R362) -/

/-- Bytes of a plane-0 row and of a chroma row. -/
def planeRow (format width : Nat) : Nat := width * ([1, 1, 2, 2, 3, 3, 4, 4].getD format 0)

def chromaRow (format width : Nat) : Nat := if format < 2 then width else if format < 4 then 2 * width else 0

/-- Formats whose chroma has half the rows. -/
def halfRows (format : Nat) : Bool := format == 0 || format == 2

/-- The record's fields. -/
def plBase0 (b : List Byte) : Nat := leAt b 0 5

def plFormat (b : List Byte) : Nat := leAt b 5 1

def plBase1 (b : List Byte) : Nat := leAt b 8 5

def plPitch0 (b : List Byte) : Nat := leAt b 16 4

def plPitch1 (b : List Byte) : Nat := leAt b 20 4

def plRing (b : List Byte) : Nat := leAt b 28 2

/-- The subcode of a record that breaks R361 or R362 or does not fit the output. -/
def planeErr (s : State) (d : Nat) (b : List Byte) : Option Nat :=
  let fm := plFormat b
  let w := leAt b 24 2
  let h := leAt b 26 2
  let ring := plRing b
  let first := leAt b 30 2
  firstErr [
    (0x01, decide (7 < fm) || !zeroAt b 6 2 || !zeroAt b 13 3 || !zeroAt b 32 32),
    (0x02, decide (plBase0 b % 64 ≠ 0 ∨ (fm < 4 ∧ plBase1 b % 64 ≠ 0))),
    (0x01, decide (plPitch0 b % 64 ≠ 0 ∨ plPitch0 b < planeRow fm w) ||
      (if fm < 4 then decide (plPitch1 b % 64 ≠ 0 ∨ plPitch1 b < chromaRow fm w)
       else decide (plBase1 b ≠ 0 ∨ plPitch1 b ≠ 0))),
    (0x01, decide (w ≠ hActive s d ∨ h ≠ vActive s d ∨ (fm < 4 ∧ w % 2 = 1))),
    (0x01, if ring = 0 then decide (first ≠ 0)
      else decide (ring < h ∨ 65534 < ring ∨ (halfRows fm ∧ ring % 2 = 1) ∨ ring ≤ first)),
    (0x01, bitOf (dispCfg s d) 20 == (fm == 5 || fm == 7))]

/-- Rows of the planes in memory. -/
def planeRows (b : List Byte) : Nat := if plRing b = 0 then leAt b 26 2 else plRing b

/-- The byte ranges of a set, row by row. -/
def planeRanges (b : List Byte) : List (Nat × Nat) :=
  let fm := plFormat b
  let n := planeRows b
  (List.range n).map (fun r => (plBase0 b + r * plPitch0 b, planeRow fm (leAt b 24 2))) ++
    (if fm < 4 then (List.range (if halfRows fm then ceilDiv n 2 else n)).map fun r =>
      (plBase1 b + r * plPitch1 b, chromaRow fm (leAt b 24 2)) else [])

/-- Bytes that one frame reads. -/
def planeBytes (b : List Byte) : Nat :=
  let fm := plFormat b
  let h := leAt b 26 2
  h * planeRow fm (leAt b 24 2) + (if halfRows fm then ceilDiv h 2 else h) * chromaRow fm (leAt b 24 2)

/-! ### Latency tolerance (R370) -/

/-- floor(occupancy / D) in ns, D being the bytes per second that the current set drains. -/
def drainTime (s : State) (d occupancy : Nat) (b : List Byte) : Nat :=
  let vb := if dispVrr s d then f (dispReg s d 0x18) 15 0 else vTotal s d - vActive s d
  occupancy * 1000000000 * (hTotal s d * (vActive s d + vb)) / max 1 (planeBytes b * dispReg s d 0x4 * 1000)

/-- Set DISPn.TOLERANCE for the occupancy of the pixel buffer. -/
def setTolerance (s : State) (d : Nat) : State :=
  let x := dispGet s d
  match x.current with
  | some p =>
    if !x.running || x.psr then dispSet s d 0x64 0xFFFFFFFF
    else dispSet s d 0x64 (min (drainTime s d x.buf.length p.bytes) 0xFFFFFFFF)
  | none => dispSet s d 0x64 0xFFFFFFFF

/-! ### Pixels (R361 to R363) -/

/-- Rows of plane 0 and of the chroma plane that display line y reads. -/
def lumaRowOf (b : List Byte) (y : Nat) : Nat := if plRing b = 0 then y else (leAt b 30 2 + y) % plRing b

def chromaRowOf (b : List Byte) (y : Nat) : Nat := if halfRows (plFormat b) then lumaRowOf b y / 2 else lumaRowOf b y

/-- Line y needs a chroma row that the line before it did not. -/
def newChroma (b : List Byte) (y : Nat) : Bool :=
  decide (plFormat b < 4) && (y == 0 || chromaRowOf b y != chromaRowOf b (y - 1))

/-- The byte ranges that line y adds to a frame's reads: its chroma row, where it is new, and its plane-0 row. -/
def lineReads (b : List Byte) (y : Nat) : List (Nat × Nat) :=
  let fm := plFormat b
  let w := leAt b 24 2
  (if newChroma b y then [(plBase1 b + chromaRowOf b y * plPitch1 b, chromaRow fm w)] else []) ++
    [(plBase0 b + lumaRowOf b y * plPitch0 b, planeRow fm w)]

/-- The 64-byte reads of a frame, in order (R369). -/
def frameReads (b : List Byte) : List (Nat × Nat) :=
  (List.range (leAt b 26 2)).flatMap fun y => (lineReads b y).flatMap fun r =>
    (List.range (ceilDiv r.2 64)).map fun i => (r.1 + 64 * i, min 64 (r.2 - 64 * i))

/-- The components of pixel x of a plane-0 row and a chroma row (R362): no filter is applied. -/
def pixelOf (fm : Nat) (row chroma : List Byte) (x : Nat) : Nat × Nat × Nat :=
  let c := x / 2
  if fm < 2 then (leAt row x 1, leAt chroma (2 * c) 1, leAt chroma (2 * c + 1) 1)
  else if fm < 4 then (leAt row (2 * x) 2 / 64, leAt chroma (4 * c) 2 / 64, leAt chroma (4 * c + 2) 2 / 64)
  else if fm < 6 then (leAt row (3 * x) 1, leAt row (3 * x + 1) 1, leAt row (3 * x + 2) 1)
  else let v := leAt row (4 * x) 4; (f v 9 0, f v 19 10, f v 29 20)

/-- A format's components have 10 bits. -/
def tenBit (fm : Nat) : Bool := fm == 2 || fm == 3 || fm == 6 || fm == 7

/-- A component of 8 or 10 bits as the link sends it (R363). -/
def sendComp (ten bpc10 : Bool) (v : Nat) : Nat :=
  if ten == bpc10 then v else if bpc10 then v * 4 else min (roundEven v 2).toNat 255

/-- All three components of a pixel. -/
def sendPixel (ten bpc10 : Bool) (p : Nat × Nat × Nat) : Nat × Nat × Nat :=
  (sendComp ten bpc10 p.1, sendComp ten bpc10 p.2.1, sendComp ten bpc10 p.2.2)

/-- DISPn.FILL as the link sends it. -/
def fillPixel (s : State) (d : Nat) : Nat × Nat × Nat :=
  let v := dispReg s d 0x1C
  sendPixel true (bitOf (dispCfg s d) 19) (f v 9 0, f v 19 10, f v 29 20)

/-! ### Latches (R365, R367, R368) -/

/-- A set that was never shown goes: its FLIP completes as cancelled and its references drop. -/
def cancelPlane (s : State) (p : Plane) : State :=
  let s := dropRefs s p.holder
  match p.wid with
  | some w => complete s w 3 0
  | none => s

/-- A latch of an output is one more frame for the channels that re-time frames to it (R368, 07 R249). -/
def noteLatch (s : State) (d : Nat) : State :=
  { s with chans := s.chans.map fun e =>
      let cfg := chanCfg s e.1
      if bitOf cfg 31 && f cfg 30 29 == d + 1 then (e.1, { e.2 with latches := e.2.latches ++ [s.time] }) else e }

/-- The pending set becomes current: the set it replaces drops its references, and its FLIP completes with the number
of the first frame that shows it. -/
def latchSet (s : State) (d : Nat) : State :=
  let x := dispGet s d
  match x.pending with
  | none => s
  | some p =>
    let s := match x.current with | some c => dropRefs s c.holder | none => s
    let s := dispPut s d { x with current := some p, pending := none, faulted := false, fresh := true, idle := 0, buf := [],
                                  fetched := 0, chroma := [], latchedAt := some s.elapsed }
    let s := noteLatch (regPut64 s (dispBase d + 0x48) s.time) d
    let s := regSetF s (dispBase d + 0x40) 30 30 (b2n p.late)
    let s := if p.late then bump s (dispBase d + 0x58) else s
    match p.wid with
    | some w => complete s w 0 ((dispFrame s d + 1) % 2 ^ 15 + 2 ^ 15 * b2n p.late)
    | none => s

/-- A message of panel self refresh on the main link. -/
def emitPsr (s : State) (d : Nat) (entry : Bool) : State :=
  if bitOf (dispReg s d 0x30) 29 then { s with out := .psr d entry :: s.out } else s

/-- PSR ends, with an exit sequence or without: the timing generator runs again and the next frame follows (R374). -/
def psrExit (s : State) (d : Nat) (send : Bool) : State :=
  let x := dispGet s d
  if x.psr then
    let s := dispPut s d { x with psr := false, idle := 0, part := .blank, restart := true }
    if send then emitPsr s d false else s
  else s

/-- The number under which a new set holds its references: that of the two which the current set does not hold. -/
def planeHolder (s : State) (d : Nat) : Nat :=
  match (dispGet s d).current with
  | some c => if c.holder = 1 + 2 * d then 2 + 2 * d else 1 + 2 * d
  | none => 1 + 2 * d

/-! ### Frames -/

/-- A frame is recorded as aborted (R368, R371). -/
def abortFrame (s : State) (d : Nat) : State :=
  let x := dispGet s d
  if x.aborted then s else
  bump (regSetF (dispPut s d { x with aborted := true }) (dispBase d + 0x40) 31 31 1) (dispBase d + 0x60)

/-! ### The pixel buffer (R369) -/

/-- A plane read of an output waits: in the line-locked read class within its stream's allowance, or as deferrable traffic
(R369, 06 R208, R209). -/
def scanWaits (s : State) (d a : Nat) : Bool :=
  let n := dispHolder s d
  if n = 0 then clockWaits s a 64 || (region a == .lpddr && ddrLineWaiting s) else ddrWaits s n 0 a

/-- Pixels of the current line that have been sent by now. -/
def pixelsSent (s : State) (d : Nat) : Nat :=
  let x := dispGet s d
  min (hActive s d) ((s.elapsed - x.started) * dispReg s d 0x4 / 1000000 - x.line * hTotal s d)

/-- The frame in progress goes on in the fill colour: its underrun is counted and logged once, and its reads stop; `under` says
in which line, and after which of its pixels, where that line has not left. With variable blanking that line is the frame's last
(R371). -/
def markUnderrun (s : State) (d : Nat) (under : Option (Nat × Nat)) : State :=
  let x := dispGet s d
  let last := match under with | some u => u.1 + 1 | none => x.line
  let s := dispPut s d { x with underrun := true, under := under, buf := if under.isSome then x.buf else [],
                                last := if dispVrr s d && x.part == .active then min x.last last else x.last }
  let s := bump s (dispBase d + 0x5C)
  let s := logAdd s 0x0211 (9 + d) 1 (d + 2 ^ 8 * (dispFrame s d % 2 ^ 24))
  setTolerance (if x.part = .active then abortFrame s d else s) d

/-- A plane read stops at the window check: the set is faulted, and that is an underrun (R372). -/
def faultSet (s : State) (d : Nat) (p : Plane) (m : MemStop) : State :=
  let s := noteStop s p.owner m
  let x := dispGet s d
  if x.underrun then dispPut s d { x with faulted := true }
  else markUnderrun (dispPut s d { x with faulted := true }) d
    (if x.part = .active then some (x.line, pixelsSent s d) else none)

/-- Make the frame's next reads while the buffer has `gap` bytes free. A read of data that cannot be corrected is not
completed, so the pixel is missing when it is needed (DESIGN CHOICE, log entry 86). -/
def fillFrom (d gap : Nat) (p : Plane) : List (Nat × Nat) → State → State
  | [], s => s
  | (a, n) :: l, s =>
    let x := dispGet s d
    if 524288 < x.buf.length + max n gap ∨ scanWaits s d a then s else
    match devRead s (readBy p.owner p.holder) a n with
    | .ok b => fillFrom d gap p l
        (ddrCharge (dispPut s d { x with buf := x.buf ++ b, fetched := x.fetched + 1 }) (dispHolder s d) 0 a n 1)
    | .error (.uncorrectable ..) => s
    | .error m => faultSet s d p m

/-- The reads that an output makes now: in blanking it fills its buffer with the current set's first rows, and in active
lines it refills it whenever 4 KiB are free (R369). -/
def refill (s : State) (d : Nat) : State :=
  let x := dispGet s d
  match x.current with
  | some p =>
    if !x.running || x.psr || x.faulted || x.underrun then s
    else setTolerance (fillFrom d (if x.part = .active then 4096 else 0) p ((frameReads p.bytes).drop x.fetched) s) d
  | none => s

/-! ### Lines sent (R363, R371) -/

/-- The pixels of a line on the main link; with the link down it is idle, and after a training the sink receives frames from
the next frame start (R357). -/
def emitLine (s : State) (d y : Nat) (px : List (Nat × Nat × Nat)) : State :=
  if bitOf (dispReg s d 0x30) 29 && (dispGet s d).linked then { s with out := .pixels d (dispFrame s d) y px :: s.out } else s

/-- Pixels of the current line that come from the plane set, if the buffer has them: none after an underrun, and of the line in
which it occurred those that were sent before. -/
def Disp.shown (x : Disp) (w : Nat) : Nat :=
  match x.under with
  | some (l, k) => if x.line = l then k else 0
  | none => if x.faulted || x.underrun then 0 else w

/-- The current line leaves: as much of it as the buffer holds, of its first `cut` pixels, and the rest in the fill colour;
and whether pixels of the plane set were missing. -/
def lineOut (s : State) (d cut : Nat) : Bool × State :=
  let x := dispGet s d
  let y := x.line
  let w := hActive s d
  let fill := fillPixel s d
  let on := fun (s : State) => dispPut s d { dispGet s d with line := y + 1 }
  match x.current with
  | none => (false, on (emitLine s d y (List.replicate w fill)))
  | some p =>
    let b := p.bytes
    let fm := plFormat b
    let nc := if newChroma b y then chromaRow fm w else 0
    let nr := planeRow fm w
    let chroma := if newChroma b y then x.buf.take nc else x.chroma
    let have_ := (x.buf.length - nc) / max 1 (planeRow fm 1)
    let k := min (min cut (x.shown w)) (min have_ w)
    let row := (x.buf.drop nc).take nr
    let px := (List.range k).map fun i => sendPixel (tenBit fm) (bitOf (dispCfg s d) 19) (pixelOf fm row chroma i)
    let buf := if x.underrun then [] else x.buf.drop (nc + nr)
    (decide (k < w) && !x.underrun && !x.faulted, on (emitLine (dispPut s d { x with buf := buf, chroma := chroma }) d y
      (px ++ List.replicate (w - k) fill)))

/-- The current line leaves; a pixel that is needed and is not there is an underrun (R371), and the line boundary states the
tolerance again (R370). -/
def sendLine (s : State) (d cut : Nat) : State :=
  let r := lineOut s d cut
  if r.1 then markUnderrun r.2 d none else refill (setTolerance r.2 d) d

/-- Send k lines in order. -/
def sendLines (d : Nat) : Nat → State → State
  | 0, s => s
  | k + 1, s => sendLines d k (sendLine s d (hActive s d))

/-- Lines of the frame whose last pixel clock has passed. -/
def linesDue (s : State) (d : Nat) : Nat :=
  min (dispGet s d).last (linesSince s d (dispGet s d).started)

/-- Lines of an output that have ended leave, and its buffer is filled. -/
def scanOut (s : State) (d : Nat) : State :=
  let x := dispGet s d
  if !x.running || x.psr then s
  else if x.part ≠ .active then refill s d
  else sendLines d (linesDue s d - x.line) (refill s d)

/-- The latch point: R365, R369, R373. After an underrun with variable blanking the next frame waits for no commit (R371). -/
def latchPoint (s : State) (d : Nat) : State :=
  let x := dispGet s d
  let s := if x.aborted then s else regSetF s (dispBase d + 0x40) 31 31 0
  let soon := if x.underrun ∧ dispVrr s d then some s.elapsed else none
  let s := latchSet (dispPut s d { x with part := .blank, buf := [], fetched := 0, chroma := [], underrun := false,
                                          under := none, blankAt := s.elapsed, latchedAt := soon }) d
  let y := dispGet s d
  let frames := f (dispCfg s d) 15 8
  let sleep := bitOf (dispCfg s d) 30 && bitOf (dispCfg s d) 28 && !dispVrr s d && y.psrSink && x.pending.isNone &&
    decide (frames ≤ y.idle)
  let s := if sleep then emitPsr (dispPut s d { y with psr := true }) d true else s
  setTolerance (refill s d) d

/-- The lines of the frame in progress have all ended: its latch point has come (R358). -/
def frameOver (s : State) (d : Nat) : Bool :=
  let x := dispGet s d
  x.running && !x.psr && x.part == .active && decide (x.last ≤ linesSince s d x.started)

/-- The frame's lines that have not left leave, and its latch point follows. -/
def endFrame (s : State) (d : Nat) : State := latchPoint (sendLines d ((dispGet s d).last - (dispGet s d).line) s) d

/-- FRAME_LATCH: the first pixel clock of line v_active (R358, R365). -/
def execFrameLatch (d : Nat) (s : State) : Host.Outcome State Fault Refusal :=
  .next (if frameOver s d then endFrame s d else s)

/-- What an output does as time passes: its lines leave and its buffer is filled; with variable blanking, the latch point
follows an underrun at the line boundary (R371). -/
def scanTick (s : State) (d : Nat) : State :=
  let s := scanOut s d
  let x := dispGet s d
  if x.underrun && dispVrr s d && frameOver s d then endFrame s d else s

/-- A latch point whose time has come. -/
def latchDue (s : State) (d : Nat) : State := if frameOver s d then endFrame s d else s

/-! ### Commits (R364 to R366) -/

/-- A commit by an owner: the subcode that refuses it, or the state after it (R364 to R366): a latch point whose
time has come is before it. -/
def commitPlane (s : State) (d owner at_ : Nat) (wid : Option Nat) : Except (State × Nat) State :=
  if at_ % 64 ≠ 0 then .error (s, 0x02) else
  match devRead s (readBy owner 0) at_ 64 with
  | .error m => .error (noteStop s owner m, 0x08)
  | .ok b =>
    match planeErr s d b with
    | some c => .error (s, c)
    | none =>
      let s := latchDue s d
      let x := dispGet s d
      let s := match x.pending with | some p => cancelPlane s p | none => s
      let blank := !x.psr && x.running && x.part == .blank && !x.restart
      let late := blank && !dispVrr s d
      let h := planeHolder s d
      let s := takeRefs (dropRefs s h) h (planeRanges b)
      let s := dispPut s d { dispGet s d with pending := some ⟨b, owner, wid, late, h⟩ }
      .ok (if x.psr then psrExit (latchSet s d) d true
        else if blank && dispVrr s d then latchSet s d else s)

/-- FLIP: R364, 09 R290. Its work waits until its set latches. -/
def execFlip (wid : Nat) (s : State) : Host.Outcome State Fault Refusal :=
  match startedAs s wid 0x0B with
  | none => .next s
  | some w =>
    let d := leAt w.desc 8 1
    if w.cancelled then .next (complete s wid 3 0)
    else if 1 < d ∨ w.stream ≠ dispHolder s d then .next (completeErr s wid 0x01)
    else match commitPlane (workPut s wid { w with phase := .waiting }) d w.stream (leAt w.desc 16 8) (some wid) with
      | .ok s => .next s
      | .error (s, c) => .next (completeErr s wid c)

/-! ### Frame starts and underruns -/

/-- The next frame can start: at once where the timing generator starts anew; in fixed timing when h_total × v_total pixel clocks
have passed since line 0 (R359); in variable blanking at a line boundary after vblank_min, where a commit has latched in this
blanking a full line before it, or after vblank_max (R360). -/
def frameDue (s : State) (d : Nat) : Bool :=
  let x := dispGet s d
  let pclk := dispReg s d 0x4
  let line := 1000000 * hTotal s d
  let b := linesSince s d x.blankAt
  let v := dispReg s d 0x18
  if x.restart then true
  else if dispVrr s d then
    decide (f v 31 16 ≤ b) || (decide (f v 15 0 ≤ b) && match x.latchedAt with
      | some t => decide ((t - x.blankAt) * pclk + line ≤ b * line)
      | none => false)
  else decide (line * vTotal s d ≤ (s.elapsed - x.started) * pclk)

/-- What the link tells the sink of a frame: h_total, h_active, where horizontal sync begins, h_sync with its polarity, the same
vertically (R358), and the colorimetry, which RGB ignores, and range fields (R363, R377). -/
def frameAttrs (s : State) (d : Nat) : List Nat :=
  let h := dispReg s d 0xC
  let v := dispReg s d 0x14
  let c := dispCfg s d
  [hTotal s d, hActive s d, hActive s d + f h 23 12, f h 31 31 * 2 ^ 31 + f h 11 0, vTotal s d, vActive s d, vActive s d + f v 23 12,
    f v 31 31 * 2 ^ 31 + f v 11 0, if bitOf c 20 then f c 18 17 else 0, f c 16 16]

/-- FRAME_START: line 0 of the next frame (R358 to R360, R368, R372, R373). While its pixel clock has no lock, every frame
underruns (14 R455 class 8). -/
def execFrameStart (d : Nat) (s : State) : Host.Outcome State Fault Refusal :=
  let x := dispGet s d
  if !x.running || x.psr || x.part == .active || !frameDue s d then .next s else
  let s := regPut64 s (dispBase d + 0x38) ((dispFrame s d + 1) % 2 ^ 64)
  let s := if x.fresh then regPut64 s (dispBase d + 0x50) s.time else s
  let idle := if x.fresh || x.pending.isSome then 0 else x.idle + 1
  let up := bitOf (dispReg s d 0x30) 29
  let s := dispPut s d { x with part := .active, started := s.elapsed, idle := idle, fresh := false, aborted := false,
                                underrun := false, under := none, line := 0, last := vActive s d, linked := up, restart := false }
  let s := if up then { s with out := .frame d (dispFrame s d) (frameAttrs s d) :: s.out } else s
  .next (if x.faulted then abortFrame s d
    else if s.power.unlocked.contains (2, d) && x.current.isSome then markUnderrun s d (some (0, 0)) else s)

/-- A pixel that is needed now is not in the buffer (R371): the current line is finished in the fill colour; with variable
blanking the latch point follows at the next line boundary. A plane read that stops at the window check marks the set
(R372). -/
def underrun (d : Nat) (s : State) : State :=
  let x := dispGet s d
  if !x.running || x.psr || x.part != .active || x.current.isNone || x.faulted || x.underrun ||
      decide (x.last ≤ x.line) then s else
  let s := refill s d
  if (dispGet s d).underrun then s
  else markUnderrun s d (some (x.line, min (pixelsSent s d) (hActive s d - 1)))

/-- UNDERRUN: R371, R372. -/
def execUnderrun (d : Nat) (s : State) : Host.Outcome State Fault Refusal := .next (underrun d s)

/-! ### Configuration, HPD and disabling -/

/-- R375, R376: the output stops at the end of its current line, which a partial reset finishes in the fill colour. -/
def dispStop (s : State) (d : Nat) (completions : Bool) : State :=
  let x := dispGet s d
  let s := if x.running && !x.psr && x.part == .active && decide (x.line < x.last) then
      let t := scanOut s d
      (lineOut t d (if completions then hActive t d else pixelsSent t d)).2
    else s
  let s := match x.pending with
    | some p => if completions then cancelPlane s p else dropRefs s p.holder
    | none => s
  let s := match x.current with | some p => dropRefs s p.holder | none => s
  let s := dispPut s d { Disp.reset with auxCmd := x.auxCmd }
  let s := setLink s d false 0 0
  dispSet s d 0x64 0xFFFFFFFF

/-- The display domain is powered while an output is enabled (14 R445). -/
def dispPower (s : State) : State := setPower s 5 (dispEnabled s 0 || dispEnabled s 1)

/-- A write of DISPn.CFG with legal field values (R355, R373, R374, R377): none where it is refused. -/
def writeDispCfg (s : State) (d v : Nat) : Option State :=
  let old := dispCfg s d
  let v := v / 256 * 256
  if bitOf old 31 then
    if v = setF old 31 31 0 then some (dispPower (dispSet (dispStop s d true) d 0 v))
    else if v = old then none
    else if v = setF old 28 28 0 then some (psrExit (dispSet s d 0 v) d true)
    else if v = setF old 28 28 1 ∧ bitOf old 30 then some (dispSet s d 0 v)
    else none
  else if bitOf v 31 then
    if modeOk s d v then
      some (dispPower (dispPut (regPut64 (dispSet s d 0 v) (dispBase d + 0x38) 0) d
        { Disp.reset with running := true, restart := true, pending := (dispGet s d).pending, auxCmd := (dispGet s d).auxCmd }))
    else none
  else some (dispSet s d 0 v)

/-- HPD_EVENT: R357, R374. A high level lets DISPLAY_ENABLE train the link again. -/
def execHpdEvent (d : Nat) (ev : HpdEvent) (s : State) : Host.Outcome State Fault Refusal :=
  match ev with
  | .high => .next (regSetF s (dispBase d + 0x30) 30 30 1)
  | .lowOver2ms => .next (psrExit (setLink (regSetF s (dispBase d + 0x30) 30 30 0) d false 0 0) d false)
  | .pulseLost => .next (setLink s d false 0 0)

/-! ### AUX (R356) -/

/-- AUX_DONE: the result of the transaction, after any DEFER retries, at most 4 ms after the write (R356). -/
def execAuxDone (d : Nat) (reply : AuxReply) (s : State) : Host.Outcome State Fault Refusal :=
  if !bitOf (dispReg s d 0x84) 31 then .next s else
  let cmd := (dispGet s d).auxCmd
  let b := reply.data.take (min 16 (f cmd 23 20 + 1))
  let reading := f cmd 26 24 % 2 == 1
  let put := fun (s : State) (k : Nat) =>
    if 4 * k < b.length then dispSet s d (0x74 + 4 * k) (leNat (slice b (4 * k) 4)) else s
  let s := if reading then (List.range 4).foldl put s else s
  .next (dispSet s d 0x84 (b.length * 8 + reply.code % 8))

end Sys2Proof.Machine
end

