-- ==== Sys2Proof/Machine/Fabric.lean ====
section
/-! DEFINITION. The Pelud fabric: routes (12 R396 to R401), virtual channels and credits (12 R384 to R386), link
frames and retry (12 R379 to R383), training (12 R393 to R395), link failure (12 R402, R403) and the service of
requests that arrive (12 R389, R390, R405). -/
namespace Sys2Proof.Machine

/-! ### Maintenance tokens (14 R460) -/

/-- The token an activity takes for a target. -/
def tokenOf (act target : Nat) : Nat :=
  if act = 1 ∨ act = 2 then target else if act = 3 then 8 + target else if act = 4 then 18
  else if act = 5 then 10 + target else if act = 6 then 16 else 17

def takeToken (s : State) (act target : Nat) : State :=
  let k := tokenOf act target
  logAdd (consIssue { s with tokens := tset s.tokens k ⟨act, target, false⟩ } 38 1) 0x0301 13 0 (act + 2 ^ 8 * k)

/-- An activity ends: outcome 0 done, 1 stopped, 2 ended by a partial reset. -/
def giveToken (s : State) (k outcome : Nat) : State :=
  match tget s.tokens k with
  | some t =>
    logAdd (consReturn { s with tokens := tdel s.tokens k } 38 1) 0x0302 13 0 (t.activity + 2 ^ 8 * k + 2 ^ 16 * outcome)
  | none => s

/-- 14 R461: the token held by an activity that conflicts with a start of `act` on `target`. -/
def tokenConflict (s : State) (act target : Nat) : Option Token :=
  (s.tokens.find? fun e =>
    let b := e.2.activity
    let same := e.1 == tokenOf act target
    if act ≤ 2 then decide (b ≤ 2) && same
    else if act = 3 then b == 3 && same
    else if act = 4 then b == 4
    else if act = 5 then (b == 5 && same) || b == 6
    else if act = 6 then b == 5 || b == 6
    else b == 7).map (·.2)

/-! ### Ports -/

def portGet (s : State) (p : Nat) : FPort := s.fab.ports.getD p FPort.reset

def portPut (s : State) (p : Nat) (x : FPort) : State :=
  { s with fab := { s.fab with ports := modAt s.fab.ports p fun _ => x } }

def fabStatus (s : State) (p : Nat) : Nat := regGet s (0xB001004 + p * 0x40)

/-- FAB.PORT_p.STATUS.state: 0 disabled, 1 training, 2 up, 3 down, 4 excluded, 5 miscabled. -/
def fabState (s : State) (p : Nat) : Nat := f (fabStatus s p) 31 29

def setFabState (s : State) (p st : Nat) : State := regSetF s (0xB001004 + p * 0x40) 31 29 st

def fabCfg (s : State) (p : Nat) : Nat := regGet s (0xB001000 + p * 0x40)

/-- The port carries routed packets. -/
def fabUp (s : State) (p : Nat) : Bool := fabState s p == 2

/-! ### Routes (12 R396 to R398) -/

/-- FAB.NODE: this device's number, and whether it is assigned. -/
def ownNode (s : State) : Nat := f (regGet s 0xB000000) 11 0

def assigned (s : State) : Bool := bitOf (regGet s 0xB000000) 31

/-- Size of dimension d (0 X, 1 Y, 2 Z). -/
def dimSize (s : State) (d : Nat) : Nat := f (regGet s 0xB000004) (4 * d + 3) (4 * d) + 1

/-- Coordinate of a node in dimension d. -/
def coord (node d : Nat) : Nat := f node (4 * d + 3) (4 * d)

/-- The node with one coordinate replaced. -/
def withCoord (node d c : Nat) : Nat := setF node (4 * d + 3) (4 * d) c

/-- Every coordinate lies within the torus. -/
def inTorus (s : State) (node : Nat) : Bool := (List.range 3).all fun d => decide (coord node d < dimSize s d)

/-- The link from a node over a port is out of routing: named at either end. -/
def linkOut (ex : List (Nat × Nat)) (n node port d : Nat) : Bool :=
  let c := coord node d
  let peer := withCoord node d (if port % 2 = 0 then (c + 1) % n else (c + n - 1) % n)
  ex.contains (node, port) || ex.contains (peer, if port % 2 = 0 then port + 1 else port - 1)

/-- The path from a node by k hops in a direction holds no excluded link. -/
def pathClear (ex : List (Nat × Nat)) (n d port : Nat) : Nat → Nat → Bool
  | 0, _ => true
  | k + 1, node =>
    let c := coord node d
    let next := withCoord node d (if port % 2 = 0 then (c + 1) % n else (c + n - 1) % n)
    !linkOut ex n node port d && pathClear ex n d port k next

/-- Trained width of a port, as a number of lanes. -/
def trainedWidth (s : State) (p : Nat) : Nat := 4 / 2 ^ f (fabStatus s p) 28 27

/-- 12 R397, R398: the port for a hop in dimension d towards a destination, none when both ways are blocked. -/
def dimPort (s : State) (dst d : Nat) : Option Nat :=
  let n := dimSize s d
  let own := ownNode s
  let delta := (coord dst d + n - coord own d) % n
  let even := sumN (((List.range 3).filter (· != d)).map (coord dst)) % 2 == 0
  let tiePlus := if n = 2 ∧ trainedWidth s (2 * d) ≠ trainedWidth s (2 * d + 1) then
      decide (trainedWidth s (2 * d + 1) < trainedWidth s (2 * d)) else even
  let plus := decide (2 * delta < n) || (decide (2 * delta = n) && tiePlus)
  let first := if plus then 2 * d else 2 * d + 1
  let other := if plus then 2 * d + 1 else 2 * d
  let hops := fun (p : Nat) => if p % 2 = 0 then delta else n - delta
  let ok := fun (p : Nat) => pathClear s.fab.built n d p (hops p) own
  if ok first then some first else if ok other then some other else none

/-- The dimensions in which a packet has distance to cover, in order. -/
def dimsLeft (s : State) (dst : Nat) : List Nat := (List.range 3).filter fun d => coord dst d != coord (ownNode s) d

/-- A route: a port, or the reason of a refusal. -/
def nextHop (s : State) (dst : Nat) : Except Nat Nat :=
  if !assigned s || !inTorus s dst then .error 6 else
  match dimsLeft s dst with
  | [] => .error 6
  | d :: _ => match dimPort s dst d with
    | some p => .ok p
    | none => .error 5

/-- 12 R399: the rest of the path in a port's dimension crosses the dateline. -/
def crossesDateline (s : State) (dst port : Nat) : Bool :=
  let d := port / 2
  if port % 2 = 0 then decide (coord dst d < coord (ownNode s) d) else decide (coord (ownNode s) d < coord dst d)

/-! ### Packets -/

/-- The 16-byte header of a packet (12 R387). -/
def pkHeader (p : Packet) : List Byte :=
  leBytes 1 p.type ++ leBytes 1 (p.vc % 16 + 16 * b2n p.ll) ++ leBytes 2 p.dst ++ leBytes 2 p.src ++ leBytes 1 (p.stream % 128) ++
    leBytes 1 p.dlen ++ leBytes 5 p.addr ++ leBytes 1 p.hops ++ leBytes 2 p.tag

/-- A packet on the link: its header and its data. -/
def pkBytes (p : Packet) : List Byte := pkHeader p ++ p.data

/-- Bytes of data that follow a header: dlen units of 16, but none after a READ, whose dlen is the length it asks for (12 R387,
R388). -/
def pkTail (h : List Byte) : Nat := if leAt h 0 1 = 2 then 0 else leAt h 7 1 * 16

/-- The packet of a header and its data. -/
def decPacket (h data : List Byte) : Packet :=
  ⟨leAt h 0 1, leAt h 1 1 % 16, bitOf (leAt h 1 1) 4, leAt h 2 2, leAt h 4 2, leAt h 6 1 % 128, leAt h 7 1, leAt h 8 5, leAt h 13 1,
    leAt h 14 2, data⟩

/-- The packets of a run of bytes, and what is left of one that goes on in the next frame (12 R379, R387). -/
def cutPackets : Nat → List Byte → List Packet × List Byte
  | 0, b => ([], b)
  | n + 1, b =>
    let k := 16 + pkTail b
    if b.length < 16 ∨ b.length < k then ([], b) else
    let r := cutPackets n (b.drop k)
    (decPacket (b.take 16) (slice b 16 (k - 16)) :: r.1, r.2)

/-- CRC-32 of IEEE 802.3. -/
def crcStep (c : Nat) (b : Byte) : Nat :=
  (List.range 8).foldl (fun c _ => c / 2 ^^^ (if c % 2 = 1 then 0xEDB88320 else 0)) (c ^^^ b.toNat)

def crc32 (b : List Byte) : Nat := b.foldl crcStep 0xFFFFFFFF ^^^ 0xFFFFFFFF

/-- Bytes of a packet on the link (12 R387). -/
def pkSize (p : Packet) : Nat := 16 + p.data.length

def pkCells (p : Packet) : Nat := ceilDiv (pkSize p) 64

/-- Class of a packet by its virtual channel: 0 LL, 3 RS, 6 DF, 9 M. -/
def pkBase (p : Packet) : Nat := p.vc / 3 * 3

/-- Cells free on a VC of a port (12 R385). -/
def freeCells (s : State) (p vc : Nat) : Nat :=
  let x := portGet s p
  x.granted.getD vc 0 + x.returned.getD vc 0 - x.consumed.getD vc 0

/-- A link-local packet. -/
def localPacket (s : State) (type : Nat) (addr tag : Nat) (data : List Byte) : Packet :=
  ⟨type, 9, false, 0, if assigned s then ownNode s else 0, 0, data.length / 16, addr, 0, tag, data⟩

/-- Frames that a packet takes. -/
def pkFrames (p : Packet) : Nat := ceilDiv (pkSize p) 256

/-- Put a packet on the link in frames of its own, which NULL packets fill up (log entry 104); waiting cells go back with the
first (12 R379, R382, R385). -/
def sendFrames (s : State) (p : Nat) (pk : Packet) : State :=
  let x := portGet s p
  let k := pkFrames pk
  let b := pkBytes pk ++ List.replicate (256 * k - pkSize pk) 0
  let v := ((List.range 10).find? fun v => x.owed.getD v 0 != 0).getD 0
  let n := min (x.owed.getD v 0) 15
  let frames := (List.range k).map fun i =>
    (⟨(x.txSeq + i) % 4096, slice b (256 * i) 256, if i + 1 = k then [pk] else [], if i = 0 then v else 0, if i = 0 then n else 0, 0, s.elapsed⟩ :
      TxFrame)
  let s := portPut s p { x with
    txSeq := (x.txSeq + k) % 4096, retry := x.retry ++ frames, owed := modAt x.owed v fun c => c - n,
    consumed := modAt x.consumed pk.vc fun c => c + pkCells pk }
  consIssue s (16 + p) (pkCells pk)

/-- The packet can go out on the port now: the retry buffer has room and the cells are free. -/
def canSend (s : State) (p : Nat) (pk : Packet) : Bool :=
  (fabUp s p || (fabState s p == 5 && pk.vc == 9)) && decide ((portGet s p).retry.length + pkFrames pk ≤ 1024) &&
    decide (pkCells pk ≤ freeCells s p pk.vc)

/-- 12 R386: rank of a packet at a port. -/
def pkRank (p : Packet) : Nat :=
  if pkBase p = 0 ∨ (pkBase p = 3 ∧ p.ll) then 0 else if pkBase p = 9 then 1 else if pkBase p = 3 then 2 else 3

/-- 12 R400: the ports on which a packet may escape, in order. One whose port is down takes the other port to the same
neighbour in a dimension of size 2, or waits (12 R402 step 1). -/
def escapePorts (s : State) (p dst : Nat) : List Nat :=
  let twin := if dimSize s (p / 2) = 2 then [if p % 2 = 0 then p + 1 else p - 1] else []
  let later := if fabUp s p then ((dimsLeft s dst).drop 1).filterMap fun d => dimPort s dst d else []
  twin ++ later

/-- The input queue in which a packet waits: one for each VC of each input port, and those of this node's own packets. -/
def Waiting.input (w : Waiting) : Nat :=
  match w.holds with
  | some (p, v, _) => p * 10 + v
  | none => 60 + w.packet.vc

/-- Turn of a waiting packet at its port, least first: its rank; in the first rank LL and RS in rotation; then the input queues
in rotation, each in order (12 R386). -/
def Waiting.turn (x : FPort) (w : Waiting) : Nat :=
  let r := pkRank w.packet
  let cls := if r = 0 then (pkBase w.packet / 3 + 9 - x.lastClass) % 10 else 0
  (r * 10 + cls) * 128 + (w.input + 127 - x.lastInput.getD r 0) % 128

/-- The first packet of its input queue. -/
def headOfInput (q : List Waiting) (i : Nat) : Bool :=
  match q[i]? with
  | some w => (q.take i).all fun v => v.input != w.input
  | none => false

/-- A packet leaves the buffer of its input port, whose cells go back to the peer (12 R385). -/
def leaveInput (s : State) (w : Waiting) : State :=
  match w.holds with
  | some (p, v, n) => let x := portGet s p; portPut s p { x with owed := modAt x.owed v fun c => c + n }
  | none => s

/-- Send the packets of a port's queue that can go, in the order of R386; one that lacks cells may escape (12 R400). A packet
that waits keeps its cells (01 R23). -/
def drainPort : Nat → State → Nat → State
  | 0, s, _ => s
  | n + 1, s, p =>
    let x := portGet s p
    let heads := x.queue.zipIdx.filter fun e => headOfInput x.queue e.2
    let best := (heads.filter fun e => canSend s p e.1.packet).foldl (fun b e => match b with
      | some (c : Waiting × Nat) => if e.1.turn x < c.1.turn x then some e else b
      | none => some e) none
    match best with
    | some (w, i) =>
      let s := portPut s p { x with queue := x.queue.eraseIdx i, lastInput := modAt x.lastInput (pkRank w.packet) fun _ => w.input,
                                    lastClass := if pkRank w.packet = 0 then pkBase w.packet / 3 else x.lastClass }
      drainPort n (leaveInput (sendFrames s p w.packet) w) p
    | none =>
      match heads.findSome? fun e =>
          if e.1.packet.vc = 9 || (fabUp s p && decide (pkCells e.1.packet ≤ freeCells s p e.1.packet.vc)) then none else
          let pk := { e.1.packet with vc := pkBase e.1.packet + 2 }
          ((escapePorts s p pk.dst).find? fun q => canSend s q pk).map fun q => (e, q, pk) with
      | some (e, q, pk) =>
        drainPort n (leaveInput (sendFrames (portPut s p { x with queue := x.queue.eraseIdx e.2 }) q pk) e.1) p
      | none => s

/-- CREDIT packets return the cells that a port still owes where nothing else is to be sent (12 R385). -/
def creditPort : Nat → State → Nat → State
  | 0, s, _ => s
  | n + 1, s, p =>
    let pk := localPacket s 0x09 0 0 []
    if (portGet s p).owed.all (· == 0) || !(portGet s p).queue.isEmpty || !canSend s p pk then s
    else creditPort n (sendFrames s p pk) p

/-- Every port sends what can go, and returns its cells. -/
def drainAll (s : State) (p : Nat) : State :=
  let s := drainPort (portGet s p).queue.length s p
  (List.range 6).foldl (fun s q => creditPort 64 s q) s

/-- Queue a packet, with the input cells it holds, at a port and send what can go. -/
def queueFrom (s : State) (p : Nat) (w : Waiting) : State :=
  let x := portGet s p
  drainAll (portPut s p { x with queue := x.queue ++ [w] }) p

/-- Queue a packet of this node at a port. -/
def queueAt (s : State) (p : Nat) (pk : Packet) : State := queueFrom s p ⟨pk, none⟩

/-- Link-local packets on every port that is up but one. -/
def broadcast (s : State) (except : Option Nat) (pk : Packet) : State :=
  (List.range 6).foldl (fun s p => if fabUp s p && some p != except then queueAt s p pk else s) s

/-- A packet that holds cells of an input port leaves this node by its route (12 R397 to R400), or the reason it cannot. -/
def routeFrom (s : State) (w : Waiting) : Except Nat State :=
  let pk := w.packet
  match nextHop s pk.dst with
  | .error r => .error r
  | .ok p =>
    .ok (queueFrom s p { w with packet :=
      { pk with vc := pkBase pk + (if crossesDateline s pk.dst p then 0 else 1) } })

/-- A packet of this node leaves by its route. -/
def routeOut (s : State) (pk : Packet) : Except Nat State := routeFrom s ⟨pk, none⟩

/-! ### Responses -/

/-- A response to a request (12 R387, R388). -/
def response (s : State) (q : Packet) (type addr : Nat) (data : List Byte) : Packet :=
  ⟨type, 3, pkBase q == 0, q.src, ownNode s, q.stream, data.length / 16, addr, 0, q.tag, data⟩

/-- Send a response; one that has no route is lost, and its requester times out (12 R391). -/
def respond (s : State) (q : Packet) (type addr : Nat) (data : List Byte) : State :=
  match routeOut s (response s q type addr data) with
  | .ok s => s
  | .error _ => s

/-- Packets discarded at a port, 7 for none: counted and logged (12 R391, R402, R405, 14 R467). -/
def discard (s : State) (port n : Nat) : State :=
  logAdd (bumpBy s 0xB000018 n) 0x0208 11 1 (port + 2 ^ 16 * min n 65535)

/-- The packet types that a response answers (12 R388). -/
def isRequest (q : Packet) : Bool := [0x01, 0x02, 0x06, 0x07, 0x0B].contains q.type || decide (0x10 < q.type)

/-- REFUSE with a reason (12 R390), counted, and logged for R33 and R401; a response that cannot go on is discarded. -/
def refuseTo (s : State) (q : Packet) (reason : Nat) : State :=
  if !isRequest q then bump s 0xB000018 else
  let s := bumpF s 0xB000010 15 0
  let s := if reason = 3 ∨ reason = 7 then logAdd s 0x0209 11 1 (reason + 2 ^ 16 * q.src) else s
  respond s q 0x05 reason []

/-- Where a request stops at its destination (12 R389, R390): the reason, and the stop to note. -/
def fabricStop (s : State) (p : Packet) (n : Nat) (write : Bool) : Option (Nat × Option MemStop) :=
  if p.addr < 0x6010000000 ∧ 0x6000000000 < p.addr + n then some (3, none) else
  match checkRange s ⟨p.stream, write, true, 0⟩ p.addr n with
  | some (.nonResident a w u) => some (2, some (.nonResident a w u))
  | some m => some (1, some m)
  | none => none

/-- A WRITE or READ is well formed (12 R387, R388). -/
def requestOk (p : Packet) (n : Nat) : Bool :=
  decide (p.addr % 16 = 0 ∧ 16 ≤ n ∧ n ≤ 256 ∧ n % 16 = 0 ∧ p.addr % 256 + n ≤ 256)

/-- A reason that no row of 12 R390 gives: that of a request that meets uncorrectable data (log entry 33). -/
def openReason (s : State) (p : Packet) : State :=
  let r := freeBytes s 1
  refuseTo r.2 p (leNat r.1)

/-- Serve a WRITE that reached this node; its accesses to LPDDR are of the remote class (10 R206, R208). -/
def serveWrite (s : State) (p : Packet) : State :=
  let n := p.data.length
  if !requestOk p n || decide (p.dlen * 16 ≠ n) then refuseTo s p 8 else
  match fabricStop s p n true with
  | some (r, m) => refuseTo (match m with | some m => noteStop s p.stream m | none => s) p r
  | none =>
    match poisonPartial s p.addr n with
    | some _ => openReason s p
    | none => respond (ddrCharge (storeBytes s p.addr p.data) p.stream 2 p.addr n (lpddrBlocks [(p.addr, n)])) p 0x04 0 []

/-- Serve a READ that reached this node. -/
def serveRead (s : State) (p : Packet) : State :=
  let n := p.dlen * 16
  if !requestOk p n || !p.data.isEmpty then refuseTo s p 8 else
  match fabricStop s p n false with
  | some (r, m) => refuseTo (match m with | some m => noteStop s p.stream m | none => s) p r
  | none =>
    match poisonIn s p.addr n with
    | some _ => openReason s p
    | none => respond (ddrCharge s p.stream 2 p.addr n (lpddrBlocks [(p.addr, n)])) p 0x03 0 (memGetN s.mem p.addr n)

/-- Bytes in the hold store (12 R405). -/
def heldBytes (s : State) : Nat := sumN (s.fab.held.map fun e => pkSize e.1)

/-- A request for this node during a partial reset: held, or refused when the store is full (12 R405). -/
def holdRequest (s : State) (p : Packet) : State :=
  if 262144 < heldBytes s + pkSize p then refuseTo s p 4
  else bump { s with fab := { s.fab with held := s.fab.held ++ [(p, s.elapsed)] } } 0xB000014

/-- A routed packet of a type has reached this node. -/
def reaches (s : State) (p : Packet) (type : Nat) : Bool := p.type == type && assigned s && p.dst == ownNode s

/-- FABRIC_WRITE: 12 R389, R405. -/
def execFabricWrite (p : Packet) (s : State) : Host.Outcome State Fault Refusal :=
  if !reaches s p 0x01 then .next s else if resetting s then .next (holdRequest s p) else .next (serveWrite s p)

/-- FABRIC_READ: 12 R389, R405. -/
def execFabricRead (p : Packet) (s : State) : Host.Outcome State Fault Refusal :=
  if !reaches s p 0x02 then .next s else if resetting s then .next (holdRequest s p) else .next (serveRead s p)

/-! ### Requests of this node (12 R391) -/

/-- A tag that no outstanding request has. -/
def freshTag (s : State) : Nat :=
  ((List.range 4097).map fun i => (s.fab.nextTag + i) % 65536).find?
    (fun t => s.fab.outstanding.all fun r => r.tag != t) |>.getD s.fab.nextTag

/-- The outstanding table has room. -/
def tableRoom (s : State) (n : Nat) : Bool := decide (s.fab.outstanding.length + n ≤ 4096)

/-- Issue a routed request; the reason where it has no route. FAB.E2E_CFG.timeout is counted from here, so that a request
which still waits for cells at its port can end with cause 0x0B: the manual does not say when the time of a request that has
backed off begins (DESIGN CHOICE, log entry 90). -/
def request (s : State) (type base dst stream addr dlen : Nat) (data : List Byte) (wid : Option Nat) (owner : Nat) :
    Except Nat State :=
  let t := freshTag s
  let p : Packet := ⟨type, base, false, dst, ownNode s, stream, dlen, addr, 0, t, data⟩
  match routeOut s p with
  | .error r => .error r
  | .ok s =>
    .ok { s with fab := { s.fab with nextTag := (t + 1) % 65536,
                                     outstanding := s.fab.outstanding ++ [⟨t, p, wid, owner, s.elapsed⟩] } }

/-! ### Link frames -/

/-- Bytes 0 to 263 of a frame, and the parity of its two codewords (12 R379). -/
def frameBytes (seq ack cvc ccnt : Nat) (body : List Byte) : List Byte :=
  let b := leBytes 4 (seq % 4096 + 2 ^ 12 * (ack % 4096) + 2 ^ 24 * cvc + 2 ^ 28 * ccnt) ++ body
  let c := b ++ leBytes 4 (crc32 b)
  c ++ leBytes 4 (Config.parity (c.take 132)).toNat ++ leBytes 4 (Config.parity (c.drop 132)).toNat

/-- A sequenced frame as it is sent now: the ack is the present one (12 R382). -/
def TxFrame.wire (x : FPort) (fr : TxFrame) : List Byte := frameBytes fr.seq x.rxSeq fr.cvc fr.ccnt fr.body

/-- The idle frame of a port: the next seq, which it does not consume, no credit return, and NULL packets (12 R382). -/
def idleFrame (x : FPort) : List Byte := frameBytes x.txSeq x.rxSeq 0 0 (List.replicate 256 0)

/-- What a port sends until a command changes it: the frames that no ack covers, once, and idle frames after them, however many
(12 R379, R382). -/
def portSends (s : State) (p idles : Nat) : List (List Byte) :=
  let x := portGet s p
  x.retry.map (TxFrame.wire x) ++ List.replicate idles (idleFrame x)

/-- The bytes of a run of frames that the k-th of w trained lanes carries (12 R380). -/
def laneBytes (w k : Nat) (b : List Byte) : List Byte := (b.zipIdx.filter fun x => x.2 % w == k).map (·.1)

/-- Fields of a received frame (12 R379). -/
def rxHeader (fr : LinkFrameIn) : Nat := leAt fr.bytes 0 4

def rxSeqOf (fr : LinkFrameIn) : Nat := f (rxHeader fr) 11 0

def rxAck (fr : LinkFrameIn) : Nat := f (rxHeader fr) 23 12

def rxCvc (fr : LinkFrameIn) : Nat := f (rxHeader fr) 27 24

def rxCcnt (fr : LinkFrameIn) : Nat := f (rxHeader fr) 31 28

def rxBody (fr : LinkFrameIn) : List Byte := slice fr.bytes 4 256

/-- Its CRC matches. -/
def rxCrcOk (fr : LinkFrameIn) : Bool := crc32 (fr.bytes.take 260) == leAt fr.bytes 260 4

/-- The packets that a frame ends, and what it leaves of one, after a part that earlier frames brought. -/
def rxCut (fr : LinkFrameIn) (part : List Byte) : List Packet × List Byte :=
  cutPackets (part.length / 16 + 17) (part ++ rxBody fr)

/-- A frame whose body holds only NULL packets (12 R382). While a packet is received in part, a body is its continuation (log entry
104). -/
def rxIdle (fr : LinkFrameIn) (part : List Byte) : Bool :=
  part.isEmpty && (rxCut fr []).1.all (·.type == 0) && (rxCut fr []).2.isEmpty

/-- Frames that an ack covers leave the retry buffer (12 R382). -/
def applyAck (x : FPort) (ack : Nat) : FPort :=
  { x with retry := x.retry.filter fun fr => !(decide (0 < (ack + 4096 - fr.seq) % 4096) &&
      decide ((ack + 4096 - fr.seq) % 4096 ≤ 1024)) }

/-- Cells that the peer returns (12 R385). -/
def addReturned (s : State) (p vc n : Nat) : State :=
  let x := portGet s p
  let n := min n (x.consumed.getD vc 0 - x.returned.getD vc 0)
  consReturn (portPut s p { x with returned := modAt x.returned vc fun c => c + n }) (16 + p) n

/-- Cells of this end's buffer go back to the peer: with the next frame, which carries a CREDIT packet when nothing
else waits (12 R385). -/
def giveCells (s : State) (p vc n : Nat) : State :=
  let x := portGet s p
  creditPort 64 (portPut s p { x with owed := modAt x.owed vc fun c => c + n }) p

/-- A frame is not accepted: LINK_RETRY with the expected seq, at most one in 2 µs (12 R383). -/
def rejectFrame (s : State) (p : Nat) : State :=
  let x := portGet s p
  let due := match x.retrySince with
    | some t => decide (2000 ≤ s.elapsed - t)
    | none => true
  if due then
    queueAt (portPut s p { x with retrySince := some s.elapsed }) p (localPacket s 0x0A x.rxSeq 0 [])
  else s

/-- A device without a node number has no routes: it refuses a routed packet, with reason 6, over the port on which it came (12
R396, log entry 104). -/
def refuseBack (s : State) (p : Nat) (pk : Packet) : State :=
  if !isRequest pk then bump s 0xB000018 else
  queueAt (bumpF s 0xB000010 15 0) p { response s pk 0x05 6 [] with src := 0, vc := 4 }

/-- One packet of an accepted frame: a routed packet for another node goes on, and holds its cells until it has left, but not over a
miscabled port (12 R395); any other acts at its own row, and its cells return (log entry 34). -/
def takePacket (s : State) (p : Nat) (pk : Packet) : State :=
  let give := fun (s : State) => if pk.type = 0 then s else giveCells s p pk.vc (pkCells pk)
  if pk.vc = 9 ∨ reaches s pk pk.type ∨ fabState s p = 5 then give s
  else if 0x10 < pk.type then give (refuseTo s pk 8)
  else if !assigned s then give (refuseBack s p pk)
  else if pk.dst = ownNode s then give s
  else if 63 ≤ pk.hops then give (refuseTo s pk 7)
  else match routeFrom s ⟨{ pk with hops := pk.hops + 1 }, some (p, pk.vc, pkCells pk)⟩ with
    | .ok s => s
    | .error r => give (refuseTo s pk r)

/-- LINK_FRAME: 12 R381 to R383, R385, R397, R401. The cells that a frame with a CREDIT packet returns come back at CREDIT. -/
def execLinkFrame (p : Nat) (fr : LinkFrameIn) (s : State) : Host.Outcome State Fault Refusal :=
  if !(fabUp s p) && fabState s p != 5 then .next s else
  let s := bumpBy s (0xB00100C + p * 0x40) fr.corrected
  if !fr.decoded || !rxCrcOk fr || decide (9 < rxCvc fr ∧ rxCcnt fr ≠ 0) then
    .next (rejectFrame (bump s (0xB001010 + p * 0x40)) p)
  else
    let x := portGet s p
    if rxSeqOf fr ≠ x.rxSeq then .next (rejectFrame s p)
    else
      let x := { applyAck x (rxAck fr) with lastFrame := s.elapsed, retrySince := none }
      if rxIdle fr x.rxPart then .next (drainAll (portPut s p x) p)
      else
        let l := rxCut fr x.rxPart
        let s := portPut s p { x with rxSeq := (x.rxSeq + 1) % 4096, rxPart := l.2 }
        let s := if l.1.any (·.type == 9) then s else addReturned s p (rxCvc fr) (rxCcnt fr)
        let s := l.1.foldl (fun s pk => takePacket s p pk) s
        .next (drainAll s p)

/-- Frames from a seq on are sent again (12 R383). -/
def resendFrom (s : State) (p first : Nat) : State :=
  let x := portGet s p
  let again := fun (fr : TxFrame) => decide ((fr.seq + 4096 - first) % 4096 < 1024)
  let s := bumpBy s (0xB001008 + p * 0x40) (x.retry.filter again).length
  let t := x.retry.map fun fr => if again fr then { fr with resent := fr.resent + 1, sent := s.elapsed } else fr
  portPut s p { x with retry := t }

/-- LINK_RETRY: 12 R383. -/
def execLinkRetry (p expected : Nat) (s : State) : Host.Outcome State Fault Refusal :=
  if fabUp s p || fabState s p == 5 then
    .next (resendFrom (portPut s p (applyAck (portGet s p) expected)) p expected)
  else .next s

/-- LINK_ACK_TIMEOUT: the oldest frame has waited for ack_timeout (12 R383). -/
def execLinkAckTimeout (p : Nat) (s : State) : Host.Outcome State Fault Refusal :=
  let t := match f (fabCfg s p) 23 16 with | 0 => 8 | n => n
  match (portGet s p).retry with
  | fr :: _ =>
    if (fabUp s p || fabState s p == 5) && decide (t * 1000 ≤ s.elapsed - fr.sent) then .next (resendFrom s p fr.seq)
    else .next s
  | [] => .next s

/-- CREDIT: the fields of its frame return the cells, which are named here; the packet holds none (12 R385, R388). -/
def execCredit (p vc cells : Nat) (s : State) : Host.Outcome State Fault Refusal :=
  if fabUp s p || fabState s p == 5 then
    let s := addReturned s p vc cells
    .next (drainAll s p)
  else .next s

/-! ### Training (12 R393 to R395) -/

/-- 12 R394: the width code of the lanes good at both ends: 0 four, 1 two, 2 one lane. -/
def widthOf (good maxLanes : Nat) : Nat :=
  let w := if good % 16 = 15 then 0
    else if (bitOf good 0 && bitOf good 1) || (bitOf good 2 && bitOf good 3) then 1 else 2
  max w maxLanes

/-- An announcement of a port's state to every other neighbour (12 R398). -/
def announce (s : State) (p pstate : Nat) : State :=
  let n := s.fab.noticeSeq + 1
  let own := ownNode s
  let ex := s.fab.excluded.filter fun e => e != (own, p)
  let s := { s with fab := { s.fab with
    noticeSeq := n, rebuild := true, excluded := if pstate = 2 then ex else ex ++ [(own, p)] } }
  broadcast s (some p) (localPacket s 0x10 0 0 (leBytes 2 own ++ leBytes 1 p ++ leBytes 1 pstate ++ leBytes 4 n ++ leBytes 8 0))

/-- SHA3-512 of identity record bytes 0 to 8,722 (15 R473). -/
def idDigest (s : State) : List Byte := sha3 (s.boot.nor.bytes.take 8723)

/-- IDENT of this end on a port (12 R393 step 6). -/
def identBytes (s : State) (p : Nat) : List Byte :=
  (idDigest s).take 8 ++ leBytes 2 (if assigned s then ownNode s else 0xFFFF) ++ leBytes 1 p ++ leBytes 1 (trainedWidth s p) ++
    ((List.range 10).flatMap fun v => leBytes 2 (Config.cells v).toNat) ++ List.replicate 32 0

/-- PORT_TRAINING: one attempt (12 R393). A retraining under its maintenance token returns it when the attempt ends
(14 R460). -/
def trainPort (p : Nat) (t : TrainIn) (s : State) : State :=
  if fabState s p ≠ 1 ∨ !powered s 1 then s else
  let x := portGet s p
  if t.ok && t.good % 16 != 0 then
    let s := portPut s p { x with good := t.good % 16, reversed := t.reversed }
    let st := fabStatus s p
    let v := setF (setF (setF st 28 27 (widthOf t.good (f (fabCfg s p) 1 0))) 26 23 t.good) 22 22 (b2n t.reversed)
    let s := regPut s (0xB001004 + p * 0x40) v
    { s with out := .ident p (identBytes s p) :: s.out }
  else
    let s := portPut s p { x with attempts := x.attempts + 1, good := 0 }
    if 2 ≤ x.attempts then announce (logAdd (setFabState (giveToken s (10 + p) 0) p 4) 0x0207 11 1 p) p 4
    else if (tget s.tokens (10 + p)).any (·.stop) then setFabState (giveToken s (10 + p) 1) p 3
    else s

/-- IDENT: 12 R385, R393 steps 6 and 7, R395. -/
def identPort (p : Nat) (data : List Byte) (s : State) : State :=
  let x := portGet s p
  if fabState s p ≠ 1 ∨ x.good = 0 ∨ data.length ≠ 64 then s else
  let id := data.take 8
  let peerPort := if p % 2 = 0 then p + 1 else p - 1
  let bad := leAt data 10 1 != peerPort || (match x.recorded with | some r => r != id | none => false)
  let x := { x with granted := (List.range 10).map fun v => leAt data (12 + 2 * v) 2, consumed := List.replicate 10 0,
                    returned := List.replicate 10 0, owed := List.replicate 10 0, rxSeq := 0, txSeq := 0, retry := [],
                    peer := data, recorded := some id, rxPart := [], attempts := 0, retrySince := none, recon := false,
                    lastFrame := s.elapsed }
  let a := (portGet s p).attempts + 1
  let s := giveToken (consCap (portPut s p x) (16 + p) (sumN x.granted)) (10 + p) 0
  let s := regPut64 s (0xB001018 + p * 0x40) (leNat id)
  let s := regSetF s (0xB001004 + p * 0x40) 15 0 (leAt data 8 2)
  let s := setFabState s p (if bad then 5 else 2)
  if bad then (announce (logAdd s 0x0207 11 1 (p + 2 ^ 8)) p 5)
  else
    let s := logAdd s 0x0206 11 0 (p + 2 ^ 4 * trainedWidth s p + 2 ^ 8 * a)
    drainAll (announce s p 2) p

/-- PORT_RETRAIN: 12 R402 step 5, under the port's maintenance token (14 R460). -/
def execPortRetrain (p : Nat) (s : State) : Host.Outcome State Fault Refusal :=
  let x := portGet s p
  let period := match f (fabCfg s p) 15 8 with | 0 => 10 | n => n
  let due := decide (period * 1000000000 ≤ s.elapsed - x.lastFrame)
  if (fabState s p == 3 || fabState s p == 4) && bitOf (fabCfg s p) 30 && due && (tokenConflict s 5 p).isNone then
    .next (takeToken (setFabState (portPut s p { x with attempts := 0, good := 0, lastFrame := s.elapsed }) p 1) 5 p)
  else .next s

/-! ### Link failure (12 R402, R403) -/

/-- PORT_DOWN: 12 R402 steps 1 to 3, R403. -/
def downPort (p reason : Nat) (s : State) : State :=
  let x := portGet s p
  let holds := match reason with
    | 1 => true
    | 2 => decide (1000 ≤ s.elapsed - x.lastFrame)
    | _ => match x.retry with
      | fr :: _ => decide (8 ≤ fr.resent)
      | [] => false
  if (!fabUp s p && fabState s p != 5) || !holds then s else
  let lost := sumN (List.zipWith (fun c r => c - r) x.consumed x.returned)
  let s := { s with fab := { s.fab with ports := s.fab.ports.map fun y => { y with
    queue := y.queue.map fun w => if w.holds.any (·.1 == p) then { w with holds := none } else w } } }
  let x := portGet s p
  let s := consReturn (portPut s p { x with returned := x.consumed, owed := List.replicate 10 0, recon := true, rxPart := [],
                                            good := 0, lastFrame := s.elapsed, retrySince := some s.elapsed }) (16 + p) lost
  let s := bump (setFabState s p 3) (0xB001014 + p * 0x40)
  let s := announce (logAdd s 0x0205 11 1 (p + 2 ^ 4 * reason)) p 3
  let peer := f (fabStatus s p) 15 0
  let ask : Packet := ⟨0x0B, 0, false, peer, ownNode s, 0, 0, if p % 2 = 0 then p + 1 else p - 1, 0, 0, []⟩
  match routeOut { s with fab := { s.fab with built := s.fab.built ++ [(ownNode s, p)] } } ask with
  | .ok t => { t with fab := { t.fab with built := s.fab.built } }
  | .error _ => s

/-- Packets of frames, in order. -/
def framePackets (l : List TxFrame) : List Packet := l.flatMap (·.packets)

/-- Re-route packets; those that cannot go are refused to their source (12 R398), and leave their input buffer. -/
def reroute (s : State) (l : List Waiting) : State :=
  l.foldl (fun s w => if w.packet.vc = 9 then leaveInput s w else
    match routeFrom s w with
    | .ok s => s
    | .error r => leaveInput (refuseTo s w.packet r) w) s

/-- RECONCILE_REQ: the last seq accepted on the named port (12 R388). -/
def execReconcileReq (_port : Nat) (p : Packet) (s : State) : Host.Outcome State Fault Refusal :=
  if !reaches s p 0x0B then .next s else
  let q := p.addr % 256
  let x := portGet s q
  .next (respond s p 0x0C ((x.rxSeq + 4095) % 4096 + 2 ^ 16 * b2n (fabState s q == 3)) [])

/-- RECONCILE_RSP: packets of later frames go again, the rest were delivered (12 R402 step 3). -/
def execReconcileRsp (port : Nat) (p : Packet) (s : State) : Host.Outcome State Fault Refusal :=
  let x := portGet s port
  if !reaches s p 0x0C || !x.recon then .next s else
  let seq := p.addr % 2 ^ 16
  let later := x.retry.filter fun fr => decide (0 < (fr.seq + 4096 - seq) % 4096 ∧ (fr.seq + 4096 - seq) % 4096 ≤ 1024)
  .next (reroute (portPut s port { x with retry := [], recon := false })
    ((framePackets later).map fun pk => ⟨pk, none⟩))

/-- RECONCILE_TIMEOUT: 1 ms without a response (12 R402 step 3). -/
def execReconcileTimeout (port : Nat) (s : State) : Host.Outcome State Fault Refusal :=
  let x := portGet s port
  let late := match x.retrySince with
    | some t => decide (1000000 ≤ s.elapsed - t)
    | none => true
  if !x.recon || !late then .next s else
  let n := (framePackets x.retry).length
  .next (discard (portPut s port { x with retry := [], recon := false }) port n)

/-- ROUTE_NOTICE: taken once, and passed once to every other neighbour (12 R398). -/
def execRouteNotice (port origin originPort pstate seq : Nat) (s : State) : Host.Outcome State Fault Refusal :=
  let known := s.fab.notices.any fun n => n.1 == origin && n.2.1 == originPort && serialGe 32 n.2.2 seq
  if !fabUp s port || known || origin == ownNode s then .next s else
  let ex := s.fab.excluded.filter fun e => e != (origin, originPort)
  let s := { s with fab := { s.fab with
    notices := (s.fab.notices.filter fun n => !(n.1 == origin && n.2.1 == originPort)) ++ [(origin, originPort, seq)],
    excluded := if pstate = 2 then ex else ex ++ [(origin, originPort)], rebuild := true } }
  .next (broadcast s (some port) (localPacket s 0x10 0 0
    (leBytes 2 origin ++ leBytes 1 originPort ++ leBytes 1 pstate ++ leBytes 4 seq ++ leBytes 8 0)))

/-- The route table is built from every port state known, and waiting packets take their new routes (12 R398, R402
step 4). -/
def rebuildRoutes (s : State) : State :=
  let wait := (List.range 6).flatMap fun p => if fabUp s p then [] else (portGet s p).queue
  let s := { s with fab := { s.fab with built := s.fab.excluded, rebuild := false } }
  let s := (List.range 6).foldl (fun s p =>
    if fabUp s p then s else portPut s p { portGet s p with queue := [] }) s
  let s := regPut s 0xB00000C ((regGet s 0xB00000C + 1) % 2 ^ 32)
  reroute s wait

/-- ROUTE_REBUILD: 12 R398. What has been announced meanwhile is one rebuild, and it queues behind one that runs under its
token (14 R461). -/
def execRouteRebuild (s : State) : Host.Outcome State Fault Refusal :=
  if s.fab.rebuild && (tget s.tokens 16).isNone then .next (rebuildRoutes s) else .next s

end Sys2Proof.Machine
end

