-- ==== Sys2Proof/Machine/Dma.lean ====
section
/-! DEFINITION. DMA descriptors (09 R292, 04 R138 to R141) between local memory, fabric nodes and the commander's
host, and the responses that belong to requests of this node (12 R388 to R391, 09 R312). -/
namespace Sys2Proof.Machine

/-! ### The units of a transfer -/

/-- Fields of a DMA descriptor (09 R291). -/
structure DmaDesc where
  src : Nat
  dst : Nat
  len : Nat
  srcSpace : Nat
  dstSpace : Nat
  compress : Bool
  decompress : Bool
  node : Nat
  row : Nat
  pitch : Nat
deriving DecidableEq, Repr

def decDma (d : List Byte) : DmaDesc :=
  { src := leAt d 8 8, dst := leAt d 16 8, len := leAt d 24 4, srcSpace := f (leAt d 28 1) 1 0,
    dstSpace := f (leAt d 28 1) 3 2, compress := bitOf (leAt d 29 1) 0, decompress := bitOf (leAt d 29 1) 1,
    node := leAt d 30 2, row := leAt d 32 4, pitch := leAt d 36 4 }

/-- One unit: source bytes, and the part of its result, from byte `lo` to `hi`, that goes to a place. -/
structure DmaUnit where
  from_ : Nat
  n : Nat
  to_ : Nat
  /-- uncompressed bytes of the unit -/
  raw : Nat
  lo : Nat
  hi : Nat
deriving DecidableEq, Repr

/-- The part of a result of at most `len` bytes at `a` that lies in the j-th 4 KiB block of the destination it touches. -/
def blockPart (a len j : Nat) : Nat × Nat :=
  let edge := fun (i : Nat) => min len ((a / 4096 + i) * 4096 - a)
  (edge j, edge (j + 1))

/-- Unit u of a transfer, none of which crosses a 4 KiB boundary of the destination (09 R306): a piece of a copy, or a part of the
result of one segment of a compressed row (04 R139); none after the last. -/
def dmaUnit (x : DmaDesc) (u : Nat) : Option DmaUnit :=
  if x.compress ∨ x.decompress then
    let per := ceilDiv x.row 4096
    let r := u / 3 / per
    let k := u / 3 % per
    if x.len / x.row ≤ r then none else
    let raw := min 4096 (x.row - 4096 * k)
    if x.compress then
      let to_ := x.dst + r * x.pitch + k * 4672
      let p := blockPart to_ 4672 (u % 3)
      some ⟨x.src + r * x.row + 4096 * k, raw, to_, raw, p.1, p.2⟩
    else
      let to_ := x.dst + r * x.row + 4096 * k
      let p := blockPart to_ raw (u % 3)
      some ⟨x.src + r * x.pitch + k * 4672, 4672, to_, raw, p.1, p.2⟩
  else
    let first := 4096 - x.dst % 4096
    let off := if u = 0 then 0 else first + (u - 1) * 4096
    if x.len ≤ off then none
    else
      let n := min (x.len - off) (if u = 0 then first else 4096)
      some ⟨x.src + off, n, x.dst + off, n, 0, n⟩

/-- A transfer that has written its first `k` units stands at a 4 KiB boundary of its destination, or at its end (09 R306). -/
def dmaAtCut (x : DmaDesc) (k : Nat) : Bool :=
  match dmaUnit x k with
  | none => true
  | some u => k == 0 || decide ((u.to_ + u.lo) % 4096 = 0) ||
      (dmaUnit x (k - 1)).any fun v => (v.to_ + v.lo) / 4096 != (u.to_ + u.lo) / 4096

/-- The result of a unit from a reader of its source (04 R138, R141). -/
def dmaResult (x : DmaDesc) (u : DmaUnit) (rd : Reader) : Except OpStop (List Byte) :=
  if x.decompress then readSegment rd u.from_ u.raw
  else match rdMem rd u.from_ u.n with
    | .error e => .error e
    | .ok b =>
      if x.compress then
        let z := packSegment b
        .ok (z ++ List.replicate (ceilDiv z.length 64 * 64 - z.length) 0)
      else .ok b

/-- The bytes gathered so far as a reader. -/
def bufReader (buf : List (Nat × List Byte)) : Reader := Reader.plain fun a n =>
  .ok ((List.range n).map fun i =>
    match buf.find? fun e => decide (e.1 ≤ a + i ∧ a + i < e.1 + e.2.length) with
    | some e => e.2.getD (a + i - e.1) 0
    | none => 0)

/-- Every byte of a range is gathered. -/
def bufHas (buf : List (Nat × List Byte)) (a n : Nat) : Bool :=
  decide (n ≤ sumN (buf.map fun e => min (e.1 + e.2.length) (a + n) - max e.1 a))

/-! ### Requests to the fabric and the host -/

/-- The pieces of a range within aligned blocks of 256 bytes, on whole units of 16 bytes (12 R387, R388). -/
def fabricPieces (a n : Nat) : List (Nat × Nat) :=
  let a0 := a / 16 * 16
  let e := ceilDiv (a + n) 16 * 16
  (List.range (ceilDiv e 256 - a0 / 256)).map fun i =>
    let b := max a0 ((a0 / 256 + i) * 256)
    (b, min e ((a0 / 256 + i + 1) * 256) - b)

/-- The pieces of a range of host memory, at most 1,024 bytes each (09 R312). -/
def hostPieces (a n : Nat) : List (Nat × Nat) :=
  (List.range (ceilDiv n 1024)).map fun i => (a + i * 1024, min 1024 (n - i * 1024))

/-- READ requests for fabric data, in order; the reason and the address of the first that has no route. -/
def fabricReads (s : State) (x : DmaDesc) (wid n : Nat) : List (Nat × Nat) → Except (Nat × Nat) State
  | [] => .ok s
  | (a, k) :: ps => match request s 0x02 6 x.node n a (k / 16) [] (some wid) n with
    | .error r => .error (r, a)
    | .ok s => fabricReads s x wid n ps

/-- WRITE requests of bytes, in order. -/
def fabricWrites (s : State) (x : DmaDesc) (wid n a : Nat) (b : List Byte) : List (Nat × Nat) → Except (Nat × Nat) State
  | [] => .ok s
  | (p, k) :: ps => match request s 0x01 6 x.node n p (k / 16) ((b.drop (p - a)).take k) (some wid) n with
    | .error r => .error (r, p)
    | .ok s => fabricWrites s x wid n a b ps

/-- READ_REQ messages; each is remembered with what its data is for (09 R312): kind 0 a descriptor, 1 a DMA. -/
def hostReads (s : State) (kind who : Nat) : List (Nat × Nat) → State
  | [] => s
  | (a, k) :: ps =>
    let r := s.rrp
    let s := rrpSend s 0x04 (leBytes 8 a ++ leBytes 2 k ++ leBytes 2 r.nextRead ++ leBytes 4 0)
    hostReads { s with rrp := { s.rrp with
      reads := tset s.rrp.reads r.nextRead (kind, who, a), nextRead := (r.nextRead + 1) % 65536 } } kind who ps

/-- Requests of a work that have no response yet. -/
def openReads (s : State) (wid : Nat) : Nat :=
  (s.fab.outstanding.filter fun r => r.wid == some wid).length +
    (s.rrp.reads.filter fun r => r.2.1 == 1 && r.2.2.1 == wid).length

/-- Requests of a cancelled work that its end still waits for: an RRP read is not waited for while the session is lost (06
R204). -/
def lateReads (s : State) (wid : Nat) : Nat :=
  (s.fab.outstanding.filter fun r => r.wid == some wid).length + (if s.rrp.state = 2 then 0 else
    (s.rrp.reads.filter fun r => r.2.1 == 1 && r.2.2.1 == wid).length)

/-- The session is lost: RRP reads for cancelled works and for halting streams are dropped (06 R204). -/
def loseReads (s : State) : State :=
  { s with rrp := { s.rrp with reads := s.rrp.reads.map fun r =>
      if r.2.1 == 1 && (match workGet s r.2.2.1 with
        | some w => w.cancelled || (streamGet s w.stream).faulting.isSome
        | none => true) then (r.1, 2, 0, 0) else r } }

/-- Responses to a work's requests are no longer wanted (12 R391). -/
def dropReads (s : State) (wid : Nat) : State :=
  { s with fab := { s.fab with outstanding := s.fab.outstanding.filter fun r => r.wid != some wid },
           rrp := { s.rrp with reads := s.rrp.reads.map fun r =>
             if r.2.1 == 1 && r.2.2.1 == wid then (r.1, 2, 0, 0) else r } }

/-- 12 R390, 06 R211: the fault of a refused or unanswered request to an address. A refusal does not tell which unit of a window
was not present, so that the record's detail is a free value there (log entry 33). -/
def refusedFault (s : State) (reason addr : Nat) (wr : Bool) : FaultInfo × State :=
  let stop := fun (cause detail : Nat) => ({ plainFault cause with addr := addr, detail := detail } : FaultInfo)
  if reason = 1 then (stop 0x02 (b2n wr), s)
  else if reason = 2 then
    let u := freeBytes s 2
    (stop 0x01 (leNat u.1), u.2)
  else (stop 0x0B 0, s)

/-- 12 R390: outcome of a refused or unanswered ring-issued request. -/
def refusedWork (s : State) (wid n reason addr : Nat) (wr : Bool) : State :=
  let s := dropReads s wid
  if reason = 3 then completeErr s wid 0x07
  else if reason = 4 then complete s wid 7 0
  else
    let r := refusedFault s reason addr wr
    if n = 0 ∨ (streamGet s n).state = .admitted then complete r.2 wid 4 (r.1.cause + 2 ^ 8 * 0xFF)
    else faultWork r.2 wid n r.1

/-! ### DMA -/

/-- A stop of a transfer's own data. -/
def dmaStop (s : State) (wid n : Nat) (st : OpStop) : State :=
  match st with
  | .mem m => workStop s wid n m
  | st =>
    let r := stopFault s n st 0xFFFF 0xFFFFFFFF false
    if n = 0 ∨ (streamGet s n).state = .admitted then complete r.1 wid 4 (r.2.cause + 2 ^ 8 * r.2.window)
    else faultWork r.1 wid n r.2

/-- Where the bytes of a fabric destination's partly written units lie among those gathered: apart from the source's unless that is
the same node. -/
def edgeOff (x : DmaDesc) : Nat := if x.srcSpace = 1 then 0 else 2 ^ 64

/-- The units of 16 bytes that a write of a range to a fabric node covers in part. -/
def edgeUnits (a n : Nat) : List Nat :=
  dedup ((if a % 16 = 0 then [] else [a / 16 * 16]) ++ (if (a + n) % 16 = 0 then [] else [(a + n) / 16 * 16]))

/-- Bytes go to a fabric node. A packet holds whole units of 16 bytes (12 R387), so that a unit which they cover in part is read
first and goes with the rest of its bytes as they were (DESIGN CHOICE, log entry 35); whether they have gone. -/
def fabricPut (s : State) (x : DmaDesc) (wid n : Nat) (w : Work) (a : Nat) (b : List Byte) : Bool × State :=
  let need := (edgeUnits a b.length).filter fun u => !bufHas w.buf (u + edgeOff x) 16
  if !need.isEmpty then
    if openReads s wid ≠ 0 then (false, s) else
    match fabricReads s x wid n (need.map fun u => (u, 16)) with
    | .ok s => (false, s)
    | .error e => (false, refusedWork s wid n e.1 e.2 false)
  else
    let old := fun (p k : Nat) => match (bufReader w.buf).get (p + edgeOff x) k with
      | .ok b => b
      | .error _ => []
    let a0 := a / 16 * 16
    let e := a + b.length
    let full := old a0 (a - a0) ++ b ++ old e (ceilDiv e 16 * 16 - e)
    match fabricWrites s x wid n a0 full (fabricPieces a0 full.length) with
    | .ok s => (true, s)
    | .error e => (false, refusedWork s wid n e.1 e.2 true)

/-- The part of a unit's result goes to its destination. -/
def dmaPut (s : State) (x : DmaDesc) (wid n : Nat) (u : DmaUnit) (z : List Byte) : State :=
  let b := (z.drop u.lo).take (u.hi - u.lo)
  let next := fun (s : State) => match workGet s wid with
    | some w =>
      let same := (dmaUnit x (w.aux + 1)).any fun v => v.from_ == u.from_
      let k := if u.lo = 0 then ceilDiv u.n 64 else 0
      consReturn (consIssue (workPut s wid { w with aux := w.aux + 1, buf := if same then w.buf else [] }) 6 k) 6 k
    | none => s
  if b.isEmpty then next s
  else if x.dstSpace = 2 then next (hostWrite s (u.to_ + u.lo) b)
  else if x.dstSpace = 1 then match workGet s wid with
    | some w =>
      let r := fabricPut s x wid n w (u.to_ + u.lo) b
      if r.1 then next r.2 else r.2
    | none => s
  else match devWrite s (writeBy n wid) (movedAddr (streamGet s n) (u.to_ + u.lo)) b with
    | .ok s => next s
    | .error m => workStop s wid n m

/-- Bytes of a unit's source that a remote read brings: of a compressed slot its first 64 bytes, and then what its compressed
count says, in whole units of 64 bytes (04 R139). -/
def unitNeed (x : DmaDesc) (buf : List (Nat × List Byte)) (u : DmaUnit) : Nat :=
  if !x.decompress then u.n else if !bufHas buf u.from_ 64 then 64 else
  match (bufReader buf).get (u.from_ + 2) 2 with
  | .ok b => let c := leNat b; if 8 ≤ c ∧ c ≤ 4608 then ceilDiv (8 + c) 64 * 64 else 64
  | .error _ => 64

/-- A transfer waits: its stream's buffers are spilled (06 R218), its accesses to LPDDR are deferrable (06 R209, 09 R293), or the
engines serve a transfer of a higher priority, or one of the same priority issued earlier, first (09 R305). -/
def dmaWaits (s : State) (wid : Nat) (w : Work) (x : DmaDesc) (u : DmaUnit) : Bool :=
  let prio := fun (n : Nat) => f (regGet s (0x4004 + n * 0x40)) 19 16
  let local_ := fun (sp a : Nat) => sp == 0 && region a == .lpddr
  (w.stream != 0 && !(streamGet s w.stream).spilled.isEmpty) || ((ddrLineWaiting s || pairLost s) && (local_ x.srcSpace u.from_ || local_ x.dstSpace u.to_)) ||
    s.works.any fun e => e.1 != wid && e.2.pair.isSome && leAt e.2.desc 0 1 == 0x02 &&
      (e.2.phase == .running || e.2.phase == .fetched) && !e.2.cancelled && openReads s e.1 == 0 && (dmaUnit (decDma e.2.desc) e.2.aux).isSome &&
      decide (prio w.stream < prio e.2.stream ∨ (prio w.stream = prio e.2.stream ∧ e.1 < wid))

/-- One unit of a transfer: its source read, or asked for, or its result written. -/
def dmaStep (s : State) (wid : Nat) (w : Work) : State :=
  let x := decDma w.desc
  let n := w.stream
  match dmaUnit x w.aux with
  | none => s
  | some u =>
    let have_ := if x.decompress ∧ bufHas w.buf u.from_ 64 then 64 else 0
    let need := unitNeed x w.buf u
    if dmaWaits s wid w x u then s
    else if x.srcSpace = 0 then
      match dmaResult x u (streamReader s n wid) with
      | .error e => dmaStop s wid n e
      | .ok b => dmaPut s x wid n u b
    else if openReads s wid ≠ 0 then s
    else if (!x.decompress || have_ == 64) && bufHas w.buf u.from_ need then
      match dmaResult x u (bufReader w.buf) with
      | .error e => dmaStop s wid n e
      | .ok b => dmaPut s x wid n u b
    else if x.srcSpace = 1 then
      match fabricReads s x wid n (fabricPieces (u.from_ + have_) (need - have_)) with
      | .ok s => s
      | .error e => refusedWork s wid n e.1 e.2 false
    else if s.rrp.reads.length + ceilDiv (need - have_) 1024 ≤ 64 then
      hostReads s 1 wid (hostPieces (u.from_ + have_) (need - have_))
    else s

/-- The room that a unit needs in the outstanding table and the RRP session. -/
def dmaRoom (s : State) (x : DmaDesc) : Bool :=
  ((x.srcSpace != 1 && x.dstSpace != 1) || tableRoom s 20) && ((x.srcSpace != 2 && x.dstSpace != 2) || rrpRoom s)

/-- DMA: 09 R292, R306; the descriptor starts a transfer, and each run of the row moves one unit (log entry 35). -/
def execDma (wid : Nat) (e : MemErrs) (s : State) : Host.Outcome State Fault Refusal :=
  match workGet s wid with
  | none => .next s
  | some w =>
    let x := decDma w.desc
    if w.pair.isNone ∨ leAt w.desc 0 1 ≠ 0x02 ∨ (w.phase ≠ .fetched ∧ w.phase ≠ .running) then .next s
    else if w.cancelled ∧ dmaAtCut x w.aux then
      .next (if lateReads s wid = 0 then complete s wid 3 0 else s)
    else if !dmaRoom s x then .next s
    else
      let s := applyErrs s w.stream e
      let first := w.phase == .fetched
      let w := { w with phase := .running }
      let span := dmaSpans w.desc
      let ranges := (if x.srcSpace = 0 then [(x.src, span.1)] else []) ++
        (if x.dstSpace = 0 then [(x.dst, span.2)] else [])
      let s := ddrTouch (workPut s wid w) ranges
      let s := if first then takeRefs s wid ranges else s
      .next (dmaStep s wid w)

/-- DMA_DONE: every byte is written, and every write has its response (09 R292, R315, 02 R36). -/
def execDmaDone (wid : Nat) (s : State) : Host.Outcome State Fault Refusal :=
  match workGet s wid with
  | none => .next s
  | some w =>
    if w.pair.isSome && leAt w.desc 0 1 == 0x02 && w.phase == .running && !w.cancelled &&
        (dmaUnit (decDma w.desc) w.aux).isNone && openReads s wid == 0 then .next (complete s wid 0 0)
    else .next s

/-! ### Responses to requests of this node -/

/-- The outstanding request that a response answers. -/
def answered (s : State) (p : Packet) : Option OutReq := s.fab.outstanding.find? fun r => r.tag == p.tag

/-- The request has its answer. -/
def closeReq (s : State) (tag : Nat) : State :=
  { s with fab := { s.fab with outstanding := s.fab.outstanding.filter fun r => r.tag != tag } }

/-- A response reached this node: its request, none where it is discarded (12 R391, R405). -/
def takeResponse (s : State) (p : Packet) (type : Nat) : Option (Except State (OutReq × State)) :=
  if !reaches s p type then none
  else if resetting s then some (.error (discard s 7 1))
  else match answered s p with
    | some r => some (.ok (r, closeReq s p.tag))
    | none => some (.error (discard s 7 1))

/-- READ_DATA: 12 R388, R391. -/
def execReadData (p : Packet) (s : State) : Host.Outcome State Fault Refusal :=
  match takeResponse s p 0x03 with
  | none => .next s
  | some (.error s) => .next s
  | some (.ok (r, s)) =>
    match r.wid with
    | some wid => match workGet s wid with
      | some w =>
        .next (workPut s wid { w with buf := w.buf ++ [(r.packet.addr + edgeOff (decDma w.desc), p.data)] })
      | none => .next s
    | none => .next s

/-- DONE: 12 R388, R391. -/
def execDone (p : Packet) (s : State) : Host.Outcome State Fault Refusal :=
  match takeResponse s p 0x04 with
  | none => .next s
  | some (.error s) => .next s
  | some (.ok (_, s)) => .next s

/-- The end of a request that got no answer it can use (12 R390, R391); one that an operation of a schedule issued halts its
stream. -/
def failRequest (s : State) (r : OutReq) (reason : Nat) : State :=
  let wr := r.packet.type == 0x01
  match r.wid.bind (workGet s) with
  | some w =>
    if w.pair.isSome then refusedWork s (r.wid.getD 0) r.stream reason r.packet.addr wr else
    let x := refusedFault s reason r.packet.addr wr
    raiseFault x.2 r.stream (match w.op with
      | some o => { x.1 with op := o.opIdx, ptr := (decOp o.block).ptr }
      | none => x.1)
  | none => s

/-- ASSOC and WMARK are resent until DONE answers them (12 R391). -/
def resent (r : OutReq) : Bool := r.packet.type == 0x06 || r.packet.type == 0x07

/-- REFUSE: 12 R390; ASSOC and WMARK are held and resent. -/
def execRefuse (p : Packet) (s : State) : Host.Outcome State Fault Refusal :=
  match takeResponse s p 0x05 with
  | none => .next s
  | some (.error s) => .next s
  | some (.ok (r, t)) =>
    if resent r then .next (bumpF s 0xB000010 31 16)
    else .next (failRequest (bumpF t 0xB000010 31 16) r (p.addr % 256))

/-- FAB.E2E_CFG.timeout in ns (12 R407). -/
def e2eTimeout (s : State) : Nat := (match f (regGet s 0xB000008) 5 0 with | 0 => 4 | n => n) * 1000000

/-- E2E_TIMEOUT: 12 R391. -/
def execE2eTimeout (tag : Nat) (s : State) : Host.Outcome State Fault Refusal :=
  match s.fab.outstanding.find? fun r => r.tag == tag with
  | some r =>
    if !resent r && decide (e2eTimeout s ≤ s.elapsed - r.sent) then .next (failRequest (closeReq s tag) r 5)
    else .next s
  | none => .next s

/-- Resend a request unchanged. -/
def resendReq (s : State) (r : OutReq) : State :=
  let s := { s with fab := { s.fab with outstanding := s.fab.outstanding.map fun q =>
    if q.tag == r.tag then { q with sent := s.elapsed } else q } }
  match routeOut s r.packet with
  | .ok s => s
  | .error _ => s

/-- ASSOC_RESEND: every 1 ms (12 R391). -/
def execAssocResend (s : State) : Host.Outcome State Fault Refusal :=
  .next ((s.fab.outstanding.filter fun r => resent r && decide (1000000 ≤ s.elapsed - r.sent)).foldl resendReq s)

end Sys2Proof.Machine
end

