-- ==== Sys2Proof/Machine/Track.lean ====
section
/-! DEFINITION. Track association: groups (07 R252), detections and their homes (07 R253, R256), watermarks and the
order of application (07 R254, R255), joining (07 R257, R258), closing and eviction (07 R259). -/
namespace Sys2Proof.Machine

/-! ### Group records (07 R252) -/

def grpCell (r : List Byte) : Nat := leAt r 0 4

def grpN (r : List Byte) : Nat := leAt r 4 2

def grpTimeout (r : List Byte) : Nat := leAt r 6 2

def grpRear (r : List Byte) : Int := sx 40 (leAt r 8 5)

def grpFront (r : List Byte) : Int := sx 40 (leAt r 16 5)

def grpMember (r : List Byte) (i : Nat) : Nat := leAt r (2112 + 2 * i) 2

def grpMembers (r : List Byte) : List Nat := (List.range (grpN r)).map (grpMember r)

/-- A class entry. -/
structure ClassRow where
  along : Nat
  lat : Nat
  close : Nat
  compat : Nat
  valid : Bool
deriving DecidableEq, Repr

def grpClass (r : List Byte) (c : Nat) : ClassRow :=
  let a := 64 + 8 * c
  ⟨leAt r a 2, leAt r (a + 2) 2, leAt r (a + 4) 2, leAt r (a + 6) 1, decide (c < 256) && bitOf (leAt r (a + 7) 1) 0⟩

/-- The legal values of R252; a group record is none of the structures whose RSV bits are checked (00 R516). -/
def grpOk (r : List Byte) : Bool :=
  decide (1 ≤ grpCell r ∧ 1 ≤ grpN r ∧ grpN r ≤ 400 ∧ 1 ≤ grpTimeout r ∧ grpTimeout r ≤ 1000) &&
    zeroAt r (2112 + 2 * grpN r) (800 - 2 * grpN r)

/-- 07 R256 `home_of`. -/
def homeOf (r : List Byte) (pos : Nat) : Nat :=
  let cell := pos / (grpCell r * 65536)
  let h := cell % 2 ^ 32 * 0x9E3779B1 % 2 ^ 32
  grpMember r (h / 2 ^ 16 % grpN r)

/-! ### Detections (07 R253) -/

def detPos (b : List Byte) : Nat := leAt b 0 6

def detClass (b : List Byte) : Nat := leAt b 6 2

def detLat (b : List Byte) : Int := sx 32 (leAt b 8 4)

def detConf (b : List Byte) : Nat := leAt b 12 2

def detCam (b : List Byte) : Nat := leAt b 14 1

def detTime (b : List Byte) : Nat := leAt b 24 8

/-- The order key (07 R254). -/
def detKey (d : Det) : Nat × Nat × Nat × Nat := (d.time, d.src, d.cam, d.index)

/-- Key order. -/
def keyLe (a b : Det) : Bool :=
  decide (a.time < b.time) || (a.time == b.time && (decide (a.src < b.src) || (a.src == b.src &&
    (decide (a.cam < b.cam) || (a.cam == b.cam && decide (a.index ≤ b.index))))))

/-! ### Tracks (07 R258) -/

def groupGet (s : State) (g : Nat) : Option Group := tget s.groups g

def groupPut (s : State) (g : Nat) (x : Group) : State := { s with groups := tset s.groups g x }

/-- The 64 bytes of a track, with its reason. -/
def trackBytes (id : Nat) (g reason : Nat) (t : Track) : List Byte :=
  leBytes 8 id ++ leBytes 6 t.pos ++ leBytes 1 (if t.closed then 2 else 1) ++ leBytes 1 reason ++
    leBytes 4 (low t.lat 32) ++ leBytes 2 t.cls ++ leBytes 2 t.conf ++ leBytes 2 t.sightings ++ leBytes 2 t.cams ++
    leBytes 6 t.firstPos ++ leBytes 6 t.lastPos ++ leBytes 8 t.lastTime ++ leBytes 4 t.along ++ leBytes 4 t.latExt ++
    leBytes 1 g ++ leBytes 7 0

/-- The identifier of a track of this home. -/
def trackId (s : State) (serial : Nat) : Nat := serial % 2 ^ 48 + 2 ^ 48 * (ownNode s % 65536)

/-- The group that a stream's detections join, 0 for none. -/
def groupOf (x : Stream) : Nat := match x.sched with | some d => d.group | none => 0

/-- The group's share: the track slots that admission reserved for the streams of the group, which are the line-locked ones (07
R252, 05 R174, R177). -/
def groupShare (s : State) (g : Nat) : Nat :=
  sumN (s.streams.map fun e =>
    if e.2.state != .free && e.2.cls == .lineLocked && groupOf e.2 == g then e.2.cost.trackSlots else 0)

/-- A record of the group goes to a result ring: the detection's own stream's, or another's of the group (07 R259). -/
def recordPut (s : State) (x : Group) (n : Nat) (b : List Byte) : State :=
  let own := x.streams.filter fun k => (streamGet s k).ring.isSome
  match (own.find? (· == n)).or own.head? with
  | some k => resultPut s k b
  | none => s

/-- A track goes to the result ring, and its slot returns (07 R259 reasons 1, 2, 3 and 6). -/
def evict (s : State) (g : Nat) (x : Group) (t : Track) (reason : Nat) : State :=
  let s := recordPut s x t.stream (trackBytes (trackId s t.serial) g reason t)
  consReturn (bump s 0x8000200) 1 1

/-- Every track of a list goes; the group keeps the others. -/
def evictAll (s : State) (g : Nat) (p : Track → Bool) (reason : Nat) : State :=
  match groupGet s g with
  | none => s
  | some x =>
    let s := (x.tracks.filter p).foldl (fun s t => evict s g x t reason) s
    groupPut s g { x with tracks := x.tracks.filter fun t => !p t }

/-- A track as a detection opens it. -/
def openTrack (b : List Byte) (slot serial n : Nat) : Track :=
  { slot := slot, serial := serial, pos := detPos b, closed := false, lat := detLat b, cls := detClass b,
    conf := detConf b, sightings := 1, cams := 2 ^ (detCam b % 16), firstPos := detPos b, lastPos := detPos b,
    lastTime := detTime b, along := leAt b 16 4, latExt := leAt b 20 4, stream := n }

/-- A record built from a detection alone (07 R259 reasons 4 and 5); its identifier is a free value (log entry 36). -/
def aloneRecord (s : State) (g : Nat) (x : Group) (n : Nat) (b : List Byte) (reason : Nat) : State :=
  let id := freeBytes s 8
  let s := recordPut id.2 x n (trackBytes (leNat id.1) g reason (openTrack b 0 0 n))
  bump s (if reason = 4 then 0x8000204 else 0x8000208)

/-- 07 R257: a detection is gated to a track. -/
def gated (r : List Byte) (b : List Byte) (t : Track) : Bool :=
  let c := grpClass r (detClass b)
  let k := grpClass r t.cls
  !t.closed && c.valid && k.valid && c.compat == k.compat &&
    decide ((serialDiff 48 (detPos b) t.pos).natAbs ≤ c.along * 4096 ∧ (detLat b - t.lat).natAbs ≤ c.lat * 4096)

/-- 07 R257: the measure that the join minimises. -/
def joinCost (r : List Byte) (b : List Byte) (t : Track) : Nat :=
  let c := grpClass r (detClass b)
  ((serialDiff 48 (detPos b) t.pos).natAbs * c.lat + (detLat b - t.lat).natAbs * c.along) % 2 ^ 64

/-- The gated track of least cost, a tie going to the lower serial. -/
def bestTrack (r : List Byte) (b : List Byte) (l : List Track) : Option Track :=
  (l.filter (gated r b)).foldl (fun m t => match m with
    | none => some t
    | some u =>
      if joinCost r b t < joinCost r b u ∨ (joinCost r b t = joinCost r b u ∧ t.serial < u.serial) then some t
      else some u) none

/-- 07 R258: the track after a join. -/
def joined (b : List Byte) (t : Track) : Track :=
  let k := min (t.sightings + 1) 65535
  { t with
    pos := low (t.pos + roundEvenDiv (serialDiff 48 (detPos b) t.pos) k) 48,
    lat := sx 32 (low (t.lat + roundEvenDiv (detLat b - t.lat) k) 32),
    cls := if t.conf < detConf b then detClass b else t.cls, conf := max t.conf (detConf b), sightings := k,
    cams := t.cams ||| 2 ^ (detCam b % 16),
    firstPos := if serialGe 48 (detPos b) t.firstPos then t.firstPos else detPos b,
    lastPos := if serialGe 48 (detPos b) t.lastPos then detPos b else t.lastPos,
    lastTime := detTime b, along := max t.along (leAt b 16 4), latExt := max t.latExt (leAt b 20 4) }

/-- The closed track that goes when the share is full: lowest conf, then lower serial. -/
def victim (l : List Track) : Option Track :=
  (l.filter (·.closed)).foldl (fun m t => match m with
    | none => some t
    | some u => if t.conf < u.conf ∨ (t.conf = u.conf ∧ t.serial < u.serial) then some t else some u) none

/-- 07 R257: a track is opened in the lowest free slot of the share. -/
def putTrack (s : State) (g : Nat) (x : Group) (d : Det) : State :=
  match lowest (groupShare s g) fun k => x.tracks.all fun t => t.slot != k with
  | some k =>
    let t := openTrack d.bytes k s.trackSerial d.stream
    let s := groupPut s g { x with tracks := x.tracks ++ [t] }
    consIssue { s with trackSerial := (s.trackSerial + 1) % 2 ^ 48 } 1 1
  | none => aloneRecord s g x d.stream d.bytes 4

/-- 07 R257 to R259: one detection is applied. -/
def applyDet (s : State) (g : Nat) (d : Det) : State :=
  match groupGet s g with
  | none => s
  | some x =>
    match bestTrack x.record d.bytes x.tracks with
    | some t => groupPut s g { x with tracks := x.tracks.map fun u => if u.slot = t.slot then joined d.bytes u else u }
    | none =>
      if x.tracks.length < groupShare s g then putTrack s g x d else
      match victim x.tracks with
      | some v =>
        let s := evictAll s g (fun t => t.slot == v.slot) 1
        match groupGet s g with
        | some x => putTrack s g x d
        | none => s
      | none => aloneRecord s g x d.stream d.bytes 4

/-- The odometry runs in reverse at a time: its last change of position before it was negative. -/
def odoBack (s : State) (t : Nat) : Bool :=
  let rec go : List (Nat × Int) → Bool
    | [] => false
    | [_] => false
    | b :: a :: rest => if b.1 ≤ t ∧ a.2 ≠ b.2 then decide (b.2 < a.2) else go (a :: rest)
  go s.odo.samples

/-- 07 R259: whether a track closes at the applied point. -/
def closes (s : State) (r : List Byte) (applied : Nat) (t : Track) : Bool :=
  let o := odoAt s applied
  let c := (grpClass r t.cls).close * 65536
  if odoBack s applied then
    serialGe 48 ((t.lastPos + 2 ^ 48 - c % 2 ^ 48) % 2 ^ 48) (low (o + grpFront r) 48)
  else serialGe 48 (low (o + grpRear r) 48) ((t.lastPos + c) % 2 ^ 48)

/-- The sources that the home waits for. -/
def awaited (x : Group) : List Nat := (grpMembers x.record).filter fun m => !x.notAwaited.contains m

/-- The least watermark of the awaited sources; with none awaited the applied point stays. -/
def leastMark (x : Group) : Nat :=
  match (awaited x).map fun m => (tget x.marks m).getD 0 with
  | [] => x.applied
  | a :: as => as.foldl min a

/-- The applied point moves to a time, and the tracks that close there close (07 R259). -/
def moveApplied (s : State) (g time : Nat) : State :=
  match groupGet s g with
  | none => s
  | some x =>
    let a := max x.applied time
    let shut := fun (t : Track) => if !t.closed && closes s x.record a t then { t with closed := true } else t
    groupPut s g { x with applied := a, tracks := x.tracks.map shut }

/-- Apply the waiting detections that a predicate selects, in key order. Each detection is a step of application, at its own
time, so that closing does not depend on how many arrived together (07 R254, R259; DEDUCED, log entry 91). -/
def applyDets (s : State) (g : Nat) (p : Det → Bool) : State :=
  match groupGet s g with
  | none => s
  | some x =>
    if !x.queue.any p then s else
    let s := slotJob (groupPut s g { x with queue := x.queue.filter fun d => !p d })
    (sortBy keyLe (x.queue.filter p)).foldl (fun s d => applyDet (moveApplied s g d.time) g d) s

/-- 07 R254, R259: apply every detection before the least watermark, and move the applied point to it. A batch waits while the
common pool of the scoreboard has no slot for it (09 R303). -/
def applyGroup (s : State) (g : Nat) : State :=
  match groupGet s g with
  | none => s
  | some x =>
    let p := fun (d : Det) => decide (d.time < leastMark x)
    if x.queue.any p && !commonFree s then s else moveApplied (applyDets s g p) g (leastMark x)

/-- A group ends on this device: the detections that still wait are applied first, so that each joins a track or appears in
a record (07 R259, log entry 91), then every track goes. -/
def endGroup (s : State) (g reason : Nat) : State :=
  let s := evictAll (applyDets s g fun _ => true) g (fun _ => true) reason
  { s with groups := tdel s.groups g }

/-! ### Arrival at a home -/

/-- A detection reaches its home: it waits for its place, or is late (07 R255). -/
def takeDet (s : State) (g : Nat) (d : Det) : State :=
  match groupGet s g with
  | none => s
  | some x =>
    if x.seen.contains (detKey d) then s else
    let x := { x with seen := x.seen ++ [detKey d] }
    if d.time < x.applied then aloneRecord (groupPut s g x) g x d.stream d.bytes 5
    else groupPut s g { x with queue := x.queue ++ [d] }

/-- A watermark reaches a home (07 R254, R255). -/
def takeMark (s : State) (g src time : Nat) : State :=
  match groupGet s g with
  | none => s
  | some x =>
    if !(grpMembers x.record).contains src then s else
    let old := (tget x.marks src).getD 0
    let adv := decide (old < time)
    let x := { x with marks := tset x.marks src (max old time),
                      stalls := if adv then tset x.stalls src s.elapsed else x.stalls,
                      notAwaited := if adv && decide (x.applied ≤ time) then x.notAwaited.filter (· != src) else x.notAwaited }
    applyGroup (groupPut s g x) g

/-- A routed request that is resent until it is answered: without a route now it waits in the table (12 R391). -/
def requestKept (s : State) (type dst stream addr : Nat) (data : List Byte) : State :=
  match request s type 6 dst stream addr (data.length / 16) data none stream with
  | .ok s => s
  | .error _ =>
    let t := freshTag s
    let p : Packet := ⟨type, 6, false, dst, ownNode s, stream, data.length / 16, addr, 0, t, data⟩
    { s with fab := { s.fab with nextTag := (t + 1) % 65536,
                                 outstanding := s.fab.outstanding ++ [⟨t, p, none, stream, s.elapsed⟩] } }

/-- A watermark of this device goes to every member (07 R254). -/
def sendMarks (s : State) (g n time : Nat) : State :=
  match groupGet s g with
  | none => s
  | some x =>
    (dedup (grpMembers x.record)).foldl (fun s m =>
      if m = ownNode s then takeMark s g m time
      else requestKept s 0x07 m n g (leBytes 8 time ++ leBytes 8 0)) s

/-- A detection of a stream's ring is taken: it is an untracked record, or goes to its home here or on another device. None while
the outstanding table has no room for it, unless `force` (12 R391). -/
def sendDet (s : State) (n g : Nat) (gr : Group) (b : List Byte) (force : Bool) : Option State :=
  if !(grpClass gr.record (detClass b)).valid then some (aloneRecord s g gr n b 4) else
  let home := homeOf gr.record (detPos b)
  let d : Det := ⟨detTime b, ownNode s, detCam b, gr.nextIndex, n, b⟩
  let t := groupPut s g { gr with nextIndex := (gr.nextIndex + 1) % 2 ^ 32 }
  if home = ownNode s then some (takeDet t g d)
  else if !force && !tableRoom s 1 then none
  else some (requestKept (bump t 0x800020C) 0x06 home n (g + 2 ^ 8 * d.index) b)

/-- Whether a detection's output is released: it is no critical head's, or it is of the run released; none while that head's runs are
not compared (08 R277, R278). -/
def detReleased (x : Stream) (d : DetIn) : Option Bool :=
  match d.crit with
  | none => some true
  | some (h, band, run) => match x.critRuns.find? fun r => r.1 == h && r.2.1 == band with
    | some r => some (r.2.2 == some run)
    | none => if band < x.kept then some false else none

/-- The detections of a stream's ring that can go, oldest first, and those that stay. -/
def drainDets (n : Nat) (force : Bool) : List (DetIn × Nat) → State → State × List (DetIn × Nat)
  | [], s => (s, [])
  | d :: l, s =>
    let g := groupOf (streamGet s n)
    match detReleased (streamGet s n) d.1, groupGet s g with
    | none, _ => (s, d :: l)
    | some true, some gr => match sendDet s n g gr d.1.bytes force with
      | some s => drainDets n force l s
      | none => (s, d :: l)
    | _, _ => drainDets n force l s

/-- A stream's detection ring is emptied as far as it can be. -/
def sendDets (s : State) (n : Nat) (force : Bool) : State :=
  let r := drainDets n force (streamGet s n).dets s
  streamPut r.1 n { streamGet r.1 n with dets := r.2 }

/-- The time of the first input line of the band that holds a time: of the bands issued and not kept, the last that begins at or
before it. -/
def bandStart (s : State) (n time : Nat) : Nat :=
  let x := streamGet s n
  let ts := ((List.range (x.band - x.kept)).filterMap fun i => bandTime s n (x.kept + i)).filter fun t => decide (t ≤ time)
  if ts.isEmpty then time else maxN ts

/-- DETECTION: 07 R253 to R256, R259. A detection stays in its ring while the outstanding table has no room for it (12 R391), and
one of a critical head until its runs are compared (08 R277). -/
def execDetection (n : Nat) (x : DetIn) (s : State) : Host.Outcome State Fault Refusal :=
  let y := streamGet s n
  match groupGet s (groupOf y) with
  | none => .next s
  | some gr =>
    if !gr.streams.contains n then .next s
    else .next (sendDets (streamPut s n { y with dets := y.dets ++ [(x, bandStart s n (detTime x.bytes))] }) n false)

/-- WATERMARK: 07 R254, R255. -/
def execWatermark (g src time : Nat) (s : State) : Host.Outcome State Fault Refusal := .next (takeMark s g src time)

/-- SOURCE_TIMEOUT: 07 R255. -/
def execSourceTimeout (g src : Nat) (s : State) : Host.Outcome State Fault Refusal :=
  match groupGet s g with
  | none => .next s
  | some x =>
    let last := (tget x.stalls src).getD 0
    let other := x.stalls.any fun e => e.1 != src && decide (last < e.2)
    if (grpMembers x.record).contains src && !x.notAwaited.contains src && other &&
        decide (grpTimeout x.record * 1000000 ≤ s.elapsed - last) then
      let s := groupPut s g { x with notAwaited := x.notAwaited ++ [src] }
      .next (applyGroup (eventAdd (logAdd s 0x0213 8 1 (g + 2 ^ 16 * (src % 2 ^ 16))) 0x44 g) g)
    else .next s

/-- Detections that reach their home are taken and answered (12 R388, R390); the order index travels above the group in the
type-specific field (log entry 36). -/
def serveAssoc (s : State) (p : Packet) : State :=
  let k := p.data.length / 32
  let g := p.addr % 256
  if k = 0 ∨ 8 < k ∨ p.data.length % 32 ≠ 0 then refuseTo s p 8 else
  match groupGet s g with
  | none => refuseTo s p 9
  | some _ =>
    let dets := (chunks 32 k p.data).zipIdx.map fun (b, i) =>
      (⟨detTime b, p.src, detCam b, p.addr / 2 ^ 8 + i, p.stream, b⟩ : Det)
    respond (dets.foldl (fun s d => takeDet s g d) s) p 0x04 0 []

/-- A watermark that reaches a home is taken and answered (12 R388, R390). -/
def serveMark (s : State) (p : Packet) : State :=
  let g := p.addr % 256
  if p.data.length ≠ 16 then refuseTo s p 8 else
  match groupGet s g with
  | none => refuseTo s p 9
  | some _ => respond (takeMark s g p.src (leAt p.data 0 8)) p 0x04 0 []

/-- ASSOC: detections for this home (12 R388, R390, R405). -/
def execAssoc (p : Packet) (s : State) : Host.Outcome State Fault Refusal :=
  .next (if !reaches s p 0x06 then s else if resetting s then holdRequest s p else serveAssoc s p)

/-- WMARK: a watermark for this home (12 R388, R390, R405). -/
def execWmark (p : Packet) (s : State) : Host.Outcome State Fault Refusal :=
  .next (if !reaches s p 0x07 then s else if resetting s then holdRequest s p else serveMark s p)

/-- FLUSH_TRACKS: 07 R259 reason 2, 09 R290. -/
def execFlushTracks (wid : Nat) (s : State) : Host.Outcome State Fault Refusal :=
  match startedAs s wid 0x0A with
  | none => .next s
  | some w =>
    if w.cancelled then .next (complete s wid 3 0)
    else .next (complete (evictAll s (leAt w.desc 8 1) (·.closed) 2) wid 0 0)

/-! ### Streams of a group -/

/-- A stream starts in a group: the first loads the group record (07 R252); the subcode and the
stop of its read where it cannot be used. -/
def joinGroup (s : State) (n g : Nat) : Except (Nat × Option MemStop) State :=
  if g = 0 then .ok s else
  match groupGet s g with
  | some x => .ok (groupPut s g { x with streams := x.streams ++ [n] })
  | none =>
    match devRead s (readBy n 0) (reg64 s (0x8000000 + g * 0x10)) 3072 with
    | .error m => .error (0x08, some m)
    | .ok r =>
      if !grpOk r then .error (0x01, none) else
      .ok (groupPut s g { record := r, streams := [n], tracks := [], marks := [], notAwaited := [],
                          stalls := (grpMembers r).foldl (fun l m => tset l m s.elapsed) [], queue := [], seen := [], applied := 0, nextIndex := 0 })

/-- A stream is released: its detections leave its ring first, and the last stream of a group takes every track with it (07 R259
reason 3). -/
def leaveGroup (s : State) (n : Nat) : State :=
  let s := sendDets s n true
  let g := groupOf (streamGet s n)
  match groupGet s g with
  | none => s
  | some x =>
    if !x.streams.contains n then s
    else if x.streams.all (· == n) then endGroup s g 3
    else groupPut s g { x with streams := x.streams.filter (· != n) }

end Sys2Proof.Machine
end

