-- ==== Sys2Proof/Machine/Streams.lean ====
section
/-! DEFINITION. Streams: START (06 R194, R198), HALT, faults and their records (06 R210 to R213, 09 R307), RESUME (06
R213, R214), CANCEL (09 R306, 06 R204) and RELEASE (05 R176, 06 R193). -/
namespace Sys2Proof.Machine

/-! ### Partitions of a stream -/

/-- Set every band counter of a stream's partitions to (r, 0, 0): at Start and at Resume they do not advance but are set
(06 R198, R201). -/
def setCounters (s : State) (n r : Nat) : State :=
  (s.parts.filter fun e => e.2.stream == n).foldl (fun s e => putCounters s e.1 n (r % 2 ^ 32) 0) s

/-- Works of a stream's schedule end; their writes stay. -/
def dropSchedule (s : State) (n : Nat) : State :=
  ((s.works.filter fun e => e.2.pair.isNone && e.2.stream == n).map (·.1)).foldl (fun s wid =>
    match workGet s wid with
    | some w => endWork s wid w.slot
    | none => s) s

/-! ### ADMIT -/

/-- What the schedule of the variant taken gives the stream at admission: its cameras store lines from now on, in rings whose
rows are their tokens (06 R186, 14 R463), and its channels follow the track, so that their ports send triggers (07 R247,
R251). -/
def holdUnits (s : State) (n : Nat) (d : Sched) : State :=
  let x := streamGet s n
  let s := streamPut s n { x with sched := some d }
  let s := (bitsOf 16 x.camMask).foldl (fun s p =>
    consCap s (22 + p) ((d.cams.find? fun c => c.port == p).elim 0 (·.ringRows))) s
  (bitsOf 16 x.rsmpMask).foldl (fun s c => chanPut s c (newChan s c [])) s

/-- ADMIT: 05 R170 to R179, R519 to R521. A result that the Supervisor disagrees with takes no effect, and the request
waits to be evaluated again (14 R459). -/
def execAdmit (wid : Nat) (x : AdmitIn) (s : State) : Host.Outcome State Fault Refusal :=
  match startedAs s wid 0x03 with
  | none => .next s
  | some w =>
    let s := applyErrs s w.stream x.errs
    match devRead s (readBy 0 wid) (leAt w.desc 8 8) 64 with
    | .error m => .next (completeErr (noteStop s 0 m) wid 0x08)
    | .ok b =>
      let q := decRequest b
      match requestErr b w.stream, checkRange s (writeBy 0 wid) q.result 128, readPackage s wid q with
      | some c, _, _ => .next (completeErr s wid c)
      | none, some m, _ => .next (completeErr (noteStop s 0 m) wid 0x08)
      | none, none, .error m => .next (completeErr (noteStop s 0 m) wid 0x08)
      | none, none, .ok (pkg, stop) =>
        let s := noteStopOf s 0 stop
        if !x.agree then .next (decisionMismatch s 1) else
        let vd := decideRequest s q pkg
        let t := match vd with
          | .fits v c =>
            if q.dry then s else holdUnits (reserve s q v c (w.pair.getD 0)) q.stream (x.scheds.getD v Sched.none)
          | .fails _ => s
        let r := resultBytes s t q vd
        match devWrite t (writeBy 0 wid) q.result r with
        | .error m => .next (completeErr (noteStop s 0 m) wid 0x08)
        | .ok t =>
          let st := leAt r 0 1
          let t := logAdd t 0x0403 0 (st % 2) (q.stream + 2 ^ 8 * st + 2 ^ 16 * leAt r 1 1 + 2 ^ 24 * leAt r 2 1)
          .next (complete t wid 0 (st + 2 ^ 8 * leAt r 1 1))

/-! ### START -/

/-- Channels of a stream with their coefficient tables, or the stop where a table is not granted. Their lines begin anew, and the
track is followed as before. -/
def makeChans (s : State) (n : Nat) : List Nat → Except MemStop State
  | [] => .ok s
  | c :: cs =>
    match devRead s (readBy n 0) (reg64 s (0x7001018 + c * 0x100)) 4096 with
    | .error m => .error m
    | .ok b =>
      let old := (tget s.chans c).getD (newChan s c [])
      let new : Chan := { newChan s c b with
        motion := old.motion, back := old.back, lineBack := old.back, extreme := old.extreme,
        extremeAt := old.extremeAt, stopAt := old.stopAt,
        lastMove := old.lastMove, lastMovePos := old.lastMovePos, trigLast := old.trigLast, trigHeld := old.trigHeld }
      makeChans (chanPut s c new) n cs

/-- 10 R339: the reserve window that a variant with buffers to fetch again needs is missing or too short. -/
def reserveShort (s : State) (n : Nat) (d : Sched) : Bool :=
  if d.refetch.isEmpty then false else
  let need := maxN (d.refetch.map fun r =>
    maxN ((s.wins.filter fun e => e.2.owner == n && e.2.covers r.base).map (·.2.len)))
  match ownWindow s n 5 with
  | some (_, w) => decide (w.len < need)
  | none => true

/-- A held channel has no reversal hysteresis or stop time (07 R251). -/
def chanUnset (s : State) (n : Nat) : Bool :=
  (bitsOf 16 (streamGet s n).rsmpMask).any fun c => f (chanCfg s c) 23 16 == 0 || f (chanCfg s c) 15 0 == 0

/-- Line tokens of a port's stored lines return. -/
def clearCam (s : State) (p : Nat) : State :=
  let c := camGet s p
  consReturn (camPut s p { c with lines := [], hdr := none }) (22 + p) (c.lines.filter (·.tok)).length

/-- Cameras of a starting stream: its band 0 begins with the next line that each stores (06 R194), for area frames with the
next whole frame (06 R197). No operation reads the lines stored before, so their tokens return (06 R189). -/
def startCams (s : State) (n : Nat) : State :=
  let ports := bitsOf 16 (streamGet s n).camMask
  let s := ports.foldl (fun s p =>
    let s := clearCam s p
    let c := camGet s p
    camPut s p { c with frames := 0, skip := c.image.map (·.1), missed := false }) s
  streamPut s n { streamGet s n with camBase := ports.map fun p => (p, (camGet s p).seq) }

/-- START: 06 R193, R194, R198, 09 R294, 07 R251, R252, 10 R339. -/
def execStart (wid : Nat) (e : MemErrs) (s : State) : Host.Outcome State Fault Refusal :=
  match startedAs s wid 0x05 with
  | none => .next s
  | some w =>
    let n := w.stream
    let s := applyErrs s n e
    let x := streamGet s n
    let sched := x.sched.getD Sched.none
    if x.state ≠ .admitted ∨ x.ring.isNone then .next (complete s wid 6 x.state.code)
    else if chanUnset s n then .next (completeErr s wid 0x01)
    else if reserveShort s n sched then .next (completeErr s wid 0x08)
    else
      let t := streamPut s n { x with band := 0, kept := 0, front := 0, bypassed := [], bypassOut := [], bypassLines := [],
                                      empties := [], critRuns := [], dets := [], spooled := [], spoolStop := false, record := false, pos := List.replicate 8 0, faulting := none, prefStop := false }
      match makeChans t n (bitsOf 16 x.rsmpMask) with
      | .error m => .next (completeErr (noteStop s n m) wid 0x08)
      | .ok t =>
        match joinGroup t n sched.group with
        | .error e => .next (completeErr (noteStopOf s n e.2) wid e.1)
        | .ok t =>
          let t := setCounters (startCams t n) n 0
          .next (complete (setStream t n (if x.bypass47 then .bypass else .running) true) wid 0 0)

/-! ### Faults and HALT -/

/-- STREAM_FAULT: 06 R210, R213 step 1; the work that the fault names is struck where it is the stream's own. -/
def execStreamFault (n : Nat) (fi : FaultInfo) (s : State) : Host.Outcome State Fault Refusal :=
  let mine := match fi.wid with
    | some w => match workGet s w with
      | some k => k.stream == n && k.pair.isSome
      | none => false
    | none => false
  if mine then
    match fi.wid with
    | some w => .next (faultWork s w n fi)
    | none => .next s
  else .next (raiseFault s n { fi with wid := none })

/-- HALT: the fault event with cause 0x0A (09 R307). -/
def execHalt (wid : Nat) (s : State) : Host.Outcome State Fault Refusal :=
  match startedAs s wid 0x07 with
  | none => .next s
  | some w =>
    let x := streamGet s w.stream
    if x.faulting.isSome then .next (complete s wid 6 5)
    else if x.active || x.state == .shed then .next (faultWork s wid w.stream (plainFault 0x0A))
    else .next (complete s wid 6 x.state.code)

/-- The time field of a record (06 R211). -/
def recordTime (s : State) (n detected : Nat) : Nat :=
  let x := streamGet s n
  if x.cls = .lineLocked then (bandTime s n x.kept).getD detected else detected

/-- Works of a stream that still read over the fabric or RRP; RRP reads of a lost session are dropped (06 R204). -/
def readsOpen (s : State) (n : Nat) : Bool := s.works.any fun e => e.2.stream == n &&
  (s.fab.outstanding.any (fun r => r.wid == some e.1 && r.packet.type == 0x02) ||
    s.rrp.state != 2 && s.rrp.reads.any fun r => r.2.1 == 1 && r.2.2.1 == e.1)

/-- The record is written and the stream is HALTED (06 R213 step 2). -/
def haltStream (s : State) (n : Nat) (fi : FaultInfo) (detected : Nat) (event : Bool) : State :=
  let x := streamGet s n
  let p := positionRecord n x fi (recordTime s n detected)
  let s := dropSchedule s n
  let s := streamPut s n { streamGet s n with
    bypassLines := x.bypassLines.filter fun b => decide (b.1 < x.kept), empties := [], critDone := [],
    critRuns := x.critRuns.filter fun r => decide (r.2.1 < x.kept), dets := x.dets.filter fun d => d.1.crit.isNone,
    spoolStop := fi.cause == 0x08, state := .halted, cause := fi.cause, record := true, pos := p, faulting := none, wasBypass := x.state == .bypass,
    band := x.kept }
  let s := logHalt s n fi false
  if event then streamEvent s n 0x40 (StState.halted.code + 2 ^ 8 * fi.cause) else s

/-- HALT_RECORD: 06 R213 step 2, R210, R211, 09 R296, R307. -/
def execHaltRecord (n : Nat) (s : State) : Host.Outcome State Fault Refusal :=
  match (streamGet s n).faulting with
  | none => .next s
  | some (fi, t) =>
    if readsOpen s n then .next s else
    let s := haltStream s n fi t (fi.cause != 0x0A)
    match fi.wid with
    | some w =>
      if fi.cause = 0x0A then .next (complete s w 0 0)
      else .next (complete s w 4 (fi.cause + 2 ^ 8 * fi.window))
    | none => .next s

/-! ### RESUME -/

/-- Bands of which a port has begun to store lines. -/
def bandsBegun (s : State) (x : Stream) (b : Nat × Nat) : Nat :=
  let c := camGet s b.1
  if c.lines.any (·.area) then c.frames * frameBands x
  else ceilDiv ((c.seq + 2 ^ 32 - b.2) % 2 ^ 32) (max 1 x.cost.bandLines)

/-- Every input line of a band is still held in its ring, or is still to come (06 R214): none of its tokens has returned, and
the ring has not lost its first lines. -/
def bandInRing (s : State) (x : Stream) (band : Nat) : Bool :=
  x.camBase.all fun b =>
    let c := camGet s b.1
    let mine := c.lines.filter fun l => bandOf x b.1 l == some band
    decide (bandsBegun s x b ≤ band) || (mine.all (·.tok) && match bandFirst x b.1 c band with
      | some l => !l.area || l.row % max 1 x.cost.bandLines == 0
      | none => false)

/-- 06 R214: the band at which a line-locked stream goes on, at or after its record's band. -/
def resumeBand (s : State) (x : Stream) (first : Nat) : Nat :=
  let now := maxN (x.camBase.map (bandsBegun s x))
  let cand := (List.range (now - first + x.bypassed.length + x.bypassOut.length + 2)).map fun i => first + i
  (cand.find? fun r => !x.bypassed.contains r && !x.bypassOut.contains r && bandInRing s x r).getD (now + 1)

/-- The stream runs again from a band (06 R201, R213 steps 5 and 6): in BYPASS where it was in it and step 4 has not been
undone since. `byHome` where a descriptor of the home pair asked for it (09 R298). -/
def resumeAt (s : State) (n r : Nat) (byHome : Bool) : State :=
  let x := streamGet s n
  let skipped := if x.cls = .lineLocked then
      ((List.range (r - x.kept)).map fun i => x.kept + i).filter fun b => !x.bypassed.contains b
    else []
  let s := streamPut s n { x with band := r, kept := r, front := max x.front r, bypassed := x.bypassed ++ skipped, prefStop := false,
                                  spoolStop := false, empties := [], spooled := x.spooled.filter fun b => serialGe 32 b.band r }
  let goal : StState := if x.bypass47 || (x.state == .halted && x.wasBypass && x.step == 4) then .bypass else .running
  returnTokensOf (setStream (setCounters s n r) n goal byHome) n

/-- RESUME: 06 R193, R213, R214. A stream that is HALTED goes on from the record it holds; a deferrable stream that is
ADMITTED from the record copy named. -/
def execResume (wid : Nat) (e : MemErrs) (s : State) : Host.Outcome State Fault Refusal :=
  match startedAs s wid 0x06 with
  | none => .next s
  | some w =>
    let n := w.stream
    let s := applyErrs s n e
    let x := streamGet s n
    let copy := leAt w.desc 8 8
    if x.state = .halted ∧ x.record then
      let first := (x.pos.getD 1 0).toNat
      let r := if x.cls = .lineLocked then resumeBand s x first else first
      .next (complete (resumeAt s n r true) wid 0 0)
    else if x.state = .admitted ∧ x.cls = .deferrable ∧ copy ≠ 0 then
      match devRead s (readBy 0 wid) copy 32 with
      | .error m => .next (completeErr (noteStop s 0 m) wid 0x08)
      | .ok b =>
        if leAt b 0 2 = n ∧ bitOf (leAt b 3 1) 0 ∧ leAt b 2 1 = 0x09 then
          match joinGroup s n (x.sched.getD Sched.none).group with
          | .error e => .next (completeErr (noteStopOf s n e.2) wid e.1)
          | .ok t => .next (complete (resumeAt t n (leAt b 4 4) true) wid 0 0)
        else .next (complete s wid 6 x.state.code)
    else .next (complete s wid 6 x.state.code)

/-! ### Cancelling ring-issued work (09 R306) -/

/-- The FLIP of a work is pending on an output. -/
def pendingOn (s : State) (wid : Nat) : Option (Nat × Plane) :=
  [0, 1].findSome? fun d => match (dispGet s d).pending with
    | some p => if p.wid = some wid then some (d, p) else none
    | none => none

/-- One target: the state, how many operations end as cancelled, and the works that must still end. -/
def strike (s : State) (wid : Nat) : State × Nat × List Nat :=
  match workGet s wid with
  | none => (s, 0, [])
  | some w =>
    let op := leAt w.desc 0 1
    if w.pair.isNone || op == 0x08 || isManagement op then (s, 0, [])
    else if w.phase = .fetched ∨ w.phase = .heldOff then (complete s wid 3 0, 1, [])
    else if w.op.any (fun o => w.phase == .computed && opKept s o) ∨ op = 0x09 then (s, 0, [wid])
    else if op = 0x0B then
      match pendingOn s wid with
      | some (d, p) => (cancelPlane (dispPut s d { dispGet s d with pending := none }) p, 1, [])
      | none => (s, 0, [wid])
    else if op = 0x02 ∧ (lateReads s wid ≠ 0 ∨ !dmaAtCut (decDma w.desc) w.aux) then
      (workPut s wid { w with cancelled := true }, 1, [wid])
    else (complete s wid 3 0, 1, [])

/-- Every target of a list. -/
def strikeAll (s : State) : List Nat → State × Nat × List Nat
  | [] => (s, 0, [])
  | w :: ws =>
    let a := strike s w
    let b := strikeAll a.1 ws
    (b.1, a.2.1 + b.2.1, a.2.2 ++ b.2.2)

/-- A descriptor that is posted and not fetched, where it can be read. -/
def postedDesc (s : State) (p i : Nat) : Option (List Byte) :=
  if pairRemote s p then tget (pairGet s p).fetched i
  else (devRead s (readBy 0 0) (reg64 s (0x5001000 + p * 0x40) + i % 2 ^ sqLog2 s p * 64) 64).toOption

/-- Operations that a pair has posted behind the descriptor in hand, that are not fetched, and that a predicate selects (09 R306,
log entry 100). -/
def postedOps (s : State) (p : Nat) (sel : List Byte → Bool) : List Nat :=
  let x := pairGet s p
  if !pairEnabled s p || x.stopped then [] else
  ((List.range ((x.sqDb + 2 ^ 32 - x.fetch) % 2 ^ 32)).map fun i => (x.fetch + i) % 2 ^ 32).filter fun i =>
    !x.cancels.contains i && (postedDesc s p i).any fun d => opcodeSlot (leAt d 0 1) && sel d

/-- They end as cancelled when their pair reaches them, in ring order. -/
def markPosted (s : State) (p : Nat) (l : List Nat) : State :=
  let x := pairGet s p
  if l.isEmpty then s else pairPut s p { x with cancels := x.cancels ++ l }

/-- Ring-issued works that a predicate selects. -/
def ringWorks (s : State) (p : Nat → Work → Bool) : List Nat :=
  (s.works.filter fun e => e.2.pair.isSome && p e.1 e.2).map (·.1)

/-- CANCEL: 09 R306, 06 R204. Its completion follows when every target has completed. -/
def execCancel (wid : Nat) (s : State) : Host.Outcome State Fault Refusal :=
  match startedAs s wid 0x08 with
  | none => .next s
  | some w =>
    let scope := leAt w.desc 8 1
    let targets := ringWorks s fun k v => k != wid &&
      (if scope = 1 then v.stream == w.stream
       else v.pair == w.pair && (scope == 2 || leAt v.desc 4 4 == leAt w.desc 12 4))
    let p := w.pair.getD 64
    let later := postedOps s p fun d =>
      if scope = 1 then leAt d 2 1 == w.stream else scope == 2 || leAt d 4 4 == leAt w.desc 12 4
    let r := strikeAll (markPosted (targets.foldl dropWorkBlocks s) p later) targets
    .next (workPut r.1 wid { w with phase := .waiting, aux := r.2.1 + later.length, targets := r.2.2, posted := later })

/-- Cancelled transfers that stand at a boundary of their destination and whose reads have all ended complete as cancelled. -/
def settle (s : State) (l : List Nat) : State :=
  l.foldl (fun s k => match workGet s k with
    | some w => if w.cancelled && lateReads s k == 0 && dmaAtCut (decDma w.desc) w.aux then complete s k 3 0 else s
    | none => s) s

/-- CANCEL_DRAINED: 06 R204, 09 R290, R296. -/
def execCancelDrained (wid : Nat) (s : State) : Host.Outcome State Fault Refusal :=
  match workGet s wid with
  | none => .next s
  | some w =>
    if w.pair.isNone ∨ leAt w.desc 0 1 ≠ 0x08 ∨ w.phase ≠ .waiting then .next s else
    let s := settle s w.targets
    let held := (pairGet s (w.pair.getD 64)).cancels
    if w.targets.all (fun k => (workGet s k).isNone) && w.posted.all (fun i => !held.contains i) then
      .next (complete s wid 0 (min w.aux 0xFFFF))
    else .next s

/-! ### RELEASE -/

/-- A releasing stream has an operation in flight. -/
def inFlight (s : State) (n : Nat) : Bool :=
  s.works.any fun e => e.2.stream == n && !(e.2.pair.isSome && isManagement (leAt e.2.desc 0 1))

/-- Registers of no one stream that work in flight uses: the spool's wait, the rings' places and event pair, the fabric's timeout. -/
def sharedReg (a : Nat) : Bool :=
  a == 0x3F00 || a == 0x5000000 || a == 0x5000008 || a == 0x500000C || a == 0xB000008 ||
    (decide (0x5001000 ≤ a ∧ a < 0x5002000) && decide (a % 0x40 < 0x10))

/-- Work in flight uses the block of such a register: a stream waits for buffers of the spool pool, a descriptor is in flight (of a
pair's own registers, one of its own), or a request over the fabric waits for its answer (log entry 95). -/
def sharedBusy (s : State) (a : Nat) : Bool :=
  if a = 0x3F00 then s.streams.any fun e => e.2.wants.isSome
  else if a = 0xB000008 then !s.fab.outstanding.isEmpty
  else s.works.any fun e => match e.2.pair with
    | some p => decide (a < 0x5001000) || (a - 0x5001000) / 0x40 == p
    | none => false

/-- Registers whose held writes take effect at a band boundary of stream n (00 R20): the standing scale entries, the stream's
configuration, the offsets of its cameras, the encoders and odometry that its channels follow, and the fill colour of its
outputs. What several streams use changes at the next boundary of any of them (log entry 95). -/
def boundaryRegs (s : State) (n a : Nat) : Bool :=
  let x := streamGet s n
  decide (0x1800000 ≤ a ∧ a < 0x19A0000) || a == 0x4004 + n * 0x40 ||
    (decide (0x6001000 ≤ a ∧ a < 0x6001400) && a % 0x40 == 8 && bitOf x.camMask ((a - 0x6001000) / 0x40)) ||
    (x.rsmpMask != 0 && [0x7000000, 0x7000004, 0x7000020, 0x7000024, 0x7000040, 0x7000044].contains a) ||
    (a == 0x900001C && bitOf x.dispMask 0) || (a == 0xA00001C && bitOf x.dispMask 1) || sharedReg a

/-- The held writes that a boundary of stream n lets take effect, with what a change of encoder or odometry brings. -/
def applyBoundary (s : State) (n : Nat) : State :=
  let mine := fun (a : Nat) => (tget s.shadow a).isSome && boundaryRegs s n a
  let enc := [0, 1].filter fun e => mine (0x7000000 + e * 0x20) || mine (0x7000004 + e * 0x20)
  let t := enc.foldl encChanged (applyShadow s (boundaryRegs s n))
  if !enc.isEmpty || mine 0x7000040 then odoRebase t else t

/-- Everything a stream reserves returns (05 R176, 06 R195, 10 R323). -/
def returnAll (s : State) (n : Nat) : State :=
  let x := streamGet s n
  let s := (bitsOf 16 x.camMask).foldl (fun s p => consCap (clearCam s p) (22 + p) 0) (applyBoundary s n)
  let s := { s with chans := s.chans.filter fun e => !bitOf x.rsmpMask e.1 }
  let s := poolGive s n (poolHeld s n).length
  let s := freeWindows (freeParts s n) n
  streamPut s n { Stream.free with
    state := x.state, cause := x.cause, cls := x.cls, record := x.record, pos := x.pos, home := x.home,
    ring := match x.ring with | some r => if r.staging.isEmpty then none else some r | none => none }

/-- A share held back takes effect once no line-locked stream is admitted (06 R207). -/
def applyHeldShare (s : State) : State :=
  if lineLockedAdmitted s then s else
  match s.ddr.heldShare with
  | some v => regPut (regPut { s with ddr := { s.ddr with heldShare := none } } 0x3000400 v.toNat) 0x3000404 v.toNat
  | none => s

/-- A releasing stream without work in flight becomes FREE, and its RELEASE completes. -/
def drainStream (s : State) (n : Nat) : State :=
  let s := settle s (ringWorks s fun _ v => v.stream == n)
  if (streamGet s n).state ≠ .releasing ∨ inFlight s n then s else
  let s := setLeekFree (serveWaits (applyHeldShare (setStream (returnAll s n) n .free true)))
  match s.works.find? fun e => e.2.stream == n && e.2.pair.isSome && leAt e.2.desc 0 1 == 0x04 && e.2.phase == .waiting with
  | some e => complete s e.1 0 0
  | none => s

/-- RELEASE: 05 R176, 06 R193, 09 R294, 07 R259 reason 3. -/
def execRelease (wid : Nat) (s : State) : Host.Outcome State Fault Refusal :=
  match startedAs s wid 0x04 with
  | none => .next s
  | some w =>
    let n := w.stream
    let x := streamGet s n
    if x.state = .free ∨ x.state = .releasing then .next (complete s wid 6 x.state.code) else
    let s := match x.faulting with
      | some (fi, _) => logHalt (streamPut s n { x with faulting := none }) n fi true
      | none => s
    let s := setStream s n .releasing true
    let p := w.pair.getD 64
    let s := markPosted s p (postedOps s p fun d => leAt d 2 1 == n)
    let s := (strikeAll s (ringWorks s fun _ v => v.stream == n)).1
    let s := dropPrefetch (dropSchedule (leaveGroup s n) n) n
    .next (drainStream (workPut s wid { w with phase := .waiting }) n)

/-- STREAM_DRAINED: 06 R193, 05 R176. -/
def execStreamDrained (n : Nat) (s : State) : Host.Outcome State Fault Refusal := .next (drainStream s n)

end Sys2Proof.Machine
end

