-- ==== Sys2Proof/Machine/Schedule.lean ====
section
/-! DEFINITION. The operations that a stream's schedule issues (06 R194, 09 R303): their works, and what becomes of an
operation that cannot start. -/
namespace Sys2Proof.Machine

/-- A work of the schedule for an issued operation. -/
def schedWork (s : State) (n : Nat) (op : Op) : State :=
  match takeSlot s s.nextWid with
  | none => s
  | some (slot, t) =>
    let w : Work := { pair := none, index := 0, desc := [], stream := n, slot := some slot, phase := .running, op := some op,
                      status := 0, detail := 0, aux := 0, cancelled := false, targets := [], posted := [], buf := [] }
    takeRefs (workPut { t with nextWid := t.nextWid + 1 } t.nextWid w) t.nextWid op.ranges

/-- The outcome of the issue of operation `idx` of a band: a structure that stops a read halts the stream at that operation
(06 R211); an empty operation is counted once its band is kept (04 R142); one with a run-time bound exceeded leaves the lines
that depend on it to bypass (05 R159); a block with an error is not issued (log entry 44). -/
def applySched (s : State) (n band idx : Nat) (lines : List Nat) (i : Issue) : State :=
  let x := streamGet s n
  match i with
  | .ready op => schedWork s n op
  | .empty => streamPut s n { x with empties := x.empties ++ [band] }
  | .bound =>
    if x.cls = .lineLocked then
      streamPut s n { x with bypassLines := x.bypassLines ++
        (lines.map fun l => (band, l)).filter fun l => !x.bypassLines.contains l }
    else s
  | .denied m => raiseFault (noteStop s n m) n (memFault m idx 0xFFFFFFFF false none)
  | .bad e =>
    let r := stopFault s n e idx 0xFFFFFFFF false
    raiseFault r.1 n r.2
  | .err _ => s

/-- The issue of operation `idx` of a band; `pass` 0 for a first run, 1 and 2 for the rotated runs of a critical head (08
R276, R278). -/
def issueSched (s : State) (n band idx pass : Nat) (o : SchedOp) : Issue :=
  issueOp s n s.nextWid ⟨band, idx, pass, o.crit.map (·.1), o.cross, o.waits⟩ o.opBlock o.mappings

/-- The run of a band's schedule that an operation belongs to. -/
def schedPass (o : SchedOp) : Nat := match o.crit with | some c => min c.2 1 | none => 0

/-- Works of a band of a stream's schedule. -/
def bandWorks (s : State) (n band : Nat) : List (Nat × Work) :=
  s.works.filter fun e => e.2.stream == n && e.2.pair.isNone && (match e.2.op with
    | some op => op.band == band
    | none => false)

/-- The last operation of a band that has started is marked (06 R199). -/
def markLast (s : State) (n band : Nat) : State :=
  match (bandWorks s n band).getLast? with
  | some (wid, w) => workPut s wid { w with op := w.op.map fun op => { op with last := true } }
  | none => s

/-- Works of one run of a critical head in a band. -/
def headWorks (s : State) (n band head pass : Nat) : List (Nat × Op) :=
  (bandWorks s n band).filterMap fun e => match e.2.op with
    | some op => if op.head = some head ∧ op.pass = pass then some (e.1, op) else none
    | none => none

/-- Every operation of a run of a critical head has completed; `needed` where there must be one. -/
def headRan (s : State) (n band head pass : Nat) (needed : Bool) : Bool :=
  let l := headWorks s n band head pass
  (!needed || !l.isEmpty) && l.all fun e => match workGet s e.1 with
    | some w => w.phase == .waiting
    | none => true

/-- The third run of a critical head is issued at once (08 R278): each operation stands for the same one of the second run. -/
def issueThird (s : State) (n band head : Nat) (ops : List SchedOp) : State :=
  let idx := (headWorks s n band head 1).map fun e => e.2.opIdx
  ops.zipIdx.foldl (fun s e =>
    if (streamGet s n).faulting.isSome then s else
    let i := idx.getD e.2 0xFFFF
    applySched s n band i [] (issueOp s n s.nextWid ⟨band, i, 2, some head, e.1.cross, e.1.waits⟩ e.1.opBlock
      e.1.mappings)) s

end Sys2Proof.Machine
end

