-- ==== Sys2Proof/Machine/Pods.lean ====
section
/-! DEFINITION. Pods in service: spare substitution (14 R456, R457, R522), the loss of a pod with no spare left (02
R47, R48), and the comparison of a critical head's runs (08 R277 to R279). -/
namespace Sys2Proof.Machine

/-! ### Registers of a pod -/

/-- The standing drain-scale entries of one pod move to another; the first pod's read 0 from then on (03 R98). -/
def moveDrain (s : State) (old new : Nat) : State :=
  let go := fun (t : Tab Word) =>
    let mine := t.filter fun e => drainOf old e.1
    mine.foldl (fun t e => tset t (e.1 - drainBase old + drainBase new) e.2)
      (t.filter fun e => !drainOf old e.1 && !drainOf new e.1)
  { s with regs := go s.regs, shadow := go s.shadow }

/-- The drain-scale entries of a pod read 0. -/
def clearDrain (s : State) (pod : Nat) : State :=
  { s with regs := s.regs.filter fun e => !drainOf pod e.1, shadow := s.shadow.filter fun e => !drainOf pod e.1 }

/-! ### Substitution (R456) -/

/-- The pod is fenced: it is good no longer. -/
def fencePod (s : State) (pod : Nat) : State :=
  { s with pods := { s.pods with
      good := s.pods.good.filter (· != pod), fenced := s.pods.fenced ++ [pod],
      spares := s.pods.spares.filter (· != pod) } }

/-- A self-test of a spare ends without a verdict, and its pod store is cleared (R456 step 2). -/
def abandonTest (s : State) (pod : Nat) : State :=
  if s.pods.selfTest = some pod then
    let s := giveToken { s with pods := { s.pods with selfTest := none } } 18 1
    { s with mem := memLose s.mem fun a => region a == .podStore pod }
  else s

/-- What the loss of a logical index's pod leaves to do in an operation in flight: every tile that the pod had taken and
that has no kept completion is re-issued (05 R165), and what was delivered to the pod ahead is fetched again for the spare
(05 R153); what is still staged for the index waits for the spare. The operation's writes are those of the failed pod up to the fence and of the spare after it, which are the same
bytes (05 R166). -/
def reissueTiles (s : State) (lidx : Nat) : State :=
  { s with works := s.works.map fun e => match e.2.op with
    | some op =>
      let taken := if e.2.phase = .computed ∨ e.2.phase = .parked then
          ((tilesOf s op lidx).filter fun t => !op.kept.contains (lidx, t.num) && !op.reissue.contains (lidx, t.num)).map
            fun t => (lidx, t.num)
        else []
      (e.1, { e.2 with op := some { op with
        reissue := op.reissue ++ taken,
        fetched := op.fetched.map fun g =>
          let staged := s.staging.any fun k => k.wid == e.1 && k.step == g.step && k.src == g.unit && k.members.contains lidx
          if !staged && (stepOf op lidx ≤ g.step || streamedUnit op g.unit 4096) then
            { g with members := g.members.filter (· != lidx) }
          else g } })
    | none => e }

/-- A re-issue record in the header of every partition whose stream has an operation in flight (05 R161). Which of the 8 records a
substitution takes and what a record holds are not stated: the model takes the number of pods fenced so far modulo 8, and
free bytes (DESIGN CHOICE, log entry 37). -/
def reissueRecords (s : State) : State :=
  let k := s.pods.fenced.length % 8
  (s.parts.filter fun e => s.works.any fun w => w.2.stream == e.2.stream && w.2.op.isSome).foldl (fun s e =>
    let r := freeBytes s 64
    headerPut r.2 e.1 e.2.stream (0x600 + k * 64) r.1) s

/-- A spare takes a logical index. -/
def substitute (s : State) (pod lidx spare : Nat) : State :=
  let s := abandonTest (fencePod s pod) spare
  let s := { s with pods := { s.pods with
    lmap := modAt s.pods.lmap lidx fun _ => spare, spares := s.pods.spares.filter (· != spare) } }
  let s := reissueTiles (reissueRecords (moveDrain s pod spare)) lidx
  logAdd (bump s 0xD000048) 0x0201 1 2 (pod + 2 ^ 8 * lidx + 2 ^ 16 * spare)

/-! ### No spare left (02 R47, R48) -/

/-- D of some problem is an exact alias of an input (04 R107), so that the input is gone once it is written. -/
def Op.inPlace (op : Op) : Bool :=
  (problemsOf (decOp op.block) op.ptrs op.rt).any fun o => match o.d with
    | some d => [o.a, o.x].any fun t => match t with | some t => aliases d t | none => false
    | none => false

/-- The operation with the package's mapping for the pods now active (02 R47, 05 R145); a record that cannot be read or
used leaves the mapping it has. -/
def remap (s : State) (n wid : Nat) (op : Op) : Op :=
  match (streamReader s n wid).get (mapFor s op.maps) 32 with
  | .ok b => if mapOk b (decOp op.block) then { op with map := b } else op
  | .error _ => op

/-- Rows of the bands before the first that some tile is still to be kept of, in line kind: a restart is from the start of that
band (02 R47). -/
def rowsDone (s : State) (op : Op) : Nat :=
  let m := decMap op.map
  if m.frame then 0 else
  let open_ := (List.range 96).flatMap fun l => (tilesOf s op l).filter fun t => !op.kept.contains (l, t.num)
  match open_ with
  | [] => 0
  | t :: ts => ts.foldl (fun b u => min b u.band) t.band * m.bandRows

/-- The tiles of rows before one, as kept by the logical indices that own them now. -/
def keptBefore (s : State) (op : Op) (row : Nat) : List (Nat × Nat) :=
  if row = 0 then [] else
  (List.range 96).flatMap fun l => ((tilesOf s op l).filter fun t => decide (t.y + t.h ≤ row)).map fun t => (l, t.num)

/-- An operation that held work restarts under the new numbering and mapping: in line kind from the start of its current band,
in frame kind from its start. One that has written in place is not computed again: its outputs are those a restart would write
(03 R93), and its tiles complete anew. `old` is the state before the pod was lost. -/
def restartOp (old : State) (s : State) (wid : Nat) : State :=
  match workGet s wid with
  | some w => match w.op with
    | some op =>
      if w.open then
        let wrote := w.phase == .computed || w.phase == .parked
        let written := wrote && op.inPlace
        let row := if wrote then rowsDone old op else op.fromRow
        let op := remap s w.stream wid { op with kept := [], reissue := [], fetched := [], asked := false, stopped := [], fromRow := row }
        let op := { op with kept := keptBefore s op row }
        let op := if written then op else
          { op with counts := [], adapt := none, stand := readStanding s (decOp op.block) }
        let s := dropWorkBlocks (workPut s wid { w with phase := if written then w.phase else .running, op := some op }) wid
        putCursors s op w.stream ((List.range 96).map (tilesOf s op))
      else s
    | none => s
  | none => s

/-- R48: fewer than 88 pods are left. -/
def stopArray (s : State) : State :=
  let ring := ringWorks s fun _ w => leAt w.desc 0 1 == 0x01 && w.op.isSome && w.phase != .waiting
  let hit := (admittedIds s).filter fun n =>
    let x := streamGet s n
    x.cls == .deferrable && (x.state == .running || x.state == .shed || s.works.any fun w => w.2.stream == n && w.2.op.isSome)
  let ll := (admittedIds s).filter fun n => (streamGet s n).cls == .lineLocked
  let s := ring.foldl (fun s w => complete s w 4 0xFF0C) s
  let s := ll.foldl (fun s n =>
    let s := dropSchedule s n
    let x := streamGet s n
    let open_ := (List.range (x.band - x.kept)).map fun i => x.kept + i
    returnTokensOf (streamPut s n { x with kept := x.band, bypassed := dedup (x.bypassed ++ open_), empties := [],
                                           critDone := [] }) n) s
  hit.foldl (fun s n => raiseFault s n (plainFault 0x0C)) s

/-- The remaining pods take new numbers, operations restart, and admission is re-run. -/
def losePod (s : State) (pod lidx : Nat) : State :=
  let old := s
  let s := clearDrain (fencePod s pod) pod
  let left := sortBy (fun a b => decide (a ≤ b)) (s.pods.lmap.filter (· != pod))
  let s := { s with pods := { s.pods with lmap := left, below := decide (left.length < 88) } }
  let s := logAdd s 0x0201 1 2 (pod + 2 ^ 8 * lidx + 2 ^ 16 * 0xFF)
  let s := (s.works.map (·.1)).foldl (restartOp old) s
  let s := rerunAdmission s
  if s.pods.below then stopArray s else s

/-- A good pod that is powered, after the harvest; before it, in the steps of a reset and in the self-test, the harvest
decides (R457). -/
def inService (s : State) (pod : Nat) : Bool :=
  s.pods.good.contains pod && powered s (12 + waveOf pod) && decide (7 < s.boot.step)

/-- A pod has failed: an active pod, or a spare (R456, R522). -/
def podFailed (s : State) (pod : Nat) : State :=
  if !inService s pod then s else
  match logicalOf s pod with
  | some i => match s.pods.spares with
    | sp :: _ => substitute s pod i sp
    | [] => losePod s pod i
  | none =>
    if s.pods.spares.contains pod then
      logAdd (clearDrain (fencePod (abandonTest s pod) pod) pod) 0x0201 1 2 (pod + 2 ^ 8 * 0xFF + 2 ^ 16 * 0xFF)
    else s

/-- The failure of a pod makes the Sprout choose a spare. -/
def choosesSpare (s : State) (pod : Nat) : Bool :=
  inService s pod && (logicalOf s pod).isSome && !s.pods.spares.isEmpty

/-- POD_FAILURE: 14 R455 class 1, R456, R457, R522, 02 R47, R48. A choice of spare that the Supervisor disagrees with is
made again after the Sprout's restart (R459), when the row comes again. -/
def execPodFailure (pod : Nat) (agree : Bool) (s : State) : Host.Outcome State Fault Refusal :=
  .next (if !agree && choosesSpare s pod then decisionMismatch s 3 else podFailed s pod)

/-! ### Critical heads -/

/-- The comparison meets a fault of the stream, which abandons it (R279). -/
def critFault (s : State) (n : Nat) (st : OpStop) : State :=
  let r := stopFault s n st 0xFFFF 0xFFFFFFFF false
  raiseFault r.1 n r.2

/-- A stream whose critical heads are compared. -/
def critGoes (s : State) (n : Nat) : Bool := (streamGet s n).active && (streamGet s n).faulting.isNone

/-- The last operation of a run of a head for the oldest band not kept: its D is the head's final output tensor (08 R277). -/
def finalOp (s : State) (n head pass : Nat) : Option Op :=
  (headWorks s n (streamGet s n).kept head pass).getLast?.map (·.2)

/-- The tiles of an operation. -/
def Op.tiles (s : State) (op : Op) : List Tile :=
  let lay := op.lay s
  allTiles (problemsOf (decOp op.block) op.ptrs op.rt) lay.ptr lay.m lay.G

/-- What a run wrote of a tile: its codes, its exponents and its side lists (08 R277). -/
def tileData (rd : Reader) (op : Op) (t : Tile) : Except OpStop (List (List Int × List Int × List (List Byte))) :=
  match ((problemsOf (decOp op.block) op.ptrs op.rt)[t.prob]?).bind fun o => o.d with
  | none => .ok []
  | some d =>
    let gs := if d.fmt.wide then [] else
      (List.range ((t.c + t.n - 1) / d.fmt.gs + 1 - t.c / d.fmt.gs)).map (t.c / d.fmt.gs + ·)
    collect (fun k => do
      let y := t.y + k / t.w
      let x := t.x + k % t.w
      let codes ← readCodes rd d y x t.c t.n
      let exps ← collect (readExp rd d y x) gs
      let sides ← if d.fmt.side then collect (readSide rd d y x) gs else .ok []
      .ok (codes, exps, sides)) (List.range (t.h * t.w))

/-- The outcome of one tile: the runs agree, one run disagrees with the others, or all differ (R278). -/
inductive CritTile where
  | same
  | odd (run : Nat)
  | apart
deriving DecidableEq, Repr

/-- The outcome of three results. -/
def critOf {α : Type} [DecidableEq α] (a b c : α) : CritTile :=
  if a = b then (if c = a then .same else .odd 2)
  else if c = a then .odd 1 else if c = b then .odd 0 else .apart

/-- The tiles of the final output tensor whose data two runs give differently, or where a read stops. -/
def critDiff (s : State) (n : Nat) (a b : Op) : Except OpStop (List Tile) := do
  let rd := streamReader s n 0
  let l ← collect (fun t => do
    let x ← tileData rd a t
    let y ← tileData rd b t
    .ok (if x = y then [] else [t])) (a.tiles s)
  .ok l.flatten

/-- The outcome of each tile in three runs. -/
def critTiles (s : State) (n : Nat) (a b c : Op) : Except OpStop (List (Tile × CritTile)) := do
  let rd := streamReader s n 0
  collect (fun t => do
    let x ← tileData rd a t
    let y ← tileData rd b t
    let z ← tileData rd c t
    .ok (t, critOf x y z)) (a.tiles s)

/-- The physical pod that computes a tile in a run: the member of the group that combines and drains it. -/
def tilePod (s : State) (op : Op) (t : Tile) : Nat :=
  let lay := op.lay s
  s.pods.lmap.getD (lay.computes t.group * 2 ^ lay.m.split + lay.lead) 0xFF

/-- Address and elements of the final output tensor of a run (09 R302). -/
def critOutput (op : Op) : Nat × Nat :=
  let ds := outsOf (problemsOf (decOp op.block) op.ptrs op.rt)
  ((match (decOp op.block).d with | some d => d.base | none => 0), sumN (ds.map fun d => d.h * d.w * d.c))

/-- The comparison of a head's runs for the oldest band not kept has ended; it is counted when the band is kept (R280). -/
def critEnd (s : State) (n : Nat) (d : CritDone) : State :=
  let x := streamGet s n
  streamPut s n { x with critDone := x.critDone ++ [d], critRuns := x.critRuns ++
    [(d.head, x.kept, if d.outcome = 2 then none else some d.released)] }

/-- The head's comparison for the band has ended. -/
def critEnded (s : State) (n head : Nat) : Bool := (streamGet s n).critDone.any fun d => d.head == head

/-- Critical heads of a band whose comparison has not ended: nothing of theirs reaches association, a result ring or a spool (08
R277). -/
def critOpen (s : State) (n band : Nat) : Bool :=
  (bandWorks s n band).any fun e => match e.2.op with
    | some op => match op.head with
      | some h => !(band == (streamGet s n).kept && critEnded s n h)
      | none => false
    | none => false

/-- CRITICAL_COMPARE: 08 R277, once both runs of the head for the oldest band not kept have completed. Where code data,
exponents, side lists and detection records are equal the comparison has ended; a difference is followed by the third run at
once (R278). -/
def execCriticalCompare (n head : Nat) (x : CompareIn) (s : State) :
    Host.Outcome State Fault Refusal :=
  let band := (streamGet s n).kept
  if !critGoes s n || !headRan s n band head 0 true || !headRan s n band head 1 true ||
      !(headWorks s n band head 2).isEmpty || critEnded s n head || !slotsFor s n x.third.length then .next s
  else match finalOp s n head 0, finalOp s n head 1 with
    | some a, some b =>
      let s := applyErrs s n x.errs
      match critDiff s n a b with
      | .error st => .next (critFault s n st)
      | .ok diff =>
        if diff.isEmpty ∧ x.detsA = x.detsB then
          .next (critEnd s n ⟨head, 0, 0, 0, (critOutput a).2, (critOutput a).1, 0xFFFFFFFF⟩)
        else .next (issueThird s n band head x.third)
    | _, _ => .next s

/-- The timestamp of a band's first input line, for a head's record; a stream without cameras has none, and the manual
states no value for it (log entry 43). -/
def headTime (s : State) (n band : Nat) : Nat × State :=
  match bandTime s n band with
  | some t => (t, s)
  | none =>
    let r := freeBytes s 8
    (leAt r.1 0 8, r.2)

/-- The result record of a head (09 R302). -/
def headRecord (kind band head tiles elements addr time first : Nat) : List Byte :=
  leBytes 4 band ++ leBytes 2 head ++ leBytes 2 tiles ++ leBytes 4 elements ++ leBytes 3 0 ++ leBytes 1 kind ++
    leBytes 8 addr ++ leBytes 8 time ++ leBytes 4 first ++ leBytes 28 0

/-- The run that is released: the first that no tile and no detection record sets against the other two; where each run has such
a tile, the third (R278 names one run; DESIGN CHOICE, log entry 99). -/
def releasedRun (l : List CritTile) : Nat := (lowest 3 fun r => l.all fun t => t != .odd r).getD 2

/-- CRITICAL_THIRD_RUN: 08 R278; the third run of the head for the oldest band not kept has completed. The pods of a run
that disagrees have failed, and the band's record where all differ follows its keeping. -/
def execCriticalThirdRun (n head : Nat) (x : ThirdIn) (s : State) : Host.Outcome State Fault Refusal :=
  if !critGoes s n || !headRan s n (streamGet s n).kept head 2 true || critEnded s n head then .next s else
  match finalOp s n head 0, finalOp s n head 1, finalOp s n head 2 with
  | some a, some b, some c =>
    let s := applyErrs s n x.errs
    match critTiles s n a b c with
    | .error st => .next (critFault s n st)
    | .ok l =>
      let diff := l.filter fun t => t.2 != .same
      let first := match diff with | t :: _ => t.1.num | [] => 0xFFFFFFFF
      let pod := fun (op : Op) => match diff with | t :: _ => tilePod s op t.1 % 256 | [] => 0xFF
      let pods := pod a + 2 ^ 8 * pod b + 2 ^ 16 * pod c
      let outs := critOf x.detsA x.detsB x.detsC :: l.map (·.2)
      if outs.contains .apart then
        let s := logAdd2 s 0x0218 1 2 (n + 2 ^ 8 + 2 ^ 16 * head) pods 0
        .next (critEnd s n ⟨head, 2, 0, diff.length, (critOutput a).2, (critOutput a).1, first⟩)
      else
        let r := releasedRun outs
        let out := critOutput (if r = 0 then a else if r = 1 then b else c)
        let s := critEnd (logAdd2 s 0x0218 1 1 (n + 2 ^ 16 * head) pods 0) n ⟨head, 1, r, 0, out.2, out.1, 0xFFFFFFFF⟩
        let odd := dedup (diff.filterMap fun t => match t.2 with
          | .odd k => some (tilePod s (if k = 0 then a else if k = 1 then b else c) t.1)
          | _ => none)
        .next (odd.foldl podFailed s)
  | _, _, _ => .next s

end Sys2Proof.Machine
end

