-- ==== Sys2Proof/Machine/Topology.lean ====
section
/-! DEFINITION. The topology check of step 11 (13 R433 to R435), and what becoming ready does (13 R417, 14 R454). -/
namespace Sys2Proof.Machine

/-! ### Security log entries (15 R496) -/

/-- A security log entry; the manual gives it no severity (log entry 38). -/
def logSec (s : State) (code arg : Nat) : State :=
  let r := freeBytes s 1
  logAdd r.2 code 14 (leNat r.1 % 4) arg

/-! ### Records (R433) -/

/-- An entry of a topology record. -/
structure TopoEntry where
  id : List Byte
  node : Nat
  width : List Nat
deriving DecidableEq, Repr

/-- A topology record: the sizes as FAB.DIMS holds them, and its devices. -/
structure Topo where
  dims : Nat
  entries : List TopoEntry
deriving DecidableEq, Repr

/-- One entry of 32 bytes; none where it breaks its ranges. -/
def decTopoEntry (x y z : Nat) (b : List Byte) : Option TopoEntry :=
  let w := (List.range 6).map fun p => leAt b (12 + p) 1
  let flat := fun (n p : Nat) => n != 1 || (w.getD p 0 == 0 && w.getD (p + 1) 0 == 0)
  if leAt b 8 1 < x ∧ leAt b 9 1 < y ∧ leAt b 10 1 < z ∧ zeroAt b 11 1 ∧ zeroAt b 18 14 ∧
      (w.all fun k => k == 0 || k == 1 || k == 2 || k == 4) ∧ flat x 0 ∧ flat y 2 ∧ flat z 4 then
    some ⟨b.take 8, leAt b 8 1 + 16 * leAt b 9 1 + 256 * leAt b 10 1, w⟩
  else none

/-- Every entry of a list; none where one is not legal. -/
def decTopoEntries (x y z : Nat) : List (List Byte) → Option (List TopoEntry)
  | [] => some []
  | b :: bs => match decTopoEntry x y z b, decTopoEntries x y z bs with
    | some e, some es => some (e :: es)
    | _, _ => none

/-- No value stands twice. -/
def distinct {α : Type} [DecidableEq α] : List α → Bool
  | [] => true
  | a :: l => !l.contains a && distinct l

/-- Number of devices that a header names, 0 where the header is not legal. -/
def topoCount (h : List Byte) : Nat :=
  let n := leAt h 0 2
  let x := leAt h 2 1
  let y := leAt h 3 1
  let z := leAt h 4 1
  if h.length = 64 ∧ 1 ≤ x ∧ x ≤ 16 ∧ 1 ≤ y ∧ y ≤ 16 ∧ 1 ≤ z ∧ z ≤ 16 ∧ n ≤ x * y * z ∧ x * y * z ≤ 400 ∧
      zeroAt h 5 59 then n else 0

/-- A whole record; none where it is invalid. -/
def decTopo (b : List Byte) : Option Topo :=
  let h := b.take 64
  let n := topoCount h
  if n = 0 ∨ b.length ≠ 64 + 32 * n then none else
  match decTopoEntries (leAt h 2 1) (leAt h 3 1) (leAt h 4 1) (chunks 32 n (b.drop 64)) with
  | some es =>
    if distinct (es.map (·.id)) && distinct (es.map (·.node)) then
      some ⟨leAt h 2 1 - 1 + 16 * (leAt h 3 1 - 1) + 256 * (leAt h 4 1 - 1), es⟩
    else none
  | none => none

/-! ### The comparison (R434) -/

/-- A difference. -/
structure TopoDiff where
  kind : Nat
  port : Nat
  wantWidth : Nat
  gotWidth : Nat
  wantId : Nat
  gotId : Nat
deriving DecidableEq, Repr

/-- The expected neighbour's identifier over a port, 0 where the record holds none. -/
def neighbourId (s : State) (t : Topo) (own : TopoEntry) (p : Nat) : Nat :=
  let d := p / 2
  let n := dimSize s d
  let c := coord own.node d
  let at_ := withCoord own.node d (if p % 2 = 0 then (c + 1) % n else (c + n - 1) % n)
  match t.entries.find? fun e => e.node == at_ with
  | some e => leNat e.id
  | none => 0

/-- The difference that a port shows, if any. -/
def portDiff (s : State) (t : Topo) (own : TopoEntry) (p : Nat) : List TopoDiff :=
  let w := own.width.getD p 0
  let st := fabState s p
  let got := if st = 2 then trainedWidth s p else 0
  let want := if w = 0 then 0 else neighbourId s t own p
  let peer := if st = 2 ∨ st = 5 then reg64 s (0xB001018 + p * 0x40) else 0
  if st = 5 then [⟨5, p, w, got, want, peer⟩]
  else if st = 2 then
    if w = 0 then [⟨6, p, 0, got, 0, peer⟩]
    else (if got = w then [] else [⟨3, p, w, got, want, peer⟩]) ++ (if peer = want then [] else [⟨4, p, w, got, want, peer⟩])
  else if w = 0 then [] else [⟨2, p, w, 0, want, 0⟩]

/-- The own entry of a record. -/
def ownEntry (s : State) (t : Topo) : Option TopoEntry := t.entries.find? fun e => e.id == (idDigest s).take 8

/-- FAB.DIMS and FAB.NODE are taken from the record while no node is assigned. -/
def topoAssign (s : State) (t : Topo) : State :=
  match ownEntry s t with
  | some e =>
    if assigned s then s else
    let s := regPut (regPut s 0xB000004 t.dims) 0xB000000 (2 ^ 31 + e.node)
    { s with fab := { s.fab with rebuild := true } }
  | none => s

/-- Every difference, own identity first. -/
def topoDiffs (s : State) (t : Topo) : List TopoDiff :=
  match ownEntry s t with
  | none => [⟨1, 0xFF, 0, 0, 0, 0⟩]
  | some e =>
    (if ownNode s = e.node ∧ regGet s 0xB000004 = t.dims then [] else [(⟨1, 0xFF, 0, 0, 0, 0⟩ : TopoDiff)]) ++
      (List.range 6).flatMap (portDiff s t e)

/-- A report record. -/
def TopoDiff.bytes (d : TopoDiff) : List Byte :=
  leBytes 1 d.kind ++ leBytes 1 d.port ++ leBytes 1 d.wantWidth ++ leBytes 1 d.gotWidth ++ leBytes 4 0 ++
    leBytes 8 d.wantId ++ leBytes 8 d.gotId ++ leBytes 8 0

/-- TOPO_CTRL.src is the commander's host. -/
def topoHost (s : State) : Bool := bitOf (regGet s 0xA0) 1

/-- Set TOPO_STATUS. -/
def setTopoStatus (s : State) (st n : Nat) : State := regPut s 0xB8 (2 ^ 28 * st + 2 ^ 24 * n)

/-- The differences go to the report area and to the log. -/
def topoReport (s : State) (l : List TopoDiff) : State :=
  let b := (l.take 7).flatMap TopoDiff.bytes
  let a := reg64 s 0xB0
  let s := if topoHost s then hostWrite s a b
    else if a + b.length ≤ capacity s then storeBytes s a b else s
  l.foldl (fun s d =>
    logAdd2 s 0x0008 0 1 (d.kind + 2 ^ 8 * d.port + 2 ^ 16 * d.wantWidth + 2 ^ 20 * d.gotWidth) d.gotId 0) s

/-! ### Ready (R417, 14 R454) -/

/-- The start ends: the device is ready and Active. On return from Dormant a scrub pass over the halves that were
retained starts (10 R348). -/
def becomeReady (s : State) : State :=
  let exit_ := s.boot.kind == 2
  let kept := [0, 1].filter fun h => exit_ && bitOf (regGet s 0x2000204) h && s.leekUp.getD h false
  let s := { s with boot := { s.boot with step := 12, wasReady := true, kind := 0 }, power := { s.power with dormant := false } }
  let s := setMode (regPut s 0x0 (2 ^ 28 + 11 * 2 ^ 24)) 0
  let s := if exit_ then
      logAdd s 0x0106 13 0 (f (regGet s 0xD000000) 15 8 % 8 + 2 ^ 8 * b2n (!s.boot.digestOk))
    else s
  let s := logAdd s 0x0002 0 0 (f (regGet s 0xB8) 31 24)
  kept.foldl (fun s h => if (tget s.tokens (8 + h)).isNone then takeToken s 3 h else s) s

/-- The device waits for its topology; during the exit from Dormant BOOT_STATUS shows it too. -/
def topoWait (s : State) : State := regPut s 0x0 (2 * 2 ^ 28 + 11 * 2 ^ 24)

/-- A port that an accepted difference of kind 4, 5 or 6 names leaves routing as miscabled. -/
def topoExclude (s : State) (d : TopoDiff) : State :=
  if 4 ≤ d.kind ∧ fabState s d.port = 2 then announce (setFabState s d.port 5) d.port 5 else s

/-- One run of the check in step 11 (R435). -/
def topoRun (s : State) : State :=
  match s.boot.topo with
  | none => topoWait s
  | some b => match decTopo b with
    | none => topoWait (setTopoStatus s 5 0)
    | some t =>
      let s := topoAssign s t
      let l := topoDiffs s t
      let s := topoReport { s with boot := { s.boot with diffs := l.map TopoDiff.bytes } } l
      let n := min l.length 7
      if l.isEmpty then becomeReady (setTopoStatus s 2 0)
      else if bitOf (regGet s 0xA0) 0 && l.all fun d => d.kind != 1 then
        becomeReady (l.foldl topoExclude (setTopoStatus s 4 n))
      else topoWait (setTopoStatus s 3 n)

/-- The check runs again where the device waits for it. -/
def topoAgain (s : State) : State := if s.boot.step = 11 then topoRun s else s

/-! ### Reading the record (R433) -/

/-- A record has been read. -/
def topoTake (s : State) (b : List Byte) : State :=
  match decTopo b with
  | none => setTopoStatus { s with boot := { s.boot with topo := none } } 5 0
  | some _ => topoAgain { s with boot := { s.boot with topo := some b } }

/-- The record cannot be read. -/
def topoUnreadable (s : State) : State := setTopoStatus s 6 0

/-- Reads of an earlier record are no longer wanted. -/
def topoForget (s : State) : State :=
  { s with boot := { s.boot with topoBuf := [], topoLeft := 0, topoWant := [] },
           rrp := { s.rrp with reads := s.rrp.reads.map fun r => if r.2.1 == 3 then (r.1, 2, 0, 0) else r } }

/-- A range of device LPDDR, read without a window check. -/
def topoLocal (s : State) (a n : Nat) : Option (List Byte) :=
  if a + n ≤ capacity s ∧ (poisonIn s a n).isNone then some (memGetN s.mem a n) else none

/-- Send the reads that wait, at most 64 READ_REQs being outstanding (09 R313). -/
def topoAsk (s : State) : State :=
  match s.boot.topoWant with
  | [] => s
  | l =>
    let k := 64 - s.rrp.reads.length
    hostReads { s with boot := { s.boot with topoWant := l.drop k } } 3 0 (l.take k)

/-- TOPO_GO: read the record. -/
def topoGo (s : State) : State :=
  let a := reg64 s 0xA8
  let s := topoForget s
  if topoHost s then
    if s.rrp.state ≠ 1 then topoUnreadable s
    else topoAsk { s with boot := { s.boot with topoLeft := 1, topoWant := [(a, 64)] } }
  else match topoLocal s a 64 with
    | none => topoUnreadable s
    | some h =>
      match topoLocal s (a + 64) (32 * topoCount h) with
      | none => topoUnreadable s
      | some b => topoTake s (h ++ b)

/-- Data of a record that the host sent. -/
def topoData (s : State) (a : Nat) (data : List Byte) : State :=
  let buf := s.boot.topoBuf ++ [(a, data)]
  let left := s.boot.topoLeft - 1
  let s := { s with boot := { s.boot with topoBuf := buf, topoLeft := left } }
  if left ≠ 0 then s else
  let all := (sortBy (fun (x y : Nat × List Byte) => decide (x.1 ≤ y.1)) buf).flatMap (·.2)
  let n := topoCount all
  if all.length ≠ 64 ∨ n = 0 then topoTake (topoForget s) all
  else
    let pieces := hostPieces (a + 64) (32 * n)
    topoAsk { s with boot := { s.boot with topoLeft := pieces.length, topoWant := pieces } }

/-- A change of accept_degraded takes effect at once (R435, R443). -/
def topoCtrl (s : State) (v : Nat) : State := topoAgain (regPut s 0xA0 (v % 4))

end Sys2Proof.Machine
end

