-- ==== Sys2Proof/Machine/Start.lean ====
section
/-! DEFINITION. The start sequence (13 R417 to R432): the identity check, images and their verification (12 R406, 13
R419, R420, 15 R476 to R480), LPDDR training, pod waves, self-test and harvest, the march and Leek tests, and the
loading of the microcode. The same steps serve a partial start (13 R440) and the exit from Dormant (14 R454). -/
namespace Sys2Proof.Machine

/-! ### Steps -/

/-- The number under which a step of R417 is logged, for the kind of start under way; 0 where it is part of a step
already begun. -/
def stepNumber (kind k : Nat) : Nat :=
  match kind with
  | 0 => k
  | 1 => match k with | 6 => 4 | 8 => 5 | 9 => 6 | 10 => 7 | 11 => 8 | _ => 0
  | _ => match k with | 3 => 1 | 4 => 2 | 5 => 3 | 6 => 4 | 10 => 5 | 11 => 6 | _ => 0

/-- Log 0x0001. -/
def logStep (s : State) (kind n : Nat) : State := if n = 0 then s else logAdd s 0x0001 0 0 (n + 2 ^ 8 * kind)

/-- A step of R417 begins. -/
def markStep (s : State) (k : Nat) : State :=
  let s := { s with boot := { s.boot with step := k } }
  let s := if s.boot.kind = 2 then s else regSetF s 0x0 27 24 k
  logStep s s.boot.kind (stepNumber s.boot.kind k)

/-- The start stops (R417, R443). -/
def failStart (s : State) (code : Nat) : State :=
  let k := s.boot.step
  let s := { s with boot := { s.boot with step := 13 } }
  logAdd (regPut s 0x0 (3 * 2 ^ 28 + k * 2 ^ 24 + code * 2 ^ 16)) 0x0003 0 2 (code + 2 ^ 8 * k)

/-! ### Identity (R418, R439) -/

/-- Limits of the identity record in force. -/
def pMax (s : State) : Nat := leAt s.boot.nor.bytes 24 2

def vMax (s : State) : Nat := leAt s.boot.nor.bytes 26 2

def vMin (s : State) : Nat := leAt s.boot.nor.bytes 28 2

def tJ (s : State) : Int := (leAt s.boot.nor.bytes 32 2 : Nat)

/-- The ranges of R439. -/
def gradeOk (b : List Byte) : Bool :=
  let p := leAt b 24 2
  let vx := leAt b 26 2
  let vn := leAt b 28 2
  let g := leAt b 30 2
  let t := leAt b 32 2
  decide (100 ≤ p ∧ p ≤ 900 ∧ 650 ≤ vx ∧ vx ≤ 850 ∧ 600 ≤ vn ∧ vn ≤ vx ∧ 500 ≤ g ∧ g ≤ 1750 ∧ 850 ≤ t ∧ t ≤ 1050)

/-- The fail code of the identity check, 0 when it passes. -/
def identityFail (n : Nor) : Nat :=
  if !n.sigOk || leAt n.bytes 0 4 != 1 || !gradeOk n.bytes then 1 else if !n.keyOk then 2 else 0

/-! ### Ethernet and fabric (R417 step 3, R419) -/

/-- The MAC addresses, the enables of both MACs, and training on every enabled Pelud port. -/
def linksOn (s : State) : State :=
  let s := { setPower (setPower s 1 true) 2 true with pins := { s.pins with lasers := true } }
  let mac := leAt s.boot.nor.bytes 34 6
  let s := [0, 1].foldl (fun s q =>
    regSetF (regPut64 s (0xC000004 + q * 0x100) ((mac + q) % 2 ^ 48)) (0xC000000 + q * 0x100) 31 31 1) s
  (List.range 6).foldl (fun s p => if bitOf (fabCfg s p) 31 then setFabState s p 1 else s) s

/-- No port is still training. -/
def trainingOver (s : State) : Bool := (List.range 6).all fun p => fabState s p != 1

/-! ### Images: offers and pulls (12 R406, 13 R419, R420) -/

/-- The type of image that the start needs now, 0 for none. -/
def imageNeed (s : State) : Nat :=
  if s.boot.step = 4 ∧ trainingOver s ∧ s.sec.mgmt.isNone ∧ s.boot.kind = 0 then 1
  else if s.boot.step = 10 ∧ s.sec.pod.isNone then 2 else 0

/-- BOOT_SEL names the source. -/
def sourceOk (s : State) (p : BootPort) : Bool :=
  match p, s.boot.bootSel % 4 with
  | _, 3 => true
  | .fabric _, 0 => true
  | .eth q _, k => k == q + 1
  | _, _ => false

/-- The source can be reached. -/
def bootPortUp (s : State) : BootPort → Bool
  | .fabric p => fabUp s p
  | .eth q _ => bitOf (regGet s (0xC00000C + q * 0x100)) 31

/-- Order of the sources: the offering port of lowest number first. -/
def bootPortRank : BootPort → Nat
  | .fabric p => p
  | .eth q _ => 6 + q

/-- PULL of a chunk (12 R388). -/
def pullPacket (s : State) (id chunk : Nat) : Packet :=
  localPacket s 0x0E 0 (chunk % 65536) (leBytes 4 id ++ leBytes 4 chunk ++ leBytes 8 0)

/-- Ask for one chunk: over Ethernet, of the server from whose link-local address the offer came (R419). -/
def sendPull (s : State) (p : BootPort) (id chunk : Nat) : State :=
  match p with
  | .fabric k => queueAt s k (pullPacket s id chunk)
  | .eth q a => { s with out := .ethPull q a (pkBytes (pullPacket s id chunk)) :: s.out }

/-- Chunks of an image. -/
def chunkCount (len : Nat) : Nat := ceilDiv len 256

/-- Ask for the chunks from the first missing one, 64 at most. -/
def pullFrom (s : State) (x : Pull) : State :=
  let n := min 64 (chunkCount x.len - x.chunks)
  (List.range n).foldl (fun s i => sendPull s x.port x.id (x.chunks + i)) s

/-- The offer to take among some, oldest first: of lowest port, but with BOOT_SEL 3 the first that arrived (12 R406, 13 R419). -/
def bestOffer (s : State) (l : List (BootPort × Nat × Nat)) : Option (BootPort × Nat × Nat) :=
  if s.boot.bootSel % 4 = 3 then l.head? else
  l.foldl (fun b o => match b with
    | some c => if bootPortRank o.1 < bootPortRank c.1 then some o else b
    | none => some o) none

/-- Start pulling the image that is needed, from the offers known. -/
def startPull (s : State) : State :=
  let t := imageNeed s
  if t = 0 ∨ s.boot.pull.isSome then s else
  match bestOffer s (s.boot.offers.filter fun o => o.2.1 / 2 ^ 24 == t && bootPortUp s o.1) with
  | some (p, id, len) =>
    let x : Pull := ⟨p, id, len, [], 0, []⟩
    pullFrom { s with boot := { s.boot with pull := some x } } x
  | none => s

/-- A pull whose port is gone goes on from the next port that offers the same image. -/
def movePull (s : State) : State :=
  match s.boot.pull with
  | none => startPull s
  | some x =>
    if bootPortUp s x.port then s else
    match bestOffer s (s.boot.offers.filter fun o => o.2 == (x.id, x.len) && bootPortUp s o.1) with
    | some (p, _, _) =>
      let x := { x with port := p, early := [] }
      pullFrom { s with boot := { s.boot with pull := some x } } x
    | none => s

/-- OFFER: 12 R406, 13 R419, R420. -/
def execOffer (port : BootPort) (id len : Nat) (s : State) : Host.Outcome State Fault Refusal :=
  if !sourceOk s port || !bootPortUp s port || decide (id / 2 ^ 24 ≠ 1 ∧ id / 2 ^ 24 ≠ 2) then .next s else
  let same := fun (o : BootPort × Nat × Nat) => o.1 == port && o.2.1 / 2 ^ 24 == id / 2 ^ 24
  let offers := if s.boot.offers.any same then s.boot.offers.map fun o => if same o then (port, id, len) else o
    else s.boot.offers ++ [(port, id, len)]
  .next (movePull { s with boot := { s.boot with offers := offers } })

/-- The chunks that came early and follow now. -/
def pullOn : Nat → Pull → Pull
  | 0, x => x
  | n + 1, x => match tget x.early x.chunks with
    | some d => pullOn n { x with data := x.data ++ d, chunks := x.chunks + 1, early := tdel x.early x.chunks }
    | none => x

/-- RELAY_DATA: 12 R388, R406: a chunk that was asked for, in any order, and the pull of one more. -/
def execRelayData (port : BootPort) (chunk _tag : Nat) (data : List Byte) (s : State) : Host.Outcome State Fault Refusal :=
  match s.boot.pull with
  | none => .next s
  | some x =>
    let asked := x.chunks + x.early.length + 64
    if x.port ≠ port ∨ chunk < x.chunks ∨ min asked (chunkCount x.len) ≤ chunk ∨ (tget x.early chunk).isSome then .next s else
    let want := min 256 (x.len - 256 * chunk)
    let d := data.take want ++ List.replicate (want - data.length) 0
    let y := pullOn (x.early.length + 1) { x with early := tset x.early chunk d }
    let s := { s with boot := { s.boot with pull := some y } }
    .next (if asked < chunkCount x.len then sendPull s port x.id asked else s)

/-- The verified images that this device holds. -/
def heldImages (s : State) : List Image := s.sec.mgmt.toList ++ s.sec.pod.toList

def imageId (i : Image) : Nat := leAt i.header 4 4

/-- PULL: 12 R388, R406. -/
def execPull (port id chunk tag : Nat) (s : State) : Host.Outcome State Fault Refusal :=
  match (heldImages s).find? fun i => imageId i == id with
  | some i =>
    if !fabUp s port || decide (chunkCount i.bytes.length ≤ chunk) then .next s else
    let b := (i.bytes.drop (256 * chunk)).take 256
    .next (queueAt s port (localPacket s 0x0F chunk tag (b ++ List.replicate (ceilDiv b.length 16 * 16 - b.length) 0)))
  | none => .next s

/-- OFFER_TIMER: every 10 ms, on every port that is up (12 R406); never on Ethernet (13 R420). -/
def execOfferTimer (s : State) : Host.Outcome State Fault Refusal :=
  .next ((heldImages s).foldl (fun s i =>
    broadcast s none (localPacket s 0x0D 0 0 (leBytes 4 (imageId i) ++ leBytes 4 i.bytes.length ++ leBytes 8 0))) s)

/-! ### Step 11, step 10 and their ends -/

def step11 (s : State) : State := topoRun (markStep s 11)

/-- Step 10 begins: the microcode is pulled (again). -/
def step10 (s : State) : State :=
  let s := { s with sec := { s.sec with pod := none }, boot := { s.boot with pull := none } }
  startPull (markStep s 10)

/-- The microcode is in every good pod (R432, R317); a partial start ends with PARTITION 0 (R440 step 8). -/
def step10Done (s : State) : State :=
  let s := { s with boot := { s.boot with cores := true } }
  if s.boot.kind = 1 then
    let s := rrpSend (logStep s 1 8) 0x0C (leBytes 1 0)
    if s.boot.wasReady then becomeReady { s with boot := { s.boot with kind := 0 } }
    else step11 { regPut s 0x0 (11 * 2 ^ 24) with boot := { s.boot with kind := 0 } }
  else step11 s

/-- MICROCODE_LOADED, but for what a partial reset held. -/
def microLoaded (s : State) : State :=
  match s.sec.pod with
  | some i => if s.boot.step ≠ 10 then s else step10Done (regPut s 0x1001000 (leAt i.header 12 2))
  | none => s

/-- The registers of a restored entry show it (10 R349); a locked one's are read from the entry. -/
def winRegs (s : State) (e : Nat × Window) : State :=
  let a := winBase e.1
  let w := e.2
  if w.lock then s else
  [(0, w.base % 2 ^ 32), (4, w.base / 2 ^ 32), (8, w.len - 1), (0x10, w.resFirst), (0x14, w.back + 2 ^ 31 * b2n w.auto)].foldl
    (fun s r => regPut s (a + r.1) r.2) s

/-- The tables that Dormant saved are in force again (14 R454 step 5). -/
def restoreTables (s : State) : State :=
  match s.power.saved with
  | some (w, r, p) =>
    let t := setLeekFree { s with wins := w, resident := r, parts := p, power := { s.power with saved := none } }
    w.foldl winRegs t
  | none => s

/-- Exit from Dormant: the save area is restored (14 R454 step 5); the microcode is pulled again where its digest does
not match. -/
def restoreDormant (s : State) : State :=
  let s := restoreTables s
  if s.boot.digestOk then
    match s.sec.pod with
    | some i => step10Done (regPut (markStep s 10) 0x1001000 (leAt i.header 12 2))
    | none => step10 s
  else step10 s

/-! ### Leek test (R431) -/

/-- Step 9 begins. -/
def step9 (s : State) : State := markStep s 9

/-- One half's result: its first failing bank, if any. -/
def leekResult (s : State) (h : Nat) (fail : Option Nat) : State :=
  match fail with
  | some b => setPower (setHalfFree (logAdd (leekOff s h) 0x0007 2 2 (h + 2 ^ 8 * (b % 64))) h 0) (9 + h) false
  | none =>
    let s := leekOff s h
    setPower (setHalfFree { s with leekUp := modAt s.leekUp h fun _ => true } h 256) (9 + h) true

/-- LEEK_TEST_DONE: R431; a half that Dormant retained is not tested (14 R454). -/
def execLeekTestDone (fail0 fail1 : Option Nat) (s : State) : Host.Outcome State Fault Refusal :=
  if s.boot.step ≠ 9 then .next s else
  let go := fun (s : State) (h : Nat) (f : Option Nat) =>
    if s.boot.kind = 2 ∧ s.leekUp.getD h false then s else leekResult s h f
  let s := go (go s 0 fail0) 1 fail1
  if !s.leekUp.getD 0 false && !s.leekUp.getD 1 false then .next (failStart s 6)
  else if s.boot.kind = 2 then .next (restoreDormant s)
  else
    let cfg := regGet s 0x3F04
    let s := if s.boot.kind = 1 ∧ cfg ≠ 0 then setSpoolCfg (regPut s 0x3F04 0) cfg else s
    .next (step10 s)

/-! ### March test (R426 to R430) -/

/-- Blocks attached. -/
def marchTotal (s : State) : Nat := regGet s 0x3000004 / 14

/-- A block is tested by the present selection. -/
def marchPicks (s : State) (k : Nat) : Bool :=
  let sel := regGet s 0x14
  !bitOf sel 31 || k % 16 == f sel 3 0

/-- The next selected block from k on, the total when none is left. -/
def marchFrom (s : State) (k : Nat) : Nat :=
  (((List.range (marchTotal s - k)).map fun i => k + i).find? (marchPicks s)).getD (marchTotal s)

/-- The test has ended: LPDDR reads as zero, and a failed block stops the start. -/
def marchEnd (s : State) : State :=
  let s := { s with mem := memLose s.mem fun a => region a == .lpddr, poison := s.poison.filter fun a => region a != .lpddr,
                    boot := { s.boot with marchDone := true } }
  if f (regGet s 0x10) 7 0 ≠ 0 then failStart s 5 else step9 s

/-- Step 8: a new test, or a test that a partial reset stopped, which goes on at its block (R441). -/
def step8 (s : State) : State :=
  let s := markStep s 8
  let fresh := f (regGet s 0x10) 23 16 = 0
  let s := if fresh then regPut s 0x14 (2 ^ 31 * b2n s.boot.quick + (if s.boot.quick then s.boot.residue else 0)) else s
  let s := if fresh then regPut s 0x10 (2 ^ 24 * marchFrom s 0 + 2 ^ 16 * marchTotal s) else s
  if f (regGet s 0x10) 31 24 = marchTotal s then marchEnd s else s

/-- MARCH_BLOCK_DONE: R428, R430. -/
def execMarchBlockDone (r : MarchResult) (s : State) : Host.Outcome State Fault Refusal :=
  let k := f (regGet s 0x10) 31 24
  if s.boot.step ≠ 8 ∨ marchTotal s ≤ k then .next s else
  let s := match r with
    | .clean => s
    | .corrected => bumpF s 0x10 15 8
    | .failed ch a => logAdd2 (bumpF s 0x10 7 0) 0x0006 3 2 (k + 2 ^ 8 * (ch % 16)) a 0
  let n := marchFrom s (k + 1)
  let s := regSetF s 0x10 31 24 n
  .next (if n = marchTotal s then marchEnd s else s)

/-! ### Pods (R421 to R425) -/

/-- Step 6: the compute partition is powered (R442), its ingest and display domains as their ports and outputs need them (14
R445). ARR_EN rises; the array rail stands at the 0.700 V of 16 R505, within the limits of the record (log entry
39). -/
def step6 (s : State) : State :=
  let s := { s with pins := { s.pins with arrEn := true }, boot := { s.boot with waves := [], failedWaves := [] } }
  let s := [6, 7, 8, 9, 10].foldl (fun s d => setPower s d true) s
  markStep (regPut s 0xD000034 (min (max 700 (vMin s)) (vMax s))) 6

/-- Pods whose wave is powered. -/
def wavePods (s : State) : List Nat := (List.range 104).filter fun p => s.boot.waves.contains (waveOf p)

/-- WAVE_POWER_UP: R421. The first wave's arrival says that VDD_ARR is in range (16 R506). -/
def execWavePowerUp (w : Nat) (inRange : Bool) (s : State) : Host.Outcome State Fault Refusal :=
  if s.boot.step ≠ 6 ∨ w ≠ s.boot.waves.length + s.boot.failedWaves.length ∨ 8 ≤ w then .next s else
  let s := { s with pins := { s.pins with rails := modAt s.pins.rails 0 fun _ => true } }
  let s := if inRange then
      setPower { s with boot := { s.boot with waves := s.boot.waves ++ [w] },
                        pods := { s.pods with failedWaves := s.pods.failedWaves.filter (· != w) } } (12 + w) true
    else logAdd { s with boot := { s.boot with failedWaves := s.boot.failedWaves ++ [w] },
                         pods := { s.pods with failedWaves := dedup (s.pods.failedWaves ++ [w]) } } 0x0004 1 2 w
  .next (if w = 7 then markStep s 7 else s)

/-- ARR_RANGE_TIMEOUT: 16 R506. -/
def execArrRangeTimeout (s : State) : Host.Outcome State Fault Refusal :=
  if s.boot.step ≠ 6 ∨ s.boot.waves ≠ [] ∨ s.boot.failedWaves ≠ [] then .next s else
  let s := (List.range 8).foldl (fun s w => logAdd s 0x0004 1 2 w) s
  let all := List.range 8
  .next (failStart { s with boot := { s.boot with failedWaves := all }, pods := { s.pods with failedWaves := all } } 4)

/-- A standing scale entry of a pod that is not good (03 R98). -/
def lostDrain (good : List Nat) (a : Nat) : Bool :=
  decide (0x1800000 ≤ a ∧ a < 0x19A0000) && !good.contains ((a - 0x1800000) / 0x4000)

/-- R423, R424: good pods in ascending order become active and spare; the scale entries of the others read 0 (03 R98). -/
def harvest (s : State) (good : List Nat) : State :=
  { s with regs := s.regs.filter (fun e => !lostDrain good e.1), shadow := s.shadow.filter (fun e => !lostDrain good e.1),
           pods := { s.pods with good := good, fenced := [], lmap := good.take 96, spares := good.drop 96, below := false,
                                 selfTest := none } }

/-- The step after the harvest: the march test where it has not ended, else the Leek test. -/
def afterHarvest (s : State) : State :=
  if s.boot.kind = 2 then
    let s := if activePods s < 96 then rerunAdmission s else s
    if s.leekUp.all id then restoreDormant s else step9 s
  else if s.boot.kind = 1 ∧ s.boot.marchDone then step9 s else step8 s

/-- POD_SELF_TEST_DONE: R422 to R425, with the parts of the pods that failed. -/
def execPodSelfTestDone (failed : List (Nat × Nat)) (s : State) : Host.Outcome State Fault Refusal :=
  if s.boot.step ≠ 7 then .next s else
  let bad := failed.filter fun x => (wavePods s).contains x.1
  let s := bad.foldl (fun s x => logAdd s 0x0005 1 1 (x.1 + 2 ^ 8 * x.2)) s
  let good := (wavePods s).filter fun p => !(bad.map (·.1)).contains p
  let s := harvest s good
  .next (if good.length < 88 then failStart { s with pods := { s.pods with lmap := [], spares := [] } } 4 else afterHarvest s)

/-! ### LPDDR training (R417 step 5, 10 R341, R342) -/

/-- Step 5 begins. -/
def step5 (s : State) : State :=
  markStep (setPower { s with pins := { s.pins with ddrResetN := true } } 11 true) 5

/-- Raw capacities that the device supports, in GiB: 16 channels of 1, 2, 4 or 8 (10 R341). -/
def gibOk (gib : Nat) : Bool := [16, 32, 64, 128].contains gib

/-- LPDDR_TRAINING_DONE: 10 R341, R342; channels of a capacity that is not supported, and mixed ones, fail (DESIGN CHOICE which of
them: all, log entry 103). On return from Dormant capacity and contents stay (14 R454). -/
def execLpddrTrainingDone (gib failedMask : Nat) (s : State) : Host.Outcome State Fault Refusal :=
  if s.boot.step ≠ 5 then .next s else
  let bad := if gibOk gib then failedMask % 2 ^ 16 else 2 ^ 16 - 1
  let s := { s with ddr := { s.ddr with linkEcc := bitOf (regGet s 0x3000000) 0 } }
  let s := regPut s 0x3000008 ((2 ^ 16 - 1 - bad) * 2 ^ 16 + bad)
  if bad ≠ 0 then .next (failStart s 3)
  else
    let s := if s.boot.kind = 2 then s else regPut s 0x3000004 (gib * 14)
    .next (step6 s)

/-! ### Verification of images (15 R477 to R480) -/

/-- An owner block (R479). -/
def blockOf (x : Pull) : List Byte := x.data.drop (4883 + leAt x.data 16 4)

/-- The certificate of an owner block, and its fields (R478). -/
def certOf (b : List Byte) : List Byte := slice b 16 7795

def certKey (c : List Byte) : List Byte := slice c 64 2592

def certNumber (c : List Byte) : Nat := leAt c 4 4

/-- The certificate covers this device. -/
def certCovers (s : State) (c : List Byte) : Bool :=
  leAt c 8 2 == 0 || (chunks 8 (min (leAt c 10 2) 64) (slice c 2656 512)).contains ((idDigest s).take 8)

/-- R480, with the verdicts on both signatures. -/
def ownerBlockOk (s : State) (b : List Byte) (certOk ownerOk : Bool) : Bool :=
  let k := leAt b 12 4
  certOk && ownerOk && certCovers s (certOf b) &&
    decide (k ≤ 4 ∧ leAt b 4 4 = 7880 + 2592 * k + 4627 ∧ b.length = leAt b 4 4)

/-- R477. -/
def imagePasses (s : State) (x : Pull) (type : Nat) (stavcorOk certOk ownerOk : Bool) : Bool :=
  let n := leAt x.data 16 4
  let b := blockOf x
  leAt x.data 0 4 == 1 && leAt x.data 7 1 == type && stavcorOk && decide (4883 + n ≤ x.len) &&
    sha3 (slice x.data 4883 n) == slice x.data 32 64 &&
    (b.isEmpty || ownerBlockOk s b certOk ownerOk) &&
    (type != 2 || match s.sec.owner with
      | some o => !o.requireOwner || (!b.isEmpty && certNumber (certOf b) == o.number && certKey (certOf b) == o.key)
      | none => true)

/-- The owner that a block declares. -/
def ownerOf (b : List Byte) : Owner :=
  let c := certOf b
  { key := certKey c, number := certNumber c, commanders := chunks 2592 (leAt b 12 4) (b.drop 7880),
    requireOwner := bitOf (leAt b 8 4) 0, cert := c }

/-- R480: adoption, and the RRP configuration of the block. -/
def adopt (s : State) (b : List Byte) : State :=
  let o := ownerOf b
  logSec { s with sec := { s.sec with owner := some o } } 0x0603 o.number

/-- 09 R310, 15 R480: the management firmware configures RRP. -/
def configureRrp (s : State) (b : List Byte) : State :=
  let c := slice b 7816 64
  if b.isEmpty || !bitOf (leAt b 8 4) 1 then
    let s := regPut (regPut s 0xC004000 (2 ^ 31 + 50518)) 0xC004004 0
    (List.range 4).foldl (fun s k => regPut s (0xC004010 + 4 * k) 0) s
  else
    let cfg := 2 ^ 31 + 2 ^ 30 * b2n (bitOf (leAt b 8 4) 2) + 2 ^ 16 * leAt c 20 1 + leAt c 0 2
    let s := regPut (regPut s 0xC004000 cfg) 0xC004004 (leAt c 2 2)
    (List.range 4).foldl (fun s k => regPut s (0xC004010 + 4 * k) (leAt c (4 + 4 * k) 4)) s

/-- The value of MGMT.BOOT_SRC for a port. -/
def bootSrc : BootPort → Nat
  | .fabric p => 16 * p
  | .eth q _ => 16 * q + 1 + q

/-- Bytes 0 to 255 of an image, and all of it. -/
def imageOf (x : Pull) : Image := ⟨x.data.take 256, x.data⟩

/-- A verified image takes its place. -/
def imageTaken (s : State) (x : Pull) (type : Nat) : State :=
  let s := { s with boot := { s.boot with pull := none } }
  if type = 1 then
    let b := blockOf x
    let s := regPut { s with sec := { s.sec with mgmt := some (imageOf x) } } 0x4 (bootSrc x.port)
    let s := if b.isEmpty then s else adopt s b
    step5 (configureRrp s b)
  else { s with sec := { s.sec with pod := some (imageOf x) } }

/-- An image is discarded; the next offering port serves the next attempt (R420). -/
def imageDropped (s : State) (x : Pull) : State :=
  let s := logSec (bumpF s 0xE000070 31 16) 0x0602 x.id
  startPull { s with boot := { s.boot with
    pull := none, offers := s.boot.offers.filter fun o => !(o.1 == x.port && o.2.1 == x.id) } }

/-- IMAGE_VERIFY: 15 R477, R480, 13 R420, with the verdicts on the signatures. -/
def execImageVerify (stavcorOk certOk ownerOk : Bool) (s : State) : Host.Outcome State Fault Refusal :=
  match s.boot.pull with
  | some x =>
    let t := imageNeed s
    if t = 0 ∨ x.chunks < chunkCount x.len ∨ x.data.length ≠ x.len then .next s
    else if imagePasses s x t stavcorOk certOk ownerOk then .next (imageTaken s x t)
    else .next (imageDropped s x)
  | none => .next s

/-! ### Ports while the device starts -/

/-- A port's state has changed: an image moves to another port, the exit from Dormant goes on once training is over, and
the topology is checked again (12 R406, 14 R454 step 2, 13 R435). -/
def portsChanged (s : State) : State :=
  let s := { s with boot := { s.boot with offers := s.boot.offers.filter fun o => bootPortUp s o.1 } }
  let s := movePull s
  if s.boot.step = 4 ∧ s.boot.kind = 2 ∧ trainingOver s then step5 s
  else if bootState s = 2 then topoAgain s else s

/-! ### The beginning of a full start -/

/-- Every supply is in range, REFCLK runs and RESET_N is high (R417 step 1, 16 R507, R508). -/
def canStart (s : State) : Bool := s.pins.resetN && s.pins.refclk && (s.pins.rails.drop 1).all id

/-- Steps 1 to 3, and the beginning of step 4. -/
def beginFull (s : State) : State :=
  let s := markStep (markStep { s with boot := { s.boot with kind := 0 } } 1) 2
  let c := identityFail s.boot.nor
  if c ≠ 0 then failStart (logSec s 0x0601 c) c
  else
    let r := freeBytes s 32
    let s := { r.2 with sec := { r.2.sec with keyReady := true, bootId := leNat r.1 } }
    markStep (linksOn (markStep s 3)) 4

end Sys2Proof.Machine
end

