-- ==== Sys2Proof/Machine/Reset.lean ====
section
/-! DEFINITION. Resets: the clearing of the compute partition (06 R195, 09 R316, 11 R376, 14 R462), partial and full
resets (13 R415, R416, R440 to R442), power-up and RESET_N (16 R507 to R509), and requests held meanwhile (12 R405). -/
namespace Sys2Proof.Machine

/-! ### What a reset of the compute partition ends -/

/-- Register blocks of the compute partition: POD, LEEK, WIN, RING, CXP, RSMP, TRK, DISP0, DISP1 (02 R30, 14 R444). -/
def partitionBlock (b : Nat) : Bool := b == 1 || b == 2 || (decide (4 ≤ b) && decide (b ≤ 10))

/-- A register that a partial reset sets to its reset value; LEEK.RETAIN lies in the always-on domain (00 R19). -/
def partitionReg (a : Nat) : Bool := partitionBlock (a / 2 ^ 24) && a != 0x2000204

/-- Registers that a predicate selects take their reset values. -/
def resetRegs (s : State) (p : Nat → Bool) : State :=
  let keep := fun (t : Tab Word) => t.filter fun e => !p e.1
  { s with regs := keep s.regs, held := keep s.held, capture := keep s.capture, shadow := keep s.shadow }

/-- Track groups end: every track goes to its result ring with reason 6 (07 R259). -/
def evictGroups (s : State) : State :=
  (s.groups.map (·.1)).foldl (fun s g => endGroup s g 6) s

/-- A stream ends: its position record is saved with cause 0x09 unless it holds one, and everything returns (06 R195). Records that
still wait for its result ring keep it, so that none is dropped (07 R259, 09 R301). -/
def endStream (s : State) (n : Nat) : State :=
  let x := streamGet s n
  if x.state = .free then s else
  let s := if (x.active || x.state == .shed || x.state == .halted) && !x.record then
      streamPut s n { x with record := true, cause := 0x09, pos := positionRecord n x (plainFault 0x09) (recordTime s n s.time) }
    else s
  let s := returnAll (dropPrefetch s n) n
  let y := streamGet s n
  logAdd (streamPut s n { y with state := .free }) 0x0402 0 0 (n + 2 ^ 12 * x.state.code)

/-- Buffers of the frame pools return. -/
def endPools (s : State) : State :=
  let s := s.pools.foldl (fun s e => consReturn s (8 + e.1) (e.2.held.length + e.2.pending.length)) s
  (List.range 8).foldl (fun s p => consCap s (8 + p) 0) { s with pools := [] }

/-- Windows, partitions and the spool pool return (14 R463). -/
def endTables (s : State) : State :=
  let s := consReturn { s with wins := [], resident := [] } 2 s.wins.length
  let units := sumN (s.parts.map fun e => if e.2.stream = 0 then spoolUnits s 0 + spoolUnits s 1 else e.2.len)
  let s := consReturn (consReturn { s with parts := [] } 3 s.parts.length) 4 units
  consReturn { s with spool := [] } 7 s.spool.length

/-- Ring work ends without completions, and its slots return (09 R316); the requests it had sent are forgotten (12
R405). -/
def endWorks (s : State) : State :=
  let s := consReturn { s with slots := [] } 0 s.slots.length
  { s with works := [], pairs := [], lastPair := 0, endedOps := [],
           fab := { s.fab with outstanding := [] },
           rrp := { s.rrp with reads := s.rrp.reads.map fun r => if r.2.1 == 3 then r else (r.1, 2, 0, 0) } }

/-- Line tokens of ports that no stream returned, and the ports themselves. -/
def endCams (s : State) : State :=
  let s := (s.cams.map (·.1)).foldl clearCam s
  (List.range 16).foldl (fun s p => consCap s (22 + p) 0) { s with cams := [] }

/-- Steps 1 and 2 of R440, but for the messages. -/
def endPartition (s : State) : State :=
  let s := restoreTables s
  let s := (admittedIds s).foldl endStream (evictGroups s)
  let s := applyHeldShare ([0, 1].foldl (fun s d => dispStop s d false) s)
  let s := endCams (endTables (endPools (endWorks s)))
  let s := [8, 9, 18].foldl (fun s k => giveToken s k 2) s
  { s with disps := [], encs := [], odo := Odo.reset, chans := [], shedAt := none, restoredAt := none, hold3 := ⟨16, 0, none⟩ }

/-- Step 3 of R440: the domains of the partition are reset; `on` says whether they are powered again. The harvest's registers
lie in the always-on domain and keep their values until the next harvest (13 R443). -/
def resetPartition (s : State) (on : Bool) : State :=
  let s := resetRegs s partitionReg
  let s := leekOff (leekOff s 0) 1
  let s := { s with pods := { s.pods with fenced := [], below := false, selfTest := none }, ddr := { s.ddr with used := [] },
                    mem := memLose s.mem fun a => match region a with | .podStore _ => true | _ => false,
                    boot := { s.boot with cores := false, waves := [], failedWaves := [] } }
  let s := (List.range 104).foldl (fun s p => regPut s (0xD000100 + 4 * p) 0) s
  let s := (List.range 20).foldl (fun s d => if (3 ≤ d ∧ d ≤ 10) ∨ 12 ≤ d then setPower s d false else s) s
  if on then [6, 7, 8, 9, 10].foldl (fun s d => setPower s d true) s else s

/-! ### Partial reset (R440 to R442) -/

/-- A partial reset is ignored: in Dormant and before the partition is powered (R442, 14 R454), and where the start went
no further than the identity check (R418). -/
def partialIgnored (s : State) : Bool :=
  let st := bootState s
  let step := s.boot.step
  s.power.mode == 2 || s.power.tripLatched || step == 0 ||
    ((st == 0 || s.boot.kind == 2) && decide (step ≤ 5)) ||
    (st == 3 && decide (f (regGet s 0) 23 16 = 1 ∨ f (regGet s 0) 23 16 = 2))

/-- Log 0x000B. -/
def logMerged (s : State) (kind : Nat) : State := logAdd s 0x000B 0 0 (kind + 2 ^ 4 * bootState s)

/-- Steps 3 and 4: the partition is reset, and the pods are powered unless a trip holds it (14 R450). -/
def partialFrom3 (s : State) (hold : Bool) : State :=
  let s := logStep (resetPartition s (!hold)) 1 3
  if hold then { s with boot := { s.boot with tripped := true, step := 13 } }
  else step6 { s with boot := { s.boot with tripped := false } }

/-- A partial reset ordered by a source (log 0x0009), with its fault class. -/
def partialReset (s : State) (source cls : Nat) (hold : Bool) : State :=
  if partialIgnored s then logMerged s 1
  else if resetting s then
    partialFrom3 (logMerged { s with sec := { s.sec with resets := s.sec.resets + 1 } } 1) (hold || s.boot.tripped)
  else
    let s := logAdd s 0x0009 (if source = 0 then 0 else 16) 1 (source + 2 ^ 8 * cls)
    let s := { s with boot := { s.boot with kind := 1 }, sec := { s.sec with resets := s.sec.resets + 1 } }
    let s := rrpSend (logStep (regSetF s 0x0 31 28 4) 1 1) 0x0C (leBytes 1 1)
    partialFrom3 (endPartition (logStep s 1 2)) hold

/-- A trip's partial reset goes on from its step 4 (14 R450). -/
def releaseTrip (s : State) : State :=
  if s.boot.tripped then
    step6 ([6, 7, 8, 9, 10].foldl (fun s d => setPower s d true) { s with boot := { s.boot with tripped := false } })
  else s

/-! ### Full reset (R415, R427) -/

/-- Everything but what R415, R427 and R468 keep: the log, MGMT.MARCH_SEL, the levels at the pins and the NOR device. -/
def clearAll (s : State) (quick : Bool) (residue : Nat) : State :=
  { State.reset with
    pending := s.pending, elapsed := s.elapsed, log := s.log, logHead := s.logHead, out := s.out, freeNo := s.freeNo,
    regs := (tget s.regs 0x14).toList.map fun v => (0x14, v),
    boot := { Boot.reset with bootSel := s.boot.bootSel, nor := s.boot.nor, quick := quick, residue := residue },
    pins := { State.reset.pins with rails := s.pins.rails, refclk := s.pins.refclk, resetN := s.pins.resetN } }

/-- A full reset from a source (log 0x000A); the start follows once it can. -/
def fullReset (s : State) (source : Nat) (quick : Bool) (residue : Nat) : State :=
  let s := logAdd s 0x000A (if source = 1 then 16 else 0) 1 (source + 2 ^ 8 * b2n quick + 2 ^ 12 * residue)
  let s := clearAll s quick residue
  if canStart s then beginFull s else s

/-- A full reset that the Supervisor orders: the march test of the start before it, with the next residue (R427). -/
def supervisorReset (s : State) : State :=
  let sel := regGet s 0x14
  let q := bitOf sel 31
  fullReset s 1 q (if q then (f sel 3 0 + 1) % 16 else 0)

/-- A legal write of MGMT.RESET with the confirm value. -/
def mgmtReset (s : State) (v : Nat) : State :=
  if f v 1 0 = 1 then partialReset s 0 0 false
  else fullReset s 0 (bitOf v 8) (if bitOf v 8 then f v 7 4 else 0)

/-! ### Power-up and RESET_N (16 R507 to R509) -/

/-- The start begins where the device is held in reset and everything is in range. -/
def tryStart (s : State) : State := if s.boot.step = 0 ∧ canStart s then beginFull s else s

/-- POWER_UP: 16 R507, R508: groups of rails and the reference that have come into range. -/
def execPowerUp (group1 group2 refclk : Bool) (s : State) : Host.Outcome State Fault Refusal :=
  let rails := s.pins.rails.zipIdx.map fun r =>
    r.1 || (group1 && (2 ≤ r.2 && r.2 ≤ 4)) || (group2 && (r.2 == 1 || 5 ≤ r.2))
  .next (tryStart { s with pins := { s.pins with rails := rails, refclk := s.pins.refclk || refclk } })

/-- RESET_N_RELEASE: R417 step 1, R427; the straps and the NOR device are read in step 2. -/
def execResetNRelease (bootSel : Nat) (nor : Nor) (s : State) : Host.Outcome State Fault Refusal :=
  if s.pins.resetN then .next s else
  .next (tryStart { s with
    pins := { s.pins with resetN := true },
    boot := { s.boot with bootSel := bootSel, nor := nor, quick := bitOf bootSel 2, residue := 0 } })

/-- RESET_N_ASSERT: 16 R508, R509, R415. -/
def execResetNAssert (s : State) : Host.Outcome State Fault Refusal :=
  if !s.pins.resetN then .next s else
  let q := bitOf s.boot.bootSel 2
  .next (fullReset { s with pins := { s.pins with resetN := false } } 2 q 0)

/-- SUPPLIES_REMOVED: 14 R452 Off, 16 R509: everything is lost but the NOR device. -/
def execSuppliesRemoved (s : State) : Host.Outcome State Fault Refusal :=
  .next { State.reset with pending := s.pending, out := s.out, freeNo := s.freeNo,
                           boot := { Boot.reset with nor := s.boot.nor } }

/-! ### Requests held during a partial reset (12 R405, 09 R316) -/

/-- A message held too long is answered with ERROR code 1; an OPEN, which belongs to no session yet, at its own source, and its
fragments are forgotten. -/
def refuseMsg (s : State) (e : Nat × Nat × HeldMsg) : State :=
  let b := leBytes 4 e.1 ++ leBytes 1 1
  match e.2.2 with
  | .open_ _ => { s with out := .rrpTo s.rrp.srcAddr s.rrp.srcPort s.rrp.fragSession 0x0D b :: s.out,
                         rrp := { s.rrp with fragSession := 0, fragCount := 0, frags := [], fragTime := 0 } }
  | _ => rrpSend s 0x0D b

/-- HOLD_TIMEOUT: 2 ms have passed for a request or message held during a partial reset. -/
def execHoldTimeout (s : State) : Host.Outcome State Fault Refusal :=
  let late := fun (t : Nat) => decide (2000000 ≤ s.elapsed - t)
  let old := s.fab.held.filter fun e => late e.2
  let msgs := s.rrp.heldMsgs.filter fun e => late e.2.1
  let t := { s with fab := { s.fab with held := s.fab.held.filter fun e => !late e.2 },
                    rrp := { s.rrp with heldMsgs := s.rrp.heldMsgs.filter fun e => !late e.2.1 } }
  let t := old.foldl (fun s e => refuseTo s e.1 4) t
  .next (msgs.foldl refuseMsg t)

/-- Requests still held when the reset ends are served (12 R405). -/
def deliverHeld (s : State) : State :=
  s.fab.held.foldl (fun s e => match e.1.type with
    | 1 => serveWrite s e.1
    | 2 => serveRead s e.1
    | 6 => serveAssoc s e.1
    | 7 => serveMark s e.1
    | _ => s)
    { s with fab := { s.fab with held := [] } }

/-! ### Ports of the fabric, with what follows from a change of state -/

/-- PORT_TRAINING: 12 R393. -/
def execPortTraining (p : Nat) (t : TrainIn) (s : State) : Host.Outcome State Fault Refusal :=
  .next (portsChanged (trainPort p t s))

/-- IDENT: 12 R385, R393, R395. -/
def execIdent (p : Nat) (data : List Byte) (s : State) : Host.Outcome State Fault Refusal :=
  .next (portsChanged (identPort p data s))

/-- PORT_DOWN: 12 R402, R403. -/
def execPortDown (p reason : Nat) (s : State) : Host.Outcome State Fault Refusal := .next (portsChanged (downPort p reason s))

end Sys2Proof.Machine
end

