-- ==== Sys2Proof/Machine/Power.lean ====
section
/-! DEFINITION. Power and faults: the governor and its limits (14 R448, R449), thermal levels (14 R450), supplies and
clocks (14 R447, R451, R455), power states (14 R452 to R454), the Supervisor's checks (14 R458, R464) and maintenance
(14 R460 to R462). -/
namespace Sys2Proof.Machine

/-! ### The governor (R448, R449) -/

/-- An array operation that is not yet kept and is not preempted. -/
def Work.runs (w : Work) : Bool := w.op.isSome && [Phase.running, .computed, .partials].contains w.phase

/-- An array operation runs. -/
def arrayBusy (s : State) : Bool := s.works.any fun e => e.2.runs

/-- The array voltage, mV (GOV_STATUS). -/
def arrayMv (s : State) : Nat := f (regGet s 0xD000034) 11 0

/-- The cap on the voltage, and the limit that sets it: 1 v_max, 2 power, 3 thermal. -/
def govCap (s : State) : Nat × Nat :=
  let a := (vMax s, 1)
  let b := match s.power.powerCap with | some v => if v < a.1 then (v, 2) else a | none => a
  match s.power.thermCap with | some v => if v < b.1 then (v, 3) else b | none => b

/-- Beats per second that the admitted line-locked streams need (R448). -/
def govDemand (s : State) : Frac := (ratedArray s).demand (loadsBut s 0)

/-- Admitted line-locked streams with a reserve. -/
def lineLockedIds (s : State) : List Nat := (admittedIds s).filter fun n => (streamGet s n).cls == .lineLocked

/-- Some margin is below a share, in percent, of its reserve; a HALTED stream's bypass lines have margins too (06 R212). -/
def marginBelow (s : State) (pct : Nat) : Bool :=
  (lineLockedIds s).any fun n => (streamGet s n).outputs && decide (marginOf s n * 100 < pct * (streamGet s n).reserve)

/-- A stream is shed, or in BYPASS by the order of 02 R24. -/
def govDegraded (s : State) : Bool :=
  s.streams.any fun e => e.2.state == .shed || (e.2.state == .bypass && !e.2.bypass47)

/-- Set the voltage, within v_min and the cap, and show the limit it stands at. -/
def setMv (s : State) (v : Nat) : State :=
  let c := govCap s
  let v := max (vMin s) (min v c.1)
  regPut s 0xD000034 (2 ^ 28 * (if v = c.1 then c.2 else 0) + v)

/-- One step towards a target. -/
def towards (v target : Nat) : Nat := if v + 5 ≤ target then v + 5 else if target + 5 ≤ v then v - 5 else target

/-- What the governor does with line-locked streams admitted. -/
def govLineLocked (s : State) (rm : Nat) : State :=
  let d := govDemand s
  let h := f (regGet s 0xD000030) 23 16
  let v := arrayMv s
  let short := decide (rm * 1000000 * 100 * d.2 < d.1 * (100 + h))
  let ample := decide (105 * d.1 * (100 + h) ≤ rm * 1000000 * 10000 * d.2)
  if short || marginBelow s 75 then
    if v < (govCap s).1 then setMv { s with power := { s.power with lastRaise := s.elapsed } } (v + 5) else setMv s v
  else if ample && !marginBelow s 90 && !govDegraded s && decide (10000000 ≤ s.elapsed - s.power.lastRaise) then
    setMv s (v - 5)
  else setMv s v

/-- The target with no line-locked stream admitted. -/
def govTarget (s : State) : Nat :=
  if !arrayBusy s && decide (1000000 ≤ s.elapsed - s.power.lastArray) then vMin s
  else min (max (f (regGet s 0xD000030) 11 0) (vMin s)) (govCap s).1

/-- The power limiter (R449): engaged above p_max, and its cap the voltage at which the average reached it. -/
def powerLimit (s : State) (avg : Nat) : State :=
  let above := decide (pMax s < avg)
  let cap := if avg < pMax s then none else some (s.power.powerCap.getD (arrayMv s))
  let s := if above != s.power.limiter then logAdd s 0x0103 13 0 (b2n above + 2 ^ 16 * avg) else s
  let deferrable := s.works.any fun e => e.2.runs && (streamGet s e.2.stream).cls == .deferrable
  let s := { s with power := { s.power with limiter := above, powerCap := cap } }
  if above && !deferrable && decide (1000000 ≤ s.elapsed - s.power.lastLower) then
    let v := max (vMin s) (arrayMv s - 5)
    { s with power := { s.power with lastLower := s.elapsed, powerCap := some v } }
  else s

/-- Level 2 lowers the voltage one step per 1 ms (R450). -/
def thermLimit (s : State) : State :=
  if thermLevel s = 2 ∧ 1000000 ≤ s.elapsed - s.power.lastLower then
    { s with power := { s.power with lastLower := s.elapsed, thermCap := some (max (vMin s) (arrayMv s - 5)) } }
  else s

/-- The array has power: its domains are up and no trip holds them. -/
def arrayOn (s : State) : Bool := decide (6 ≤ s.boot.step ∧ s.boot.step ≤ 12) && s.power.mode != 2

/-- GOVERNOR_TICK: R448, R449, with the replica-ring rates by physical pod (Mbeat/s) and the 10 ms average power
(0.1 W). A voltage command that the Supervisor disagrees with leaves the voltage and its limits (R459). -/
def execGovernorTick (rates : List Nat) (power : Nat) (agree : Bool) (s : State) : Host.Outcome State Fault Refusal :=
  let rate := fun (p : Nat) => if podBacked s p then rates.getD p 0 % 4096 else 0
  let s := (List.range 104).foldl (fun s p => regPut s (0xD000100 + 4 * p) (rate p)) s
  let s := regPut s 0xD000038 (power % 65536)
  if !arrayOn s then .next s else
  let busy := arrayBusy s
  let s := if busy then { s with power := { s.power with lastArray := s.elapsed } } else s
  let s := if busy && s.power.mode == 1 then setMode s 0 else s
  if !agree then .next (decisionMismatch s 4) else
  let s := thermLimit (powerLimit s (power % 65536))
  if lineLockedAdmitted s then
    let rm := match s.pods.lmap.map rate with | [] => 0 | a :: l => l.foldl min a
    .next (govLineLocked s rm)
  else .next (setMv s (towards (arrayMv s) (govTarget s)))

/-! ### Heat (R450) -/

/-- Level for a temperature, from the present level. -/
def nextLevel (s : State) (old : Nat) (t : Int) : Nat :=
  let j := tJ s
  let up := if j + 200 ≤ t then 4 else if j + 100 ≤ t then 3 else if j ≤ t then 2 else if j - 50 ≤ t then 1 else 0
  if old < up then up
  else match old with
    | 3 => if t < j - 150 then 0 else 3
    | 2 => if t < j - 20 then 1 else 2
    | 1 => if t < j - 80 then 0 else 1
    | n => n

/-- The hottest valid sensor. -/
def hottest (temps : List (Option Int)) : Option (Nat × Int) :=
  temps.zipIdx.foldl (fun b x => match b, x.1 with
    | none, some t => some (x.2, t)
    | some (i, u), some t => if u < t then some (x.2, t) else some (i, u)
    | b, none => b) none

/-- The fabric loses power: what every port had consumed and not had returned returns (12 R403). -/
def endFabric (s : State) : State :=
  let s := (List.range 6).foldl (fun s p =>
    let x := portGet s p
    consCap (consReturn s (16 + p) (sumN (List.zipWith (fun c r => c - r) x.consumed x.returned))) (16 + p) 0) s
  { s with fab := Fab.reset }

/-- Level 4: THERM_TRIP_N falls and every domain but always-on is powered down; work ends as at a partial reset, and
nothing is lost silently (02 R50; log entry 40). -/
def tripHard (s : State) : State :=
  if s.power.tripLatched then s else
  let t := regGet s 0xD00003C
  let s := logAdd s 0x0101 16 2 (4 + 2 ^ 8 * f t 20 16 + 2 ^ 16 * f t 15 0)
  let s := endFabric (resetPartition (endPartition s) false)
  let s := resetRegs s fun a => a / 2 ^ 24 == 3 || a / 2 ^ 24 == 11 || a / 2 ^ 24 == 12
  let s := { s with
    mem := memLose s.mem fun a => region a == .lpddr, poison := [], rrp := Rrp.reset, eth := Eth.reset,
    ddr := Ddr.reset, sec := { s.sec with live := [false, false] }, boot := { s.boot with step := 13, tripped := false },
    pins := { s.pins with thermTripN := false, arrEn := false, lasers := false, ddrResetN := false },
    power := { s.power with tripLatched := true } }
  regSetF (regPut s 0xD000020 1) 0xD00003C 26 24 4

/-- HARDWARE_TRIP: R450 level 4. -/
def execHardwareTrip (s : State) : Host.Outcome State Fault Refusal := .next (tripHard s)

/-- A change of level: its counters and its action. -/
def setLevel (s : State) (old new sensor : Nat) (t : Int) : State :=
  if old = new then s else
  let s := logAdd s 0x0101 16 (if 3 ≤ new then 2 else 1) (new + 2 ^ 8 * sensor + 2 ^ 16 * low t 16)
  let s := if new = 1 ∧ old = 0 then bumpF s 0xD000040 15 0 else if new = 2 then bumpF s 0xD000040 31 16 else s
  let s := { s with power := { s.power with thermCap := if new = 0 then none else some (s.power.thermCap.getD (arrayMv s)) } }
  if new = 3 then partialReset (bumpF s 0xD000044 31 24) 2 0 true
  else if old = 3 ∧ new < 3 then releaseTrip s else s

/-- The array rail has been out of its range for 100 µs, 10 of them before its fault was found (R455 class 9). -/
def arrDue (s : State) : Bool :=
  match s.power.arrOutAt with
  | some t => decide (90000 ≤ s.elapsed - t)
  | none => false

/-- The partial reset that follows. -/
def arrReset (s : State) : State := partialReset { s with power := { s.power with arrOutAt := none } } 1 9 false

/-- THERMAL_TICK: R450, with the 32 sensors (0.1 °C); the Supervisor looks at the rails with it (R458). -/
def execThermalTick (temps : List (Option Int)) (s : State) : Host.Outcome State Fault Refusal :=
  let s := if arrDue s then arrReset s else s
  match hottest temps with
  | none =>
    match s.power.invalidSince with
    | none => .next { s with power := { s.power with invalidSince := some s.elapsed } }
    | some t => if 1000000 ≤ s.elapsed - t then .next (tripHard s) else .next s
  | some (i, t) =>
    let s := { s with power := { s.power with invalidSince := none } }
    if s.power.tripLatched then .next s else
    let old := thermLevel s
    let new := nextLevel s old t
    let s := regPut s 0xD00003C (2 ^ 24 * (if new = 4 then old else new) + 2 ^ 16 * (i % 32) + low t 16)
    if new = 4 then .next (tripHard s) else .next (setLevel s old new (i % 32) t)

/-! ### Supplies (R451, R455 class 9, 16 R504, R512) -/

/-- Range of a rail in µV. -/
def railRange (s : State) (r : Nat) : Int × Int :=
  match r with
  | 0 => (((vMin s : Int) - 50) * 1000, ((vMax s : Int) + 50) * 1000)
  | 1 => (727500, 772500)
  | 2 => (727500, 772500)
  | 3 => (1710000, 1890000)
  | 4 => (3135000, 3465000)
  | 5 => (873000, 927000)
  | 6 => (1164000, 1236000)
  | 7 => (727500, 772500)
  | 8 => (475000, 525000)
  | 9 => (873000, 927000)
  | _ => (3201000, 3399000)

/-- Largest voltage of a rail without damage, µV; the least is -0.3 V (16 R512). -/
def railMax (r : Nat) : Int :=
  [950000, 900000, 900000, 2100000, 3800000, 1050000, 1400000, 900000, 650000, 1050000, 3800000].getD r 0

/-- A rail that has left its range: the order that R455 gives, for the array rail once 100 µs have passed (arrReset). VDD_IO18 and VDD_IO33 have none (log entry 41). -/
def railAction (s : State) (r : Nat) : State :=
  if r = 0 then { s with power := { s.power with arrOutAt := some s.elapsed } }
  else if r = 1 then partialReset s 1 9 false
  else if r = 2 then clearAll s s.boot.quick s.boot.residue
  else if r = 3 ∨ r = 4 then s
  else supervisorReset s

/-- SUPPLY_FAULT: a rail has been outside its range for 10 µs. Beyond the absolute limits the manual states nothing
(16 R512). -/
def execSupplyFault (rail : Nat) (microvolt : Int) (s : State) : Host.Outcome State Fault Refusal :=
  let r := railRange s rail
  if 10 < rail then .next s
  else if railMax rail < microvolt ∨ microvolt < -300000 then .fault .beyondAbsoluteLimits
  else if (r.1 ≤ microvolt ∧ microvolt ≤ r.2) ∨ (s.pins.rails.getD rail false) = false then .next s
  else
    let s := { s with pins := { s.pins with rails := modAt s.pins.rails rail fun _ => false } }
    let s := logAdd (bumpF s 0xD000044 23 16) 0x0102 16 2 (rail + 2 ^ 8 * b2n (decide (r.2 < microvolt)))
    .next (railAction s rail)

/-- SUPPLY_RESTORED: the rail is in range again; a start that waits for it begins. -/
def execSupplyRestored (rail : Nat) (s : State) : Host.Outcome State Fault Refusal :=
  .next (tryStart { s with pins := { s.pins with rails := modAt s.pins.rails rail fun _ => true },
                           power := { s.power with arrOutAt := if rail = 0 then none else s.power.arrOutAt } })

/-! ### Clocks (R446, R447, R455 class 8) -/

/-- Enabled camera ports whose lanes include one (06 R182). -/
def portOfLane (s : State) (lane : Nat) : Option Nat :=
  (List.range 16).find? fun p => camEnabled s p && decide (p ≤ lane ∧ lane < p + 2 ^ f (camCfg s p) 29 28)

/-- ETHERNET_LINK_CHANGE: 14 R455 class 6; on a loss gPTP turns to the other port (12 R411). -/
def ethLink (q : Nat) (up : Bool) (s : State) : State :=
  let a := 0xC00000C + q * 0x100
  if bitOf (regGet s a) 31 == up || !powered s 2 || decide (1 < q) then s else
  let s := logAdd (regSetF s a 31 30 (3 * b2n up)) 0x020A 12 0 (q + 2 ^ 8 * b2n up)
  if up then s else
  let other := 1 - q
  if s.eth.follower = some q then
    let ok := bitOf (regGet s (0xC00000C + other * 0x100)) 31
    let s := { s with eth := { s.eth with follower := if ok then some other else none } }
    let s := if ok then regSetF s 0xC000814 28 28 other else regPut s 0xC000814 0
    portsChanged s
  else portsChanged s

/-- ETHERNET_LINK_CHANGE. -/
def execEthernetLinkChange (q : Nat) (up : Bool) (s : State) : Host.Outcome State Fault Refusal := .next (ethLink q up s)

/-- What follows a loss of lock, by the kind of clock domain (R455 class 8). -/
def clockLost (s : State) (kind inst : Nat) : State :=
  match kind with
  | 0 => match portOfLane s inst with
    | some p => cameraLost p true s
    | none => s
  | 1 => portsChanged (downPort inst 1 s)
  | 2 => underrun inst s
  | 3 => ethLink 1 false (ethLink 0 false s)
  | 4 => supervisorReset s
  | 5 => partialReset s 1 8 false
  | 6 => partialReset s 1 8 false
  | 7 => supervisorReset s
  | 8 => supervisorReset s
  | _ => s

/-- A clock domain runs: one of R446's table, in a powered domain. -/
def clockRuns (s : State) (kind inst : Nat) : Bool :=
  match kind with
  | 0 => decide (inst < 16) && powered s (3 + inst / 8)
  | 1 => decide (inst < 6) && powered s 1
  | 2 => decide (inst < 2) && powered s 5
  | 3 => inst == 0 && powered s 2
  | 4 => inst == 0 && powered s 2
  | 5 => inst == 0 && (powered s 6 || powered s 7)
  | 6 => inst == 0 && powered s 8
  | 9 => decide (inst < 8) && powered s 11
  | k => inst == 0 && decide (k ≤ 11)

/-- PLL_LOCK_LOSS: R446, R447, R455 class 8. -/
def execPllLockLoss (kind inst : Nat) (s : State) : Host.Outcome State Fault Refusal :=
  if s.power.unlocked.contains (kind, inst) ∨ clockRuns s kind inst = false then .next s else
  let s := logAdd s 0x020C 13 2 (kind + 2 ^ 8 * inst)
  .next (clockLost { s with power := { s.power with unlocked := s.power.unlocked ++ [(kind, inst)] } } kind inst)

/-- PLL_RELOCK: the clock fault ends; on an LPDDR pair a WCK check of both channels follows (R455 class 8, 10 R345). -/
def execPllRelock (kind inst : Nat) (s : State) : Host.Outcome State Fault Refusal :=
  if s.power.unlocked.contains (kind, inst) then
    let s := { s with power := { s.power with unlocked := s.power.unlocked.filter (· != (kind, inst)) } }
    let s := if kind = 9 then [2 * inst, 2 * inst + 1].foldl (fun s ch =>
        { s with ddr := { s.ddr with wckAt := tset s.ddr.wckAt ch s.elapsed } }) s
      else s
    .next (logAdd s 0x020C 13 2 (kind + 2 ^ 8 * inst + 2 ^ 16))
  else .next s

/-! ### Power states (R452 to R454) -/

/-- IDLE_ENTRY: R452. -/
def execIdleEntry (s : State) : Host.Outcome State Fault Refusal :=
  if s.boot.step = 12 ∧ s.power.mode = 0 ∧ !lineLockedAdmitted s ∧ !arrayBusy s ∧
      1000000 ≤ s.elapsed - s.power.lastArray then .next (setMode s 1)
  else .next s

/-- Length of the save area (R453). -/
def saveBytes : Nat := 2 ^ 25

/-- R453: the reason that refuses Dormant, 0 for none. -/
def dormantReason (s : State) : Nat :=
  let a := reg64 s 0xD000010
  let lost := s.parts.any fun e => !bitOf (regGet s 0x2000204) e.2.half
  if !(s.streams.all fun e => e.2.state == .free || e.2.state == .admitted || e.2.state == .halted) then 1
  else if !(s.pairs.all fun e => ringIdle s e.1) then 2
  else if dispEnabled s 0 || dispEnabled s 1 then 3
  else if !s.tokens.isEmpty then 4
  else if lost then 5
  else if !(s.wins.any fun e => e.2.state == 2 && e.2.owner == 0 &&
      decide (e.2.base ≤ a ∧ a + saveBytes ≤ e.2.base + e.2.len * 65536)) then 6
  else if resetting s || s.boot.step != 12 then 7
  else 0

/-- Registers that lose their values in Dormant: their domain is powered down (00 R19). The save area brings back the
window, residency, partition and pool tables (R453). -/
def dormantReg (a : Nat) : Bool :=
  let b := a / 2 ^ 24
  (partitionReg a && !decide (0x4003000 ≤ a ∧ a < 0x4003100)) || b == 11 || b == 12

/-- Entry into Dormant (R453). Ingest and re-timing lose power: no stored line is known any longer and every channel follows the
track afresh, but the numbers of lines go on, so that a ring that is kept is not read as another (log entry 94). -/
def enterDormant (s : State) : State :=
  let s := logAdd s 0x0105 13 0 (regGet s 0x2000204 % 4)
  let a := reg64 s 0xD000010
  let r := freeBytes s saveBytes
  let s := storeBytes r.2 a r.1
  let s := { s with power := { s.power with saved := some (s.wins, s.resident, s.parts), dormant := true, arrOutAt := none, wakeEdges := [] },
                    wins := [], resident := [], parts := [] }
  let keep := fun (h : Nat) => bitOf (regGet s 0x2000204) h && s.leekUp.getD h false
  let k0 := keep 0
  let k1 := keep 1
  let s := if k0 then s else leekOff s 0
  let s := if k1 then s else leekOff s 1
  let s := endFabric (resetRegs ((s.cams.map (·.1)).foldl clearCam s) dormantReg)
  let s := { s with pods := { s.pods with fenced := [], selfTest := none }, rrp := Rrp.reset, pairs := [], disps := [],
                    cams := s.cams.map fun (e : Nat × Camera) => (e.1, { Camera.reset with seq := e.2.seq }),
                    encs := [], odo := Odo.reset, endedOps := [], shedAt := none, restoredAt := none, hold3 := ⟨16, 0, none⟩,
                    mem := memLose s.mem fun a => match region a with | .podStore _ => true | _ => false,
                    eth := Eth.reset, sec := { s.sec with live := [false, false] },
                    boot := { s.boot with cores := false, offers := [], pull := none, kind := 2, step := 0 },
                    pins := { s.pins with lasers := false, arrEn := k0 || k1 } }
  let s := { s with chans := s.chans.map fun (e : Nat × Chan) => (e.1, { newChan s e.1 e.2.coef with outSeq := e.2.outSeq }) }
  let s := (List.range 104).foldl (fun s p => regPut s (0xD000100 + 4 * p) 0) s
  let s := regPut s 0xD000034 (if k0 || k1 then vMin s else 0)
  setMode (regPut s 0xD000020 (1 + 2 ^ 9 * b2n k0 + 2 ^ 10 * b2n k1)) 2

/-- A legal write of PWR.STATE.request (R453). -/
def dormantRequest (s : State) : State :=
  let r := if s.power.mode = 2 ∨ s.power.mode = 3 then 7 else dormantReason s
  if r = 0 then enterDormant s
  else logAdd (regSetF s 0xD000000 27 24 r) 0x0104 13 1 r

/-- The wake source is enabled, and for the timer its time has come, for the encoders 16 edges within 1 s (R454). -/
def wakeHolds (s : State) (source : Nat) : Bool :=
  let t := reg64 s 0xD000008
  match source with
  | 0 => bitOf (regGet s 0xD000004) 0
  | 1 => bitOf (regGet s 0xD000004) 1 && t != 0 && decide (t ≤ s.time)
  | 2 => bitOf (regGet s 0xD000004) 2 && [0, 1].any fun e => match tget s.power.wakeEdges e with
    | some l => decide (l.length = 16 ∧ l.headD 0 - l.getLastD 0 ≤ 1000000000)
    | none => false
  | _ => false

/-- WAKE: R454 step 1, and the beginning of step 2; `digestOk` is the outcome of step 5's check. -/
def execWake (source : Nat) (digestOk : Bool) (s : State) : Host.Outcome State Fault Refusal :=
  if s.power.mode ≠ 2 ∨ !wakeHolds s source then .next s else
  let s := setMode (regSetF s 0xD000000 15 8 (2 ^ source)) 3
  let s := markStep { s with boot := { s.boot with digestOk := digestOk, kind := 2 } } 3
  let b := match s.sec.mgmt with | some i => i.bytes.drop (4883 + leAt i.bytes 16 4) | none => []
  .next (portsChanged (markStep (configureRrp (linksOn s) b) 4))

/-! ### The Supervisor (R458, R464, R455 classes 11 and 12) -/

/-- One failed pool: counted, logged and reported with the entry's index (R464, R467). -/
def consFail (s : State) (i : Nat) : State :=
  let c := s.cons.getD i ⟨0, 0, 0, 0, 0⟩
  let idx := s.logHead % 65536
  let s := { s with cons := modAt s.cons i fun c => { c with failed := min (c.failed + 1) (2 ^ 32 - 1) } }
  let s := logAdd2 s 0x0F01 16 3 i (c.outstanding + 2 ^ 32 * (c.issued % 2 ^ 32)) (c.returned % 2 ^ 32)
  eventAdd s 0x43 idx

/-- CONSERVATION_CHECK: 02 R52, 14 R464. -/
def execConservationCheck (s : State) : Host.Outcome State Fault Refusal :=
  .next (((List.range 39).filter fun i => match s.cons[i]? with | some c => !c.ok | none => false).foldl consFail s)

/-- CONS_SNAP's capture (R464). -/
def consSnapshot (s : State) : State := { s with snap := s.cons }

/-- SPROUT_HEARTBEAT_TIMEOUT: R455 class 11; the Sprout restarts from its verified image. -/
def execSproutHeartbeatTimeout (s : State) : Host.Outcome State Fault Refusal :=
  if s.sec.mgmt.isSome then .next (sproutRestart s 1) else .next s

/-- SUPERVISOR_HEARTBEAT_TIMEOUT: R455 class 12. -/
def execSupervisorHeartbeatTimeout (s : State) : Host.Outcome State Fault Refusal :=
  if s.sec.mgmt.isSome then .next (logAdd (bumpF s 0xD000044 7 0) 0x0210 0 2 0) else .next s

/-! ### Maintenance (R460 to R462) -/

/-- The target is one that the activity can name. -/
def maintTarget (s : State) (act target : Nat) : Bool :=
  match act with
  | 1 => decide (target < 8)
  | 2 => decide (target < 8)
  | 3 => decide (target < 2)
  | 4 => s.pods.spares.contains target
  | 5 => decide (target < 6)
  | _ => target == 0

/-- The activity is allowed in the present state. -/
def maintAllowed (s : State) (act target : Nat) : Bool :=
  s.power.mode != 2 && (match act with
    | 1 => powered s 11
    | 2 => powered s 11 && !lineLockedAdmitted s
    | 3 => s.leekUp.getD target false
    | 4 => powered s (12 + waveOf target)
    | 5 => fabState s target != 0 && fabState s target != 1
    | 6 => powered s 1
    | _ => s.sec.mgmt.isSome || s.sec.pod.isSome)

/-- MAINT_RESP. -/
def maintAnswer (s : State) (ticket status holder target : Nat) : State :=
  regPut s 0xD000304 (2 ^ 24 * ticket + 2 ^ 20 * status + 2 ^ 16 * holder + target)

/-- The activity begins under its token. -/
def maintBegin (s : State) (act target : Nat) : State :=
  let s := takeToken s act target
  match act with
  | 4 => { s with pods := { s.pods with selfTest := some target } }
  | 5 => setFabState (portPut s target { portGet s target with attempts := 0, good := 0 }) target 1
  | _ => s

/-- A substitution has tiles to re-issue. -/
def substPending (s : State) : Bool :=
  s.works.any fun e => match e.2.op with | some op => !op.reissue.isEmpty | none => false

/-- A start request (R460, R461). -/
def maintStart (s : State) (ticket act target : Nat) : State :=
  let k := tokenOf act target
  if !maintTarget s act target && s.power.mode != 2 then
    logAdd (maintAnswer s ticket 3 2 0) 0x0304 13 1 (act + 2 ^ 8 * k + 2 ^ 16 * 2)
  else if !maintAllowed s act target then
    logAdd (maintAnswer s ticket 3 1 0) 0x0304 13 1 (act + 2 ^ 8 * k + 2 ^ 16)
  else if act = 4 ∧ substPending s then
    logAdd (maintAnswer s ticket 2 0xF 0) 0x0303 13 0 (act + 2 ^ 8 * k + 2 ^ 16 * 0xF)
  else match tokenConflict s act target with
    | some t => logAdd (maintAnswer s ticket 2 t.activity t.target) 0x0303 13 0 (act + 2 ^ 8 * k + 2 ^ 16 * t.activity)
    | none => maintAnswer (maintBegin s act target) ticket 1 0 0

/-- A stop request: the activity ends at its next unit boundary; one that does not run is refused (log entry 42). -/
def maintStop (s : State) (ticket act target : Nat) : State :=
  let k := tokenOf act target
  match tget s.tokens k with
  | some t =>
    if t.activity = act ∧ t.target = target then
      maintAnswer { s with tokens := tset s.tokens k { t with stop := true } } ticket 4 0 0
    else logAdd (maintAnswer s ticket 3 1 0) 0x0304 13 1 (act + 2 ^ 8 * k + 2 ^ 16)
  | none =>
    let why := if s.power.mode = 2 then 1 else if maintTarget s act target then 1 else 2
    logAdd (maintAnswer s ticket 3 why 0) 0x0304 13 1 (act + 2 ^ 8 * k + 2 ^ 16 * why)

/-- Period of an activity that the Sprout starts, in ns: a patrol pass in PWR.SCRUB_HOURS, a Leek pass in LEEK.SCRUB_CFG.period
(10 R347), a spare's test every 10 minutes; a rebuild has none (R460). -/
def maintPeriod (s : State) (act : Nat) : Nat :=
  match act with
  | 1 => f (regGet s 0xD00004C) 7 0 * 3600000000000
  | 3 => f (regGet s 0x2000200) 15 0 * 100000000
  | 4 => 600000000000
  | _ => 0

/-- The spare whose test is next in the rotation. -/
def nextSpare (s : State) : Option Nat :=
  match s.pods.spares.find? fun p => match s.pods.lastTest with | some l => decide (l < p) | none => true with
  | some p => some p
  | none => s.pods.spares.head?

/-- The period of an activity's token has expired. -/
def maintDue (s : State) (act target : Nat) : Bool :=
  (match tget s.power.maintAt (tokenOf act target) with
    | some t => decide (t + maintPeriod s act ≤ s.elapsed)
    | none => true) && (act != 4 || nextSpare s == some target)

/-- The Sprout's start of an activity is noted. -/
def noteMaint (s : State) (act target : Nat) : State :=
  { s with power := { s.power with maintAt := tset s.power.maintAt (tokenOf act target) s.elapsed },
           pods := if act = 4 then { s.pods with lastTest := some target } else s.pods }

/-- MAINT_PERIODIC_START: the Sprout starts an activity that is due (R460); one that finds its token taken waits. -/
def execMaintPeriodicStart (act target : Nat) (s : State) : Host.Outcome State Fault Refusal :=
  let periodic := act == 1 || act == 3 || act == 4 || act == 6
  if periodic && s.boot.step == 12 && maintTarget s act target && maintAllowed s act target && maintDue s act target &&
      (tokenConflict s act target).isNone && !(act == 4 && substPending s) then .next (noteMaint (maintBegin s act target) act target)
  else .next s

/-- A spare's self-test has ended (R460, R522). -/
def spareTested (s : State) (pod : Nat) (failed : Bool) : State :=
  let s := { s with pods := { s.pods with selfTest := none },
                    mem := memLose s.mem fun a => region a == .podStore pod }
  if failed then logAdd (clearDrain (fencePod s pod) pod) 0x0305 13 1 (4 + 2 ^ 8 * 18 + 2 ^ 16 * pod) else s

/-- MAINT_UNIT_DONE: one unit of an activity has ended: what it found, and the end of the activity after its last unit
or at a stop request (R460). -/
def execMaintUnitDone (token : Nat) (last failed : Bool) (e : MemErrs) (s : State) : Host.Outcome State Fault Refusal :=
  match tget s.tokens token with
  | none => .next s
  | some t =>
    let s := match t.activity with
      | 1 => memErrors s e true
      | 3 => memErrors s e true
      | 4 => spareTested s t.target failed
      | 6 => let t := rebuildRoutes s; { t with fab := { t.fab with rebuild := s.fab.rebuild } }
      | _ => s
    let ends := last || t.stop || t.activity == 4 || t.activity == 6
    .next (if ends then giveToken s token (b2n (t.stop && !(last || t.activity == 4 || t.activity == 6))) else s)

end Sys2Proof.Machine
end

