-- ==== Sys2Proof/Machine/Degrade.lean ====
section
/-! DEFINITION. The order of degradation (02 R24, 06 R221 to R223): the steps taken as a line-locked stream's margin
falls, a line made in bypass at its deadline, and the steps undone. -/
namespace Sys2Proof.Machine

/-- Band period of a stream in ns. -/
def bandPeriod (x : Stream) : Nat := ceilDiv (x.cost.bandLines * 1000000000) (max 1 x.maxRate)

/-- Length of a hold in band periods: 16 again once 1 s has passed since the step was taken (06 R223). -/
def Hold.length (h : Hold) (now : Nat) : Nat := if 1000000000 < now - h.took then 16 else h.periods

/-- A step is taken: its hold doubles where it was undone within 1 s (06 R223). -/
def Hold.take (h : Hold) (now : Nat) : Hold :=
  match h.undone with
  | some t => ⟨if now - t ≤ 1000000000 then min (2 * h.length now) 1024 else 16, now, none⟩
  | none => ⟨h.length now, now, none⟩

/-- A step is undone. -/
def Hold.undo (h : Hold) (now : Nat) : Hold := { h with undone := some now }

/-- The hold of a step of a stream has ended: its margin has been at least 90 % of its reserve throughout, and no step of the
stream has been undone in it (06 R223). -/
def holdEnded (s : State) (x : Stream) (h : Hold) : Bool :=
  let len := h.length s.elapsed * bandPeriod x
  x.highSince.any (fun t => decide (len ≤ s.elapsed - t)) && x.lastUndo.all fun t => decide (len ≤ s.elapsed - t)

/-- A line-locked stream to which the order applies: it runs, or it is halted (06 R212). -/
def inOrder (x : Stream) : Bool :=
  x.cls == .lineLocked && (x.state == .running || x.state == .halted)

/-- Deferrable streams in a state. -/
def deferrables (s : State) (st : StState) : List Nat :=
  (admittedIds s).filter fun n => (streamGet s n).cls == .deferrable && (streamGet s n).state == st

/-- Shed the lowest-ranked running deferrable stream. -/
def shedOne (s : State) : State :=
  match lowestRank s (deferrables s .running) with
  | some m => { setStream s m .shed false with shedAt := some s.elapsed }
  | none => s

/-- Shed a number of them, one by one. -/
def shedMany : Nat → State → State
  | 0, s => s
  | k + 1, s => shedMany k (shedOne s)

/-- A band period of the stream has passed since a stream was last shed (06 R221). -/
def shedPaced (s : State) (n : Nat) : Bool :=
  s.shedAt.all fun t => decide (bandPeriod (streamGet s n) ≤ s.elapsed - t)

/-- Step 2: the governor's raising follows by its own rule (14 R448). -/
def takeStep2 (s : State) (n : Nat) : State :=
  let x := streamGet s n
  streamPut s n { x with step := 2, hold2 := x.hold2.take s.elapsed, highSince := none }

/-- Step 3 is the device's, and so is the doubling of its hold (06 R221, R223). -/
def holdStep3 (s : State) : State := { s with hold3 := s.hold3.take s.elapsed }

/-- Step 3 begins, and the margin is noted from which it must go on falling. -/
def takeStep3 (s : State) (n : Nat) : State :=
  let s := holdStep3 s
  streamPut s n { streamGet s n with step := 3, highSince := none, shedMargin := marginOf s n }

/-- The margin of a stream calls for step 3: below 50 %, with the voltage at the limit (06 R221). -/
def step3Due (s : State) (n : Nat) : Bool := lowMargin s n 50 && decide ((govCap s).1 ≤ arrayMv s)

/-- Step 4: BYPASS follows at the next band boundary. -/
def takeStep4 (s : State) (n : Nat) : State :=
  let x := streamGet s n
  streamPut s n { x with step := 4, hold4 := x.hold4.take s.elapsed, highSince := none }

/-- DEGRADE_STEP: the next step of 06 R221, where its threshold is passed; step 3 begins with a first shedding, unless one took
place within a band period. -/
def execDegradeStep (n : Nat) (s : State) : Host.Outcome State Fault Refusal :=
  let x := streamGet s n
  if !inOrder x then .next s
  else if x.step ≤ 1 then .next (if lowMargin s n 75 then takeStep2 s n else s)
  else if x.step = 2 then
    .next (if step3Due s n then
        (let t := takeStep3 s n
         if shedPaced s n then shedOne t else t)
      else s)
  else if x.step = 3 then
    .next (if lowMargin s n 25 && (deferrables s .running).isEmpty then takeStep4 s n else s)
  else .next s

/-- Step 3 of a stream calls for the next shedding: its margin still falls, or the step is taken again after some of it was
undone (06 R221, R223). -/
def shedDue (s : State) (n : Nat) : Bool :=
  let x := streamGet s n
  inOrder x && decide (3 ≤ x.step) && shedPaced s n &&
    if s.hold3.undone.isSome then step3Due s n else decide (marginOf s n < x.shedMargin)

/-- The margin from which a stream's step 3 goes on. -/
def noteShed (s : State) (n : Nat) : State :=
  let x := streamGet s n
  streamPut s n { x with shedMargin := marginOf s n, highSince := if s.hold3.undone.isSome then none else x.highSince }

/-- Step 3 is taken again where some of it was undone. -/
def shedAgain (s : State) : State := if s.hold3.undone.isSome then holdStep3 s else s

/-- SHED_STEP: one band period of step 3 has passed and the margin still falls; the next stream is shed (06 R221). -/
def execShedStep (s : State) : Host.Outcome State Fault Refusal :=
  let due := (lineLockedIds s).filter (shedDue s)
  if due.isEmpty ∨ (deferrables s .running).isEmpty then .next s else .next (shedOne (shedAgain (due.foldl noteShed s)))

/-- Steps 2 to 4, each that is not yet taken, at once and in order (06 R222). -/
def takeAll (s : State) (n : Nat) : State :=
  let s := if (streamGet s n).step < 2 then takeStep2 s n else s
  let s := if (streamGet s n).step < 3 then takeStep3 s n
    else if (deferrables s .running).isEmpty then s else shedAgain s
  let s := shedMany 127 s
  if (streamGet s n).step < 4 then takeStep4 s n else s

/-- Due time of the channel's next output line or frame that its lines can make; none where there is none. -/
def nextDue (s : State) (c n : Nat) : Option Nat :=
  let cfg := chanCfg s c
  let st := streamGet s n
  if bitOf cfg 31 then
    match tget s.chans c with
    | some x => match frameOwed s c x with
      | some (g, step) => (frameWay (f cfg 30 29 != 0) x.lineBack (framesOf st x.window) g step).map fun w =>
          dueOf st w.all
      | none => none
    | none => none
  else (planLine s c n .deadline).map fun p => dueOf st p.2.drawn

/-- The line can be made in the normal course: its input is there and can be read. -/
def lineReady (s : State) (c n : Nat) : Bool :=
  if bitOf (chanCfg s c) 31 then frameReadable s c
  else match planLine s c n .normal with
    | some p => p.2.bypass || planReads s c n p.2
    | none => false

/-- LINE_DUE_DEADLINE: 06 R222, in every case, a fault of the stream not yet recorded included (01 R26). A line that its own
event leaves in bypass takes no step (01 R24). -/
def execLineDueDeadline (c : Nat) (s : State) : Host.Outcome State Fault Refusal :=
  let n := chanHolder s c
  let x := streamGet s n
  if x.cls ≠ .lineLocked ∨ !x.outputs ∨ lineReady s c n then .next s else
  match nextDue s c n with
  | none => .next s
  | some due =>
    if s.time + 50000 < due then .next s else
    let s := if inOrder x then takeAll s n else s
    .next (if bitOf (chanCfg s c) 31 then (areaStep s c true).getD s else produceLine s c .deadline)

/-- Restore the highest-ranked shed stream. -/
def restoreOne (s : State) : State :=
  match lowestRank s (deferrables s .shed) with
  | none => s
  | some m =>
    let best := (deferrables s .shed).foldl (fun b k => if rankBelow s b k then k else b) m
    setStream s best .running false

/-- Some line-locked stream that gives lines has a margin below 90 %. -/
def unsettled (s : State) : Bool := (lineLockedIds s).any fun n => (streamGet s n).outputs && lowMargin s n 90

/-- A step of a stream is undone. -/
def undoStep (s : State) (n step : Nat) (x : Stream) : State :=
  streamPut s n { x with step := step, lastUndo := some s.elapsed }

/-- Step 3 is undone by one stream, in the name of stream n; with none left shed, the step is undone for every stream. -/
def undoStep3 (s : State) (n : Nat) : State :=
  let s := { restoreOne s with restoredAt := some s.elapsed, hold3 := s.hold3.undo s.elapsed }
  let x := streamGet s n
  let s := undoStep s n x.step x
  if (deferrables s .shed).isEmpty then
    (lineLockedIds s).foldl (fun s k =>
      let y := streamGet s k
      if y.step = 3 then undoStep s k 2 y else s) s
  else s

/-- A shed stream can be restored in the name of stream n (06 R223): its hold has ended, no stream was restored in it, no stream
of the device is in BYPASS, and no other margin is below 90 %. -/
def restorable (s : State) (n : Nat) : Bool :=
  let x := streamGet s n
  holdEnded s x s.hold3 && !unsettled s && (s.streams.all fun e => e.2.state != .bypass) &&
    s.restoredAt.all fun t => decide (s.hold3.length s.elapsed * bandPeriod x ≤ s.elapsed - t)

/-- RETURN_STEP: 06 R223, a hold period of stream n ends with the margin high. Leaving BYPASS follows at the next band
boundary. A shed stream with no line-locked stream admitted returns at once. -/
def execReturnStep (n : Nat) (s : State) : Host.Outcome State Fault Refusal :=
  let x := streamGet s n
  let shed := !(deferrables s .shed).isEmpty
  let taken := (lineLockedIds s).any fun k => decide (3 ≤ (streamGet s k).step)
  if x.cls = .deferrable then
    .next (if x.state = .shed ∧ (lineLockedIds s).isEmpty then restoreOne s else s)
  else if !x.outputs || x.bypass47 || lowMargin s n 90 then .next s
  else if x.step = 4 then
    .next (if holdEnded s x x.hold4 then undoStep s n 3 { x with hold4 := x.hold4.undo s.elapsed } else s)
  else if x.step = 3 || (shed && !taken) then .next (if restorable s n then undoStep3 s n else s)
  else if x.step = 2 && !shed then
    .next (if holdEnded s x x.hold2 then undoStep s n 0 { x with hold2 := x.hold2.undo s.elapsed } else s)
  else .next s

end Sys2Proof.Machine
end

