-- ==== Sys2Proof/Machine/Windows.lean ====
section
/-! DEFINITION. Windows, residency, frame pools and the run-time bound words as their registers change them (10 R320 to
R336, 05 R158), the refill of a unit (10 R331), and the LPDDR controller (06 R206 to R209, 10 R341 to R346). -/
namespace Sys2Proof.Machine

/-! ### Window entries (R320 to R323) -/

/-- A field register of window n with its held write, if any, applied. -/
def winStaged (s : State) (n off : Nat) : Nat :=
  match tget s.shadow (winBase n + off) with
  | some v => v.toNat
  | none => regGet s (winBase n + off)

/-- The held writes of window n take their registers. -/
def winApply (s : State) (n : Nat) : State :=
  let mine := fun (a : Nat) => decide (winBase n ≤ a ∧ a < winBase n + 0x20)
  applyShadow s mine

/-- A stream whose windows the commander may change (R322). -/
def editable (s : State) (n : Nat) : Bool :=
  n == 0 || (let x := (streamGet s n).state
    x == .free || x == .admitted || x == .halted)

/-- The store bits of a tracked window lie within the store and outside every other valid tracked window (R329). -/
def bitsFree (s : State) (n first len : Nat) : Bool :=
  decide (first + len ≤ 262144) && s.wins.all fun e =>
    e.1 == n || e.2.state != 2 || !e.2.tracked || decide (first + len ≤ e.2.resFirst ∨ e.2.resFirst + e.2.len ≤ first)

/-- The entry that a CTRL value and the staged fields make. -/
def winOf (s : State) (n v holder : Nat) : Window :=
  { base := winStaged s n 0 + 2 ^ 32 * winStaged s n 4, len := winStaged s n 8 + 1, kind := f v 28 26, read := bitOf v 25,
    write := bitOf v 24, fabric := bitOf v 23, tracked := bitOf v 22, owner := f v 6 0, reader := f v 14 8,
    resFirst := winStaged s n 0x10, back := f (winStaged s n 0x14) 7 0, auto := bitOf (winStaged s n 0x14) 31, state := 2,
    lock := false, holder := holder }

/-- A CTRL value that makes a valid entry is allowed. -/
def winLegal (s : State) (n holder : Nat) (w : Window) : Bool :=
  (holder == 0 || w.owner == holder) && decide (w.base % 65536 = 0 ∧ w.base + w.len * 65536 ≤ capacity s) &&
    (!w.tracked || bitsFree s n w.resFirst w.len)

/-- A write of WIN.W_n.CTRL (R322, R323, R329); none where it is a reserved encoding. The fields last written read back in an entry
that is free or held (00 R13). -/
def winCtrl (s : State) (n v : Nat) : Option State :=
  let old := tget s.wins n
  let holder := match old with | some w => w.holder | none => 0
  let bad := match old with
    | some w => w.lock || (w.state == 2 && !editable s w.owner)
    | none => false
  let state := f v 31 30
  let kind := f v 28 26
  if bad || state == 1 || state == 3 || kind == 1 || kind == 2 || kind == 7 then none
  else if state = 2 then
    let w := winOf s n v holder
    if winLegal s n holder w then
      let s := regPut (winApply s n) (winBase n + 0xC) (setF v 31 29 0)
      let s := if old.isNone then consIssue s 2 1 else s
      some { s with wins := tset s.wins n w }
    else none
  else
    let s := regPut (winApply s n) (winBase n + 0xC) (setF v 31 29 0)
    if holder ≠ 0 then some { s with wins := tset s.wins n (heldEntry v holder) }
    else if old.isSome then some (consReturn { s with wins := tdel s.wins n } 2 1)
    else some s

/-- A write of a field register of window n: held until CTRL; none where the entry is locked. A LO half is held until its
HI half comes. -/
def winField (s : State) (a v : Nat) : Option State :=
  let n := (a - 0x4000000) / 0x20
  let off := (a - 0x4000000) % 0x20
  let locked := match tget s.wins n with | some w => w.lock | none => false
  let hold := fun (t : Tab Word) (a v : Nat) => tset t a (BitVec.ofNat 32 v)
  if locked then none
  else if off = 0 then some { s with held := hold s.held a v }
  else if off = 4 then
    let lo := match tget s.held (winBase n) with | some x => x.toNat | none => winStaged s n 0
    some { s with shadow := hold (hold s.shadow (winBase n) lo) a v }
  else if off = 0x10 then some (regPut s a v)
  else some { s with shadow := hold s.shadow a v }

/-- What a window register reads: a locked entry's registers show what the device wrote; the others their own values. -/
def winRead (s : State) (a : Nat) : Nat :=
  let n := (a - 0x4000000) / 0x20
  let off := (a - 0x4000000) % 0x20
  match tget s.wins n with
  | none => regGet s a
  | some w =>
    if off = 0xC then
      2 ^ 30 * w.state + 2 ^ 29 * b2n w.lock + 2 ^ 26 * w.kind + 2 ^ 25 * b2n w.read + 2 ^ 24 * b2n w.write +
        2 ^ 23 * b2n w.fabric + 2 ^ 22 * b2n w.tracked + 2 ^ 8 * w.reader + w.owner
    else if !w.lock then regGet s a
    else if off = 0 then w.base % 2 ^ 32
    else if off = 4 then w.base / 2 ^ 32
    else if off = 8 then w.len - 1
    else 0

/-- A register belongs to a window entry that the device has locked. -/
def winLocked (s : State) (a : Nat) : Bool :=
  decide (0x4000000 ≤ a ∧ a < 0x4002000) && match tget s.wins ((a - 0x4000000) / 0x20) with
    | some w => w.lock
    | none => false

/-! ### Residency (R329 to R331) -/

/-- Runs of set bits without the bits from `a` on, n of them. -/
def runsClear (runs : List (Nat × Nat)) (a n : Nat) : List (Nat × Nat) :=
  runs.flatMap fun r =>
    let e := r.1 + r.2
    (if r.1 < min a e then [(r.1, min a e - r.1)] else []) ++
      (if max (a + n) r.1 < e then [(max (a + n) r.1, e - max (a + n) r.1)] else [])

/-- Join the runs that touch. -/
def runsJoin : List (Nat × Nat) → List (Nat × Nat)
  | [] => []
  | r :: t => match runsJoin t with
    | u :: us => if r.1 + r.2 = u.1 then (r.1, r.2 + u.2) :: us else r :: u :: us
    | [] => [r]

/-- Runs of set bits with the bits from `a` on, n of them. -/
def runsSet (runs : List (Nat × Nat)) (a n : Nat) : List (Nat × Nat) :=
  runsJoin (insertBy (fun x y => decide (x.1 ≤ y.1)) (a, n) (runsClear runs a n))

/-- A write of RES_SET or RES_CLR (R330); none where it reaches beyond the store. -/
def resWrite (s : State) (v : Nat) (on : Bool) : Option State :=
  let first := f v 17 0
  let n := f v 31 18 + 1
  if 262144 < first + n then none
  else some { s with resident := if on then runsSet s.resident first n else runsClear s.resident first n }

/-- WIN.RES_WORD_k. -/
def resWord (s : State) (k : Nat) : Nat :=
  sumN ((List.range 32).map fun i => 2 ^ i * b2n (residentBit s.resident (32 * k + i)))

/-- The backing window of a window that the device refills itself: a valid overflow window of the same owner, no shorter. -/
def backingOf (s : State) (w : Window) : Option Window :=
  if !w.auto then none else
  match tget s.wins w.back with
  | some b => if b.state = 2 ∧ b.kind = 4 ∧ b.owner = w.owner ∧ w.len ≤ b.len then some b else none
  | none => none

/-- AUTO_REFILL: R331 step 2b, for a stream halted at a non-resident unit. -/
def execAutoRefill (n : Nat) (s : State) : Host.Outcome State Fault Refusal :=
  let x := streamGet s n
  let pos := x.pos.flatMap fun v => leBytes 4 v.toNat
  let a := leAt pos 16 5
  if x.state ≠ .halted ∨ !x.record ∨ leAt pos 2 1 ≠ 0x01 then .next s else
  match tget s.wins (leAt pos 21 1) with
  | none => .next s
  | some w =>
    match backingOf s w with
    | none => .next s
    | some b =>
      if !w.covers a || !w.tracked then .next s else
      let u := (a - w.base) / 65536
      if (poisonIn s (b.base + u * 65536) 65536).isSome then .next s else
      let s := storeBytes s (w.base + u * 65536) (memGetN s.mem (b.base + u * 65536) 65536)
      let s := { s with resident := runsSet s.resident (w.resFirst + u) 1 }
      let first := leAt pos 4 4
      .next (resumeAt s n (if x.cls = .lineLocked then resumeBand s (streamGet s n) first else first) false)

/-! ### Frame pools (R332 to R336) -/

/-- Number of buffers of pool p: its window's length over its size, at most 4,096; 0 where it is not bound. -/
def poolCount (s : State) (p : Nat) : Nat :=
  let c := regGet s (0x4003000 + p * 0x20)
  match tget s.wins (f c 23 16) with
  | some w => if f c 15 0 ≠ 0 ∧ w.kind = 6 ∧ w.state = 2 then min (w.len / f c 15 0) 4096 else 0
  | none => 0

/-- A write of POOL_p.CFG: none while a buffer is held or pending (R332). -/
def poolCfgWrite (s : State) (p v : Nat) : Option State :=
  let x := poolGet s p
  if x.held.isEmpty && x.pending.isEmpty then
    let s := regPut s (0x4003000 + p * 0x20) v
    some (consCap s (8 + p) (poolCount s p))
  else none

/-- Allocate the lowest free buffer of a pool (R333). -/
def poolAlloc (s : State) (p : Nat) : Option Nat × State :=
  let x := poolGet s p
  match lowest (poolCount s p) fun b => !x.held.contains b && !x.pending.contains b with
  | some b =>
    (some b, consIssue { consCap s (8 + p) (poolCount s p) with pools := tset s.pools p { x with held := insertBy (fun a c => decide (a ≤ c)) b x.held } }
      (8 + p) 1)
  | none => (none, s)

/-- Free a buffer of a pool (R335). -/
def poolFree (s : State) (p b : Nat) : State :=
  let x := poolGet s p
  let a := 0x4003000 + p * 0x20
  if !x.held.contains b then logAdd (bump s (a + 0x14)) 0x0408 4 1 (p + 2 ^ 8 + 2 ^ 16 * b)
  else
    let y := { x with held := x.held.filter (· != b) }
    if x.refs.any fun r => r.1 == b then
      let s := { s with pools := tset s.pools p { y with pending := insertBy (fun a c => decide (a ≤ c)) b y.pending } }
      logAdd (bump s (a + 0x10)) 0x0408 4 1 (p + 2 ^ 16 * b)
    else consReturn { s with pools := tset s.pools p y } (8 + p) 1

/-- POOL_p.STATUS. -/
def poolStatus (s : State) (p : Nat) : Nat :=
  let x := poolGet s p
  2 ^ 16 * (poolCount s p - x.held.length - x.pending.length) + x.pending.length

/-! ### Run-time bound words (05 R158) -/

/-- A write of W3 of a set applies its held words; W2 and W3 are RSV. -/
def rtbApply (s : State) (n : Nat) : State :=
  applyShadow s fun a => a == 0x2000100 + n * 0x10 || a == 0x2000104 + n * 0x10

/-! ### LPDDR shares and enforcement windows (06 R206 to R209) -/

/-- A write of DDR.SHARE: held while a line-locked stream is admitted (R207). -/
def shareWrite (s : State) (v : Nat) : State :=
  if lineLockedAdmitted s then { s with ddr := { s.ddr with heldShare := some (BitVec.ofNat 32 v) } }
  else regPut (regPut s 0x3000400 v) 0x3000404 v

/-- ENFORCEMENT_WINDOW: a window begins at the last multiple of 1,000 ns, and the allowances renew; the requests that waited
for it are served as far as it can, and the others wait for the next (R208, R209). -/
def execEnforcementWindow (s : State) : Host.Outcome State Fault Refusal :=
  let now := s.time / 1000 * 1000
  if now ≤ s.ddr.window then .next s
  else .next (s.ddr.queued.foldl (fun s u => ddrAsk s u.1 u.2.1 u.2.2)
    { s with ddr := { s.ddr with window := now, refreshTaken := 0, used := [], queued := [] } })

/-- Tolerance of each master that R346 names: 0 for a running line-locked stream, DISPn.TOLERANCE for an output. -/
def tolerant (s : State) : Bool :=
  (s.streams.all fun e => e.2.cls != .lineLocked || !e.2.active) &&
    [0, 1].all fun d => !bitOf (regGet s (0x9000000 + d * 0x1000000)) 31 ||
      decide (8000 ≤ regGet s (0x9000064 + d * 0x1000000))

/-- A channel pair has had no request for 4 µs (10 R346). -/
def pairIdle (s : State) (pair : Nat) : Bool :=
  match tget s.ddr.touched pair with | some t => decide (t + 4000 ≤ s.elapsed) | none => true

/-- SELF_REFRESH_ENTRY: 10 R346. -/
def execSelfRefreshEntry (pair : Nat) (s : State) : Host.Outcome State Fault Refusal :=
  if pair < 8 ∧ pairIdle s pair ∧ tolerant s ∧ powered s 11 ∧ capacity s ≠ 0 ∧ !s.ddr.selfRefresh.contains pair then
    .next { s with ddr := { s.ddr with selfRefresh := insertBy (fun a b => decide (a ≤ b)) pair s.ddr.selfRefresh } }
  else .next s

/-- SELF_REFRESH_EXIT: 10 R346. -/
def execSelfRefreshExit (pair : Nat) (s : State) : Host.Outcome State Fault Refusal :=
  .next { s with ddr := { s.ddr with selfRefresh := s.ddr.selfRefresh.filter (· != pair) } }

/-- WCK_DQ_CHECK: 10 R345; a timing event, which changes no result. -/
def execWckDqCheck (ch : Nat) (s : State) : Host.Outcome State Fault Refusal :=
  if ch < 16 then .next { s with ddr := { s.ddr with wckAt := tset s.ddr.wckAt ch s.elapsed } } else .next s

/-- PER_BANK_REFRESH: 10 R341, R345, 06 R209; the accesses it takes reduce no allowance. -/
def execPerBankRefresh (_ch accesses : Nat) (s : State) : Host.Outcome State Fault Refusal :=
  .next { s with ddr := { s.ddr with refreshTaken := s.ddr.refreshTaken + accesses } }

end Sys2Proof.Machine
end

