-- ==== Sys2Proof/Machine/Bands.lean ====
section
/-! DEFINITION. Bands: their issue by the schedule (06 R194, R197, R221, R223), the spooling of a shed stream's input (06
R219, 10 R337), and their keeping (06 R199, 03 R88, 07 R254, 09 R302). -/
namespace Sys2Proof.Machine

/-! ### The band boundary -/

/-- What takes effect at a band boundary: held registers of the array and the stream (00 R20), and the entry to and the
return from BYPASS (06 R221, R223). -/
def bandBoundary (s : State) (n : Nat) : State :=
  let s := applyBoundary s n
  let x := streamGet s n
  if x.cls ≠ .lineLocked then s
  else if x.state = .running ∧ x.step = 4 then setStream s n .bypass false
  else if x.state = .bypass ∧ !x.bypass47 ∧ x.step < 4 then setStream s n .running false
  else s

/-! ### Steps of a schedule -/

/-- A step of a schedule that is no operation: a commit that is refused changes nothing more (11 R366). -/
def schedStep (s : State) (n : Nat) : SchedAct → State
  | .commit d at_ =>
    if dispHolder s d ≠ n then s else
    match commitPlane s d n at_ none with
    | .ok s => s
    | .error (s, _) => s
  | .alloc p => (poolAlloc s p).2
  | .free p b => if b < poolCount s p then poolFree s p b else s

/-! ### Bypassed bands -/

/-- The first band not kept from a band on, past the bands produced in bypass that have no work left. -/
def skipKept (s : State) (n : Nat) (l : List Nat) : Nat → Nat → Nat
  | 0, k => k
  | m + 1, k => if l.contains k && (bandWorks s n k).isEmpty then skipKept s n l m (k + 1) else k

/-- Time of the first line that a stream has not sent the detections of: the first line of its earliest band not kept, or,
where no line of it is stored yet, the newest line stored (07 R254, log entry 45). -/
def unsentFrom (s : State) (n : Nat) : Option Nat :=
  let y := streamGet s n
  match bandTime s n y.kept with
  | some t => some t
  | none => match y.camBase.filterMap fun b => (camGet s b.1).lines.head?.map (·.time) with
    | [] => none
    | t :: ts => some (ts.foldl min t)

/-- The watermark of a stream's group after a band: the least over the device's streams of the group, those that have halted
included, with the bands of the detections that are still in their rings (07 R254). -/
def bandMark (s : State) (n : Nat) : State :=
  let s := sendDets s n false
  let g := groupOf (streamGet s n)
  match groupGet s g with
  | none => s
  | some x =>
    match x.streams.filterMap (unsentFrom s) ++ x.streams.flatMap (fun k => (streamGet s k).dets.map (·.2)) with
    | [] => s
    | t :: ts => sendMarks s g n (ts.foldl min t)

/-- A band is left to bypass. -/
def bypassBand (s : State) (n band : Nat) : State :=
  let x := streamGet s n
  let l := dedup (band :: x.bypassed)
  let s := streamPut s n { x with bypassed := l, kept := skipKept s n l (l.length + 1) x.kept }
  bandMark (returnTokensOf s n) n

/-! ### The spool of a shed or halted stream -/

/-- Place of a band of `size` bytes in the ring of a spool window of `len` bytes, after the newest band and clear of the
oldest; none where it does not fit. -/
def spoolPlace (l : List Spooled) (len size : Nat) : Option Nat :=
  match l.head?, l.getLast? with
  | some a, some b =>
    let e := b.place + b.size
    if a.place ≤ b.place then (if e + size ≤ len then some e else if size ≤ a.place then some 0 else none)
    else if e + size ≤ a.place then some e else none
  | _, _ => if size ≤ len then some 0 else none

/-- Structures that an operation reads at issue and that hold data of the band: a bound word in memory and a pointer list (05
R154, R158). -/
def issueItems (op : Op) : List ReadItem :=
  let o := decOp op.block
  (if o.rt ∧ 15 < o.rtT then [(o.rtT, 16, .raw)] else []) ++
    (if o.ptr then [(o.ptrT, 64 + 64 * op.ptrs.length, .raw)] else [])

/-- Ranges of an operation's weights, which are no part of a band. -/
def weightRanges (op : Op) : List (Nat × Nat) :=
  (problemsOf (decOp op.block) op.ptrs op.rt).flatMap fun o => match o.b with
    | some b => if b.weights then b.ranges false else []
    | none => []

/-- What the operations of a band read of their input, and none of them or of the bands before has still to write: `made` is
what is still to be written (06 R219). -/
def bandItems (s : State) : List Op → List (Nat × Nat) → List ReadItem
  | [], _ => []
  | op :: ops, made =>
    let cut := made ++ weightRanges op
    let items := (op.items s ++ issueItems op).flatMap fun r => match r.2.2 with
      | .slot _ => if cut.any fun u => meet r.1 r.2.1 u.1 u.2 then [] else [r]
      | k => (cutRanges [(r.1, r.2.1)] cut).map fun u => (u.1, u.2, k)
    items ++ bandItems s ops (made ++ op.traffic 1)

/-- Items of a form, joined. -/
def joinItems (l : List ReadItem) (k : SpoolForm) : List ReadItem :=
  (mergeRanges ((l.filter fun r => r.2.2 == k).map fun r => (r.1, r.2.1))).map fun r => (r.1, r.2, k)

/-- Items without repeats. -/
def itemsOnce : List ReadItem → List ReadItem
  | [] => []
  | r :: rs => let t := itemsOnce rs; if t.contains r then t else r :: t

/-- The pieces of a band: runs of code data, which the spool compresses, segments as they are, and runs of the rest. -/
def bandParts (s : State) (ops : List Op) (made : List (Nat × Nat)) : List ReadItem :=
  let l := bandItems s ops made
  joinItems l .packed ++ itemsOnce (l.filter fun r => match r.2.2 with | .slot _ => true | _ => false) ++ joinItems l .raw

/-- Bytes that a part takes in the spool, in whole 64-byte units. -/
def partSize (p : ReadItem) : Nat := if p.2.2 = .packed then compRow p.2.1 else ceilDiv p.2.1 64 * 64

/-- The pieces of a band from a place on. -/
def placeParts (at_ : Nat) : List ReadItem → List SpoolPiece
  | [] => []
  | p :: ps => ⟨p.1, p.2.1, at_, p.2.2⟩ :: placeParts (at_ + partSize p) ps

/-- What is written of a piece: of a segment that lies compressed only what it holds (04 R138, R139). -/
def pieceWrites (rd : Reader) (p : SpoolPiece) : Except OpStop (List (Nat × List Byte)) :=
  let put := fun (b : List Byte) => (packRow b).map fun w => (p.at_ + w.1, w.2)
  match p.form with
  | .raw => match rdMem rd p.live p.len with
    | .ok b => .ok [(p.at_, b)]
    | .error e => .error e
  | .packed => match rdMem rd p.live p.len with
    | .ok b => .ok (put b)
    | .error e => .error e
  | .slot n => match readSegment rd p.live n with
    | .ok b => .ok (put b)
    | .error e => .error e

/-- Write the pieces of a band; what was written before a stop stays. -/
def putPieces (s : State) (n : Nat) (rd : Reader) : List SpoolPiece → Except (State × OpStop) State
  | [] => .ok s
  | p :: ps => match pieceWrites rd p with
    | .error e => .error (s, e)
    | .ok ws => match putAll s n ws with
      | .error m => .error (s, .mem m)
      | .ok s => putPieces s n rd ps

/-- Operations that would start, and the first structure that stops a read. -/
def readyOps (l : List Issue) : List Op := l.filterMap fun i => match i with | .ready op => some op | _ => none

/-- What the bands of a stream that lie in its spool or have not been computed are still to write. -/
def toCome (s : State) (n : Nat) : List (Nat × Nat) :=
  (streamGet s n).spooled.flatMap (·.made) ++
    (s.works.filter fun e => e.2.stream == n && (e.2.phase == .running || e.2.phase == .yielded || e.2.phase == .partials)).flatMap
      fun e => match e.2.op with | some op => op.traffic 1 | none => []

/-- The bound words of the register sets that operations name, as last applied (05 R158). -/
def boundsOf (s : State) (ops : List Op) : Tab RtBound :=
  ops.foldl (fun t op => let o := decOp op.block
    if o.rt ∧ o.rtT ≤ 15 then tset t o.rtT (boundReg s o.rtT) else t) []

/-- 06 R219: the input band that a shed or halted stream would have read goes compressed into its spool window, every record
with its exponents, side lists and sums, with the bound words and pointer lists of its operations. What earlier bands are still
to write is read when the band runs (02 R45). Where it does not fit the stream halts and no later band is spooled. -/
def spoolBand (s : State) (n : Nat) (ops : List SchedOp) : State :=
  let x := streamGet s n
  let l := ops.zipIdx.map fun (o, i) => issueSched s n x.front i (schedPass o) o
  match l.findSome? fun i => match i with | .denied m => some (OpStop.mem m) | .bad e => some e | _ => none with
  | some e =>
    let r := stopFault s n e 0xFFFF 0xFFFFFFFF false
    raiseFault r.1 n r.2
  | none =>
    let run := readyOps l
    let parts := bandParts s run (toCome s n)
    let size := sumN (parts.map partSize)
    let full := raiseFault (streamPut s n { x with spoolStop := true }) n (plainFault 0x08)
    match ownWindow s n 3 with
    | none => full
    | some (_, w) => match spoolPlace x.spooled (w.len * 65536) size with
      | none => full
      | some o =>
        let pieces := placeParts (w.base + o) parts
        match putPieces s n (streamReader s n 0) pieces with
        | .error (s, e) =>
          let r := stopFault s n e 0xFFFF 0xFFFFFFFF false
          raiseFault r.1 n r.2
        | .ok s => streamPut s n { x with
            spooled := x.spooled ++ [⟨x.front, o, size, pieces, boundsOf s run, run.flatMap fun op => op.traffic 1⟩],
            front := x.front + 1 }

/-- A deferrable stream that a line-locked one feeds spools its input bands while it is shed or halted (06 R212, R219). -/
def spools (x : Stream) : Bool :=
  x.cls == .deferrable && (x.state == .shed || (x.state == .halted && x.record)) && !x.spoolStop &&
    (match x.sched with | some d => d.fedBy != 0 | none => false)

/-- The spooling of a band waits: for the line-locked requests of LPDDR (06 R209), or for the comparison of the critical heads
whose output it would take (08 R277). -/
def spoolHeld (s : State) (n : Nat) : Bool :=
  let x := streamGet s n
  ddrHeldBack s n || pairLost s || (match x.sched with | some d => critOpen s d.fedBy x.front | none => false)

/-! ### BAND_READY -/

/-- Every camera of a line-locked stream has stored the lines of its next band (06 R197). -/
def bandStored (s : State) (n : Nat) : Bool :=
  let x := streamGet s n
  x.cls != .lineLocked || x.camBase.all fun b => bandIn x b.1 (camGet s b.1) x.band

/-- The operations of a band, read and checked in order, each after the steps of the schedule that come before it (10 R333). -/
def issueBand (s : State) (n band : Nat) (steps : List SchedStep) : List (SchedOp × Nat) → State
  | [] => s
  | (o, i) :: l =>
    if (streamGet s n).faulting.isSome then s else
    let s := (steps.filter fun t => t.after == i).foldl (fun s t => schedStep s n t.act) s
    issueBand (applySched s n band i o.lines (issueSched s n band i (schedPass o) o)) n band steps l

/-- Scoreboard slots that a band takes as it is issued: one for each operation and each flip (09 R303). -/
def bandSlots (ops : List SchedOp) (steps : List SchedStep) : Nat :=
  ops.length + (steps.filter fun t => match t.act with | .commit .. => true | _ => false).length

/-- A running stream issues its next band: from its spool where the band lies there, which is oldest first (06 R219). -/
def issueNext (s : State) (n : Nat) (ops : List SchedOp) (steps : List SchedStep) : State :=
  let x := streamGet s n
  if s.pods.below then (if x.cls = .deferrable then raiseFault s n (plainFault 0x0C) else s)
  else if x.wants.isSome || !x.spilled.isEmpty || !slotsFor s n (bandSlots ops steps) then s else
  let s := issueBand s n x.band steps ops.zipIdx
  if (streamGet s n).faulting.isSome then s else
  let s := (steps.filter fun t => decide (ops.length ≤ t.after)).foldl (fun s t => schedStep s n t.act) (markLast s n x.band)
  let y := streamGet s n
  streamPut s n { y with band := x.band + 1, front := max y.front (x.band + 1) }

/-- BAND_READY: 06 R194, R197, R212, R219, R221, 02 R48, 09 R303, 10 R333, R335, 11 R364. Below 88 active pods no operation
starts, and a deferrable stream halts. -/
def execBandReady (n : Nat) (ops : List SchedOp) (steps : List SchedStep) (s : State) :
    Host.Outcome State Fault Refusal :=
  if (streamGet s n).faulting.isSome then .next s
  else if spools (streamGet s n) then .next (if spoolHeld s n then s else spoolBand s n ops)
  else if !bandStored s n then .next s
  else
    let s := bandBoundary s n
    let x := streamGet s n
    match x.state with
    | .running => .next (issueNext s n ops steps)
    | .bypass => .next (bypassBand (streamPut s n { x with band := x.band + 1 }) n x.band)
    | _ => .next s

/-! ### OPERATION_COMPLETE -/

/-- The places of a sender's partial blocks here and at the combiner, in pieces of 64 bytes. -/
def senderBlocks (s : State) (n : Nat) (op : Op) (c : CrossOp) : List (Nat × Nat) :=
  match (decOp op.block).d with
  | some d =>
    let exact := (streamGet s n).cost.mode == 1
    let split := 2 ^ (decMap op.map).split
    (op.tiles s).flatMap fun t => (List.range (t.h * t.w * ceilDiv t.n 64 * split)).flatMap fun k =>
      let nb := ceilDiv t.n 64
      let p := k / split / nb
      let o := blockAt d split exact t.prob (t.y + p / t.w) (t.x + p % t.w) (t.c / 64 + k / split % nb) (k % split)
      (List.range (blockSize exact / 64)).map fun i => (c.own + o + 64 * i, c.remote + o + 64 * i)
  | none => []

/-- The blocks of a sender's partials go over the fabric to their places on the combiner's node, in the class of the stream
(08 R263, 12 R384). -/
def sendBlocks (s : State) (n wid : Nat) (op : Op) (c : CrossOp) : List (Nat × Nat) → State
  | [] => s
  | (a, b) :: l => match (streamReader s n 0).get a 64 with
    | .error e =>
      let r := stopFault s n e op.opIdx 0xFFFFFFFF (decOp op.block).ptr
      raiseFault r.1 n r.2
    | .ok d =>
      match request s 0x01 (if (streamGet s n).cls = .lineLocked then 0 else 6) c.node n b 4 d (some wid) n with
      | .ok s => sendBlocks s n wid op c l
      | .error _ => raiseFault s n { plainFault 0x0B with addr := b, op := op.opIdx, ptr := (decOp op.block).ptr }

/-- OPERATION_COMPLETE, once every tile is kept: 06 R199, 09 R303. A sender of a reduction that crosses devices sends its
blocks to the combiner, once the outstanding table has room for them (08 R263, 12 R391). -/
def execOperationComplete (wid : Nat) (s : State) : Host.Outcome State Fault Refusal :=
  match workGet s wid with
  | none => .next s
  | some w => match w.op.bind fun op => (op.cross.filter fun c => !c.combiner).map fun c => (op, c) with
    | none => .next (completeOp wid s)
    | some (op, c) =>
      let l := senderBlocks s w.stream op c
      if !tableRoom s l.length then .next s else
      let t := completeOp wid s
      let ended := w.phase != .waiting && (match workGet t wid with | some v => v.phase == .waiting | none => false)
      .next (if ended then sendBlocks t w.stream wid op c l else t)

/-! ### BAND_KEPT -/

/-- Every head's result record, in order; of a critical head the output of the run that is released, and none where its three
runs differ (08 R278). -/
def putHeads (s : State) (n band : Nat) (heads : List HeadResult) : State :=
  heads.foldl (fun s h =>
    let crit := (streamGet s n).critDone.find? fun d => d.head == h.head
    if (match crit with | some d => d.outcome == 2 | none => false) then s else
    let t := headTime s n band
    let out := match crit with | some d => (d.elements, d.addr) | none => (h.elements, h.addr)
    resultPut t.2 n (headRecord 0x40 band h.head 0 out.1 out.2 t.1 0xFFFFFFFF)) s

/-- What a kept band's critical heads add: their counts, and the record of each whose three runs differ (08 R277, R278,
R280). -/
def keepCrit (s : State) (n band : Nat) : State :=
  (streamGet s n).critDone.foldl (fun s d =>
    let s := bump s 0x1001038
    if d.outcome = 1 then bumpF s 0x100103C 15 0
    else if d.outcome = 2 then
      let t := headTime (bumpF s 0x100103C 31 16) n band
      resultPut t.2 n (headRecord 0x41 band d.head d.tiles d.elements d.addr t.1 d.first)
    else s) s

/-- The band counts as kept. -/
def keepBand (s : State) (n : Nat) (ws : List (Nat × Work)) (heads : List HeadResult) : State :=
  let band := (streamGet s n).kept
  let s := ws.foldl (fun s e => endWork s e.1 e.2.slot) s
  let s := keepCrit (putHeads s n band heads) n band
  let s := bumpBy s 0x1001030 ((streamGet s n).empties.filter (· == band)).length
  let x := streamGet s n
  let s := streamPut s n { x with
    kept := skipKept s n x.bypassed (x.bypassed.length + 1) (band + 1), critDone := [],
    empties := x.empties.filter (· != band), spooled := x.spooled.filter fun b => b.band != band }
  bandMark (returnTokensOf s n) n

/-- Partial blocks of a stream's operations that have not reached their combiner. -/
def unsent (s : State) (n : Nat) : Bool :=
  s.fab.outstanding.any fun r => r.stream == n && r.packet.type == 0x01 &&
    (r.wid.bind (workGet s)).any fun w => w.pair.isNone

/-- The adaptation records of a band's operations put: every one of them or, where one cannot be written, none, so that a
recomputed band decides from the same state (03 R92, R93). -/
def keepAdapts (s : State) (n : Nat) : List (Nat × Work) → Except ((Nat × Work) × Op × MemStop) State
  | [] => .ok s
  | e :: es => match e.2.op with
    | none => keepAdapts s n es
    | some op => match keepAdapt s n e.1 op with
      | .error m => .error (e, op, m)
      | .ok s => keepAdapts s n es

/-- BAND_KEPT: every operation of the oldest band has completed and its critical heads have been compared (08 R277); it
waits while the result staging is full (09 R301). -/
def execBandKept (n : Nat) (heads : List HeadResult) (s : State) : Host.Outcome State Fault Refusal :=
  let x := streamGet s n
  let ws := bandWorks s n x.kept
  let issued := decide (x.kept < x.band)
  if !(x.active || x.state == .shed) || x.faulting.isSome || x.stalled || !issued || critOpen s n x.kept ||
      !(ws.all fun e => e.2.phase == .waiting) || unsent s n then .next s
  else match keepAdapts s n ws with
    | .error (e, op, m) => .next (failOp s e.1 e.2 op ⟨.mem m, none⟩)
    | .ok t => .next (keepBand (ws.foldl (fun s e => match e.2.op with | some op => keepCounts s op | none => s) t) n ws heads)

end Sys2Proof.Machine
end

