-- ==== Sys2Proof/Machine/Rings.lean ====
section
/-! DEFINITION. The rings: doorbells (09 R284, R285), pair configuration (09 R283, R318, 13 R436), the fetch of
descriptors (09 R286 to R294), the writing of waiting completions, events and records (09 R285, R299, R301), RESULT_RING
and notification (09 R300, R308). -/
namespace Sys2Proof.Machine

/-! ### Doorbells -/

/-- A doorbell on a disabled pair is ignored and logged (R284). -/
def doorbellOff (s : State) (p : Nat) : State := logAdd s 0x0214 5 1 p

/-- A write of PAIR_n.SQ_DB: R284. -/
def sqDoorbell (s : State) (p v : Nat) : State :=
  let x := pairGet s p
  if !pairEnabled s p then doorbellOff s p
  else if x.stopped || serialGe 32 x.sqDb v then s
  else if 2 ^ sqLog2 s p < (v + 2 ^ 32 - x.fetch) % 2 ^ 32 then stopPair s p
  else pairPut s p { x with sqDb := v }

/-- A write of PAIR_n.CQ_DB: R285. A value that returns no slot the device has written is ignored (log entry 46). -/
def cqDoorbell (s : State) (p v : Nat) : State :=
  let x := pairGet s p
  if !pairEnabled s p then doorbellOff s p
  else if serialGe 32 v x.cqCons && serialGe 32 x.cqTail v then pairPut s p { x with cqCons := v } else s

/-- A write of STREAM_s.RES_DB: R300. -/
def resDoorbell (s : State) (n v : Nat) : State :=
  let x := streamGet s n
  match x.ring with
  | some r =>
    if serialGe 32 v r.cons && serialGe 32 r.tail v then streamPut s n { x with ring := some { r with cons := v } } else s
  | none => s

/-! ### Pair configuration -/

/-- PAIR_n.STATUS. -/
def pairStatus (s : State) (p : Nat) : Nat :=
  let x := pairGet s p
  2 ^ 31 * b2n (ringIdle s p) + 2 ^ 30 * b2n x.stopped + 2 ^ 29 * b2n (!x.wait.isEmpty) +
    2 ^ 28 * b2n (pairRemote s p && s.rrp.state == 2) + min (inFlightOf s p) 2047

/-- The device is ready (13 R435). -/
def deviceReady (s : State) : Bool := bootState s == 1

/-- The rings of a local pair lie at 40-bit device addresses of the LPDDR region (R282, 00 R10, R17). -/
def ringsAt (s : State) (p v : Nat) : Bool :=
  bitOf v 30 || [reg64 s (0x5001000 + p * 0x40), reg64 s (0x5001008 + p * 0x40)].all fun a =>
    decide (a < 2 ^ 40) && region a == .lpddr

/-- A pair as enabling leaves it: its indices are 0 (R283); the events that it holds and a notification that is due stay. -/
def pairEnable (s : State) (p : Nat) : State :=
  let x := pairGet s p
  pairPut s p { Pair.reset with events := x.events, timer := x.timer }

/-- A write of PAIR_n.CFG; none where it is refused. -/
def pairCfgSet (s : State) (p v : Nat) : Option State :=
  let old := pairCfg s p
  let a := 0x5001010 + p * 0x40
  if bitOf old 31 && v == setF old 31 31 0 then some (regPut s a v)
  else if !ringIdle s p || (bitOf v 31 && !(deviceReady s && ringsAt s p v)) then none
  else if bitOf v 31 && !bitOf old 31 then some (pairEnable (regPut s a v) p)
  else some (regPut s a v)

/-! ### The choice of a pair (R286, R287) -/

/-- The bytes of the descriptor at index i of a pair: none while a remote one has not come. -/
def peekDesc (s : State) (p i : Nat) : Option (Except MemStop (List Byte)) :=
  if pairRemote s p then (tget (pairGet s p).fetched i).map .ok
  else some (devRead s (readBy 0 0) (reg64 s (0x5001000 + p * 0x40) + i % 2 ^ sqLog2 s p * 64) 64)

/-- What stops a pair's next descriptor from starting: its fence, or the want of a slot. -/
def descHeld (s : State) (p i : Nat) (d : List Byte) : Bool :=
  let fence := bitOf (leAt d 1 1) 1 && inFlightOf s p != 0
  let slot := opcodeSlot (leAt d 0 1) && (descErr d (pairRemote s p)).isNone && !commonFree s
  !(pairGet s p).cancels.contains i && (fence || slot)

/-- The pair has posted descriptors that it may fetch. -/
def posted (s : State) (p : Nat) : Bool :=
  let x := pairGet s p
  pairEnabled s p && !x.stopped && x.wait.isEmpty && x.fetch != x.sqDb

/-- The pair's next descriptor can start now, or, of a remote pair, can be asked for. -/
def pairReady (s : State) (p : Nat) : Bool :=
  let x := pairGet s p
  posted s p && match peekDesc s p x.fetch with
    | some (.ok d) => !descHeld s p x.fetch d
    | some (.error _) => true
    | none => rrpRoom s && !readsOf s p && decide (s.rrp.reads.length < 64)

/-- CFG.priority. -/
def pairPrio (s : State) (p : Nat) : Nat := f (pairCfg s p) 29 26

/-- The better of two ready pairs: higher priority, then the first after the pair last served. -/
def pairBefore (s : State) (a b : Nat) : Bool :=
  let d := fun (p : Nat) => (p + 64 - (s.lastPair + 1) % 64) % 64
  decide (pairPrio s b < pairPrio s a) || (pairPrio s a == pairPrio s b && decide (d a ≤ d b))

/-- So many pairs have waited so long that one of them must be served now if none is to wait more than 64 fetches. -/
def pairsPressed (s : State) (ready : List Nat) : Bool :=
  (List.range 64).any fun k => decide (k < (ready.filter fun p => decide (64 ≤ (pairGet s p).passed + k)).length)

/-- The pair to fetch from: where pairs press, the one that has waited longest, else the best. -/
def pickPair (s : State) (ready : List Nat) : Option Nat :=
  let older := fun (a b : Nat) => decide ((pairGet s b).passed < (pairGet s a).passed)
  match ready with
  | [] => none
  | p :: ps => some (if pairsPressed s ready then
      ps.foldl (fun a b => if older b a || (!older a b && !pairBefore s a b) then b else a) p
    else ps.foldl (fun a b => if pairBefore s a b then a else b) p)

/-- Waiting pairs count a fetch by another pair of their own or a higher priority; a pair's count ends where a descriptor of it is
taken (`taken`) and where it has posted none. -/
def notePassed (s : State) (p : Nat) (taken : Bool) (ready : List Nat) : State :=
  { s with lastPair := p, pairs := s.pairs.map fun e =>
    if (e.1 = p ∧ taken) ∨ !posted s e.1 then (e.1, { e.2 with passed := 0 })
    else if e.1 ≠ p ∧ ready.contains e.1 ∧ pairPrio s e.1 ≤ pairPrio s p then (e.1, { e.2 with passed := e.2.passed + 1 })
    else e }

/-! ### The start of a descriptor -/

/-- The subcode that a descriptor's stream gives it (R293, R294, R297), none where it starts. -/
def streamErr (s : State) (p : Nat) (d : List Byte) : Option Nat :=
  let op := leAt d 0 1
  let n := leAt d 2 1
  let x := streamGet s n
  let named := op == 0x02 || op == 0x09 || op == 0x0B || op == 0x0C || (op == 0x08 && leAt d 8 1 == 1)
  if n = 0 ∨ op = 0x03 then none
  else if x.state = .free then (if named then some 0x0E else none)
  else if op ≠ 0x0C ∧ x.home ≠ p then some 0x0C
  else if op = 0x01 ∧ x.cls = .lineLocked then some 0x0B
  else none

/-- A completion of a descriptor that holds no slot and starts no work. -/
def completeNow (s : State) (p : Nat) (d : List Byte) (status detail : Nat) : State :=
  deliver s p ⟨none, leAt d 4 4, status, leAt d 0 1, leAt d 2 1 % 128, false, none, detail, bitOf (leAt d 1 1) 0⟩

/-- A work for a descriptor that starts. -/
def startWork (s : State) (p i : Nat) (d : List Byte) : State :=
  let wid := s.nextWid
  let w : Work := { pair := some p, index := i, desc := d, stream := leAt d 2 1, slot := none, phase := .fetched, op := none,
                    status := 0, detail := 0, aux := 0, cancelled := false, targets := [], posted := [], buf := [] }
  let s := { s with nextWid := wid + 1 }
  if opcodeSlot (leAt d 0 1) then
    match takeSlot s wid with
    | some (k, s) => workPut s wid { w with slot := some k }
    | none => s
  else workPut s wid w

/-- A fetched descriptor: cancelled, refused or started. -/
def takeDesc (s : State) (p i : Nat) (d : List Byte) : State :=
  let x := pairGet s p
  let s := pairPut s p { x with fetch := (i + 1) % 2 ^ 32, cancels := x.cancels.filter (· != i), fetched := tdel x.fetched i }
  if x.cancels.contains i then completeNow s p d 3 0
  else match (descErr d (pairRemote s p)).or (streamErr s p d) with
    | some c => completeNow s p d 5 c
    | none => startWork s p i d

/-- Ask the host for the posted descriptors of a remote pair, at most 16 and not across the wrap. -/
def askDescs (s : State) (p : Nat) : State :=
  let x := pairGet s p
  let size := 2 ^ sqLog2 s p
  let slot := x.fetch % size
  let n := min (min ((x.sqDb + 2 ^ 32 - x.fetch) % 2 ^ 32) (size - slot)) 16
  hostReads s 0 p [(reg64 s (0x5001000 + p * 0x40) + slot * 64, n * 64)]

/-- The data of a descriptor read (R312): each descriptor under its ring index. -/
def descData (s : State) (p a : Nat) (data : List Byte) : State :=
  let x := pairGet s p
  let size := 2 ^ sqLog2 s p
  let slot := (a - reg64 s (0x5001000 + p * 0x40)) / 64
  let first := x.fetch + (slot + size - x.fetch % size) % size
  let got := (List.range (data.length / 64)).foldl (fun t k => tset t ((first + k) % 2 ^ 32) (slice data (64 * k) 64))
    x.fetched
  pairPut s p { x with fetched := got }

/-- DESCRIPTOR_FETCH: R284, R286 to R294, R297. -/
def execDescriptorFetch (s : State) : Host.Outcome State Fault Refusal :=
  let ready := (s.pairs.map (·.1)).filter (pairReady s)
  match pickPair s ready with
  | none => .next s
  | some p =>
    let i := (pairGet s p).fetch
    let next := peekDesc s p i
    let t := notePassed s p next.isSome ready
    let t := if pairRemote s p then t
      else ddrTouch t [(reg64 s (0x5001000 + p * 0x40) + i % 2 ^ sqLog2 s p * 64, 64)]
    match next with
    | none => .next (askDescs t p)
    | some (.ok d) => .next (takeDesc t p i d)
    | some (.error m) =>
      let x := pairGet t p
      let t := pairPut (noteStop t 0 m) p { x with fetch := (i + 1) % 2 ^ 32, cancels := x.cancels.filter (· != i) }
      .next (completeNow t p (List.replicate 64 0) 5 0x08)

/-- NOP: R290. -/
def execNop (wid : Nat) (s : State) : Host.Outcome State Fault Refusal :=
  match startedAs s wid 0x00 with
  | some _ => .next (complete s wid 0 0)
  | none => .next s

/-- RESULT_RING: R294, R300. Records still held move to the new ring. -/
def execResultRing (wid : Nat) (s : State) : Host.Outcome State Fault Refusal :=
  match startedAs s wid 0x0C with
  | none => .next s
  | some w =>
    let x := streamGet s w.stream
    if x.state = .free then .next (completeErr s wid 0x0E) else
    let held := match x.ring with | some r => r.staging | none => []
    let r : ResRing := { base := leAt w.desc 8 8, log2 := leAt w.desc 16 1, tail := 0, cons := 0, staging := held }
    .next (complete (streamPut s w.stream { x with ring := some r, home := w.pair.getD x.home }) wid 0 0)

/-! ### What waits -/

/-- COMPLETION_WRITE: the oldest completion, or with none the oldest event, that waits for a slot of the pair (R285,
R299). -/
def execCompletionWrite (p : Nat) (s : State) : Host.Outcome State Fault Refusal :=
  let x := pairGet s p
  if !cqRoom s p then .next s else
  match x.wait, x.events with
  | c :: rest, _ =>
    match tryWrite (pairPut s p { x with wait := rest }) p c with
    | .ok s => .next s
    | .error t =>
      let t := pairPut t p { pairGet t p with wait := c :: rest }
      .next (if x.stopped then t else stopPair t p)
  | [], c :: rest =>
    match tryWrite (pairPut s p { x with events := rest }) p c with
    | .ok s => .next s
    | .error t =>
      let t := pairPut t p { pairGet t p with events := c :: rest }
      .next (if x.stopped then t else stopPair t p)
  | [], [] => .next s

/-- RESULT_RECORD_WRITE: the oldest record that waits in a stream's staging (R300, R301). -/
def execResultRecordWrite (n : Nat) (s : State) : Host.Outcome State Fault Refusal :=
  match (streamGet s n).ring with
  | none => .next s
  | some r => match r.staging with
    | [] => .next s
    | b :: rest => match tryRecord s n b with
      | .error t => .next t
      | .ok s =>
        let x := streamGet s n
        match x.ring with
        | some q => .next (streamPut s n { x with ring := some { q with staging := rest },
                                                  stalled := x.stalled && decide (stagingSize x ≤ rest.length) })
        | none => .next s

/-- COALESCE_TIMER: R308. -/
def execCoalesceTimer (p : Nat) (s : State) : Host.Outcome State Fault Refusal :=
  let x := pairGet s p
  match x.timer with
  | some t => if t ≤ s.elapsed then .next (notifyNow (pairPut s p { x with timer := none }) p) else .next s
  | none => .next s

end Sys2Proof.Machine
end

