-- ==== Sys2Proof/Machine/Security.lean ====
section
/-! DEFINITION. Security requests (15 R484 to R487), the attestation report (15 R488), sealed blobs and CAKs (15 R491,
R492), MKA's turn to the secondary slot and the rotation of SAKs (15 R491), and the debug unlock (15 R494). Signatures,
ciphertexts, tags and random bytes are free values; the verdicts of published algorithms come with the rows. -/
namespace Sys2Proof.Machine

/-! ### Requests (R484 to R487) -/

/-- The fields of a security request. -/
structure SecReq where
  input : Nat
  output : Nat
  inLen : Nat
  outLen : Nat
  result : Nat
  sub : Nat
deriving DecidableEq, Repr

def decSec (d : List Byte) : SecReq := ⟨leAt d 8 8, leAt d 16 8, leAt d 24 4, leAt d 28 4, leAt d 32 8, leAt d 40 1⟩

/-- Bytes of the signature of ML-DSA-87. -/
def sigBytes : Nat := 4627

/-- R485: least and largest input length, and the output's bytes, by opcode and sub. -/
def secSizes (op : Nat) (r : SecReq) : Nat × Nat × Nat :=
  match op with
  | 0x20 => (64, 64, 5139)
  | 0x21 => (64, 64, sigBytes)
  | 0x22 => (1, 2 ^ 30, 64)
  | 0x23 => (7481, 7480 + 65536, 0)
  | 0x24 => (1, 64, 128)
  | 0x25 => if bitOf r.sub 0 then (192, 192, 0) else (96, 96, 0)
  | 0x26 => (0, 0, max 1 r.outLen)
  | _ => (0, 0, if r.sub = 0 then 8723 else 7795)

/-- R485: the legal values of sub. -/
def subOk (op sub : Nat) : Bool :=
  if op = 0x24 then decide (1 ≤ sub) else if op = 0x25 then decide (sub < 8) else if op = 0x27 then decide (sub ≤ 1)
  else sub == 0

/-- A request breaks R484 or R485. -/
def secBad (op : Nat) (r : SecReq) : Bool :=
  let z := secSizes op r
  !subOk op r.sub || decide (r.inLen < z.1 ∨ z.2.1 < r.inLen) || decide (r.outLen < z.2.2) ||
    (z.2.1 == 0 && r.input != 0) || (z.2.2 == 0 && r.output != 0) || (op == 0x26 && decide (4096 < r.outLen))

/-- The request is the oldest one that waits: the engine serves one at a time (R487). -/
def secTurn (s : State) (wid : Nat) : Bool :=
  s.works.all fun e => decide (wid ≤ e.1) || !(e.2.pair.isSome && decide (0x20 ≤ leAt e.2.desc 0 1) && e.2.phase == .fetched)

/-- The output, the result word and the completion, in this order (R486). -/
def secDone (s : State) (wid : Nat) (r : SecReq) (outcome : Nat) (out : List Byte) : State :=
  match devWrite s (writeBy 0 wid) r.output out with
  | .error m => complete (noteStop s 0 m) wid 4 (m.cause + 2 ^ 8 * m.win)
  | .ok s => match devWrite s (writeBy 0 wid) r.result (leBytes 1 outcome ++ leBytes 3 0 ++ leBytes 4 out.length ++ leBytes 8 0) with
    | .error m => complete (noteStop s 0 m) wid 4 (m.cause + 2 ^ 8 * m.win)
    | .ok s => complete (bump s 0xE000074) wid 0 0

/-- A request whose turn it is: its work, fields and input; a request that breaks its rules has completed. -/
def secStart (s : State) (wid op : Nat) : Except State (Work × SecReq × List Byte) :=
  match startedAs s wid op with
  | none => .error s
  | some w =>
    let r := decSec w.desc
    if !secTurn s wid then .error s
    else if secBad op r then .error (completeErr s wid 0x01)
    else match devRead s (readBy 0 wid) r.input r.inLen with
      | .error (.uncorrectable u n) => .error (complete s wid 4 ((MemStop.uncorrectable u n).cause + 2 ^ 8 * n))
      | .error m => .error (completeErr (noteStop s 0 m) wid 0x08)
      | .ok b => .ok (w, r, b)

/-! ### The report (R488) -/

/-- SHA3-512 of a byte string that is there, else 64 zero bytes. -/
def digestOf (b : Option (List Byte)) : List Byte := match b with | some b => sha3 b | none => List.replicate 64 0

/-- The time base is disciplined: in mode 1 with locked set, or in mode 2 (R483). -/
def disciplined (s : State) : Bool :=
  let mode := f (regGet s 0xC000810) 31 30
  (mode == 1 && bitOf (regGet s 0xC000814) 29) || mode == 2

/-- The byte 404. -/
def ownerBits (s : State) : Nat :=
  let o := s.sec.owner
  b2n o.isSome + 2 * b2n (match o with | some o => o.requireOwner | none => false) +
    4 * b2n (bitOf (regGet s 0xC004000) 30) + 8 * b2n (disciplined s) + 16 * b2n s.sec.debug

/-- Bytes 0 to 511 of the report. -/
def reportBody (s : State) (nonce : List Byte) : List Byte :=
  let hdr := fun (i : Option Image) (at_ : Nat) => match i with | some i => leAt i.header at_ 4 | none => 0
  let d := idDigest s
  leBytes 4 1 ++ leBytes 4 5139 ++ d.take 8 ++ d ++ nonce ++ leBytes 8 s.time ++ leBytes 32 s.sec.bootId ++
    leBytes 4 s.sec.resets ++ leBytes 4 (hdr s.sec.mgmt 8) ++ leBytes 4 (hdr s.sec.mgmt 4) ++ leBytes 4 (hdr s.sec.pod 8) ++
    leBytes 4 (hdr s.sec.pod 4) ++ leBytes 2 (regGet s 0x1001000) ++ leBytes 1 (regGet s 0x4) ++
    leBytes 1 (f (regGet s 0x0) 31 24) ++ digestOf (s.sec.mgmt.map (·.header)) ++ digestOf (s.sec.pod.map (·.header)) ++
    digestOf (s.sec.owner.map (·.key)) ++ leBytes 4 (match s.sec.owner with | some o => o.number | none => 0) ++
    leBytes 1 (ownerBits s) ++ leBytes 1 s.pods.good.length ++ leBytes 1 s.pods.lmap.length ++
    leBytes 1 s.pods.spares.length ++ leBytes 1 (f (regGet s 0xB8) 31 24) ++ leBytes 3 0 ++ leBytes 4 s.rrp.session ++
    leBytes 96 0

/-- ATTEST: R485, R488. -/
def execAttest (wid : Nat) (s : State) : Host.Outcome State Fault Refusal :=
  match secStart s wid 0x20 with
  | .error s => .next s
  | .ok (_, r, b) =>
    let sig := freeBytes s sigBytes
    .next (secDone sig.2 wid r 0 (reportBody s b ++ sig.1))

/-- SIGN: R485, R472. -/
def execSign (wid : Nat) (s : State) : Host.Outcome State Fault Refusal :=
  match secStart s wid 0x21 with
  | .error s => .next s
  | .ok (_, r, _) =>
    let sig := freeBytes s sigBytes
    .next (secDone sig.2 wid r 0 sig.1)

/-- HASH: R485, R472. -/
def execHash (wid : Nat) (s : State) : Host.Outcome State Fault Refusal :=
  match secStart s wid 0x22 with
  | .error s => .next s
  | .ok (_, r, b) => .next (secDone s wid r 0 (sha3 b))

/-- VERIFY: R485, R486. -/
def execVerify (wid : Nat) (valid : Bool) (s : State) : Host.Outcome State Fault Refusal :=
  match secStart s wid 0x23 with
  | .error s => .next s
  | .ok (_, r, _) => .next (secDone s wid r (if valid then 0 else 1) [])

/-- SEAL: R485, R492. -/
def execSeal (wid : Nat) (s : State) : Host.Outcome State Fault Refusal :=
  match secStart s wid 0x24 with
  | .error s => .next s
  | .ok (_, r, b) =>
    let x := freeBytes s 92
    .next (secDone x.2 wid r 0 (leBytes 4 1 ++ leBytes 1 r.sub ++ leBytes 1 b.length ++ leBytes 10 0 ++ x.1 ++ leBytes 20 0))

/-- Log 0x0607. -/
def logCak (s : State) (port : Nat) (refused : Bool) : State := logSec s 0x0607 (port + 2 ^ 8 * b2n refused)

/-- Install a CAK into a slot of a port (R491). -/
def putCak (s : State) (k : Cak) : State :=
  let others := s.sec.caks.filter fun c => !(c.port == k.port && c.slot == k.slot)
  logCak { s with sec := { s.sec with caks := others ++ [k] } } k.port false

/-- A port's slot holds a CAK. -/
def hasCak (s : State) (port slot : Nat) : Bool := s.sec.caks.any fun c => c.port == port && c.slot == slot

/-- MACSEC_CAK: R485, R486, R491, R492; `opened` is the blob's key where its tag verifies under the owner in force. -/
def execMacsecCak (wid : Nat) (opened : Option (List Byte)) (s : State) : Host.Outcome State Fault Refusal :=
  match secStart s wid 0x25 with
  | .error s => .next s
  | .ok (w, r, b) =>
    let port := b2n (bitOf r.sub 1)
    let slot := b2n (bitOf r.sub 2)
    let n := leAt b 0 1
    let put := fun (cak : List Byte) => secDone (putCak s ⟨port, slot, slice b 1 n, cak⟩) wid r 0 []
    if n < 1 ∨ 32 < n then .next (completeErr s wid 0x01)
    else if !bitOf r.sub 0 then
      if (match w.pair with | some p => pairRemote s p | none => false) then .next (secDone (logCak s port true) wid r 3 [])
      else .next (put (slice b 64 32))
    else
      let bad := secDone (logSec s 0x0608 (leAt b 68 1)) wid r 2 []
      match opened with
      | some k =>
        if leAt b 64 4 = 1 ∧ leAt b 68 1 = 1 ∧ leAt b 69 1 = 32 then .next (put ((k ++ List.replicate 32 0).take 32)) else .next bad
      | none => .next bad

/-- RANDOM: R485, R472. -/
def execRandom (wid : Nat) (s : State) : Host.Outcome State Fault Refusal :=
  match secStart s wid 0x26 with
  | .error s => .next s
  | .ok (_, r, _) =>
    let x := freeBytes s r.outLen
    .next (secDone x.2 wid r 0 x.1)

/-- READ_CERT: R485, R486. -/
def execReadCert (wid : Nat) (s : State) : Host.Outcome State Fault Refusal :=
  match secStart s wid 0x27 with
  | .error s => .next s
  | .ok (_, r, _) =>
    if r.sub = 0 then .next (secDone s wid r 0 (s.boot.nor.bytes.take 8723))
    else match s.sec.owner with
      | some o => .next (secDone s wid r 0 o.cert)
      | none => .next (secDone s wid r 4 [])

/-! ### MKA (R491) -/

/-- MKA_FAILOVER: the primary slot has had no live peer for 6 s, and the secondary slot holds a CAK. -/
def execMkaFailover (q : Nat) (s : State) : Host.Outcome State Fault Refusal :=
  if hasCak s q 0 && hasCak s q 1 && !s.sec.secondary.getD q true then
    .next { s with sec := { s.sec with secondary := modAt s.sec.secondary q fun _ => true,
                                       live := modAt s.sec.live q fun _ => false } }
  else .next s

/-- SAK_ROTATE: R491, for a port whose slot in use holds a CAK. -/
def execSakRotate (q : Nat) (s : State) : Host.Outcome State Fault Refusal :=
  if hasCak s q (b2n (s.sec.secondary.getD q false)) then
    .next { s with sec := { s.sec with rotations := modAt s.sec.rotations q fun n => min (n + 1) 0xFFFF } }
  else .next s

/-- SEC.MKA_q (R495). -/
def mkaWord (s : State) (q : Nat) : Nat :=
  2 ^ 31 * b2n (hasCak s q 0) + 2 ^ 30 * b2n (hasCak s q 1) + 2 ^ 29 * b2n (s.sec.live.getD q false) +
    2 ^ 28 * b2n (s.sec.secondary.getD q false) + s.sec.rotations.getD q 0

/-! ### Debug (R494) -/

/-- DEBUG_UNLOCK: R494. The token covers the device identifier and boot_id, which exist once the device key does. -/
def execDebugUnlock (valid : Bool) (s : State) : Host.Outcome State Fault Refusal :=
  if valid && s.sec.keyReady && !s.sec.debug then
    .next (logSec { s with sec := { s.sec with debug := true } } 0x0606 0)
  else .next s

/-! ### Registers of the SEC block (R495) -/

/-- SEC.STATUS. -/
def secStatus (s : State) : Nat :=
  let o := s.sec.owner
  let waiting := (s.works.filter fun e => e.2.pair.isSome && decide (0x20 ≤ leAt e.2.desc 0 1) && e.2.phase == .fetched).length
  2 ^ 31 * b2n s.sec.keyReady + 2 ^ 30 * b2n o.isSome +
    2 ^ 29 * b2n (match o with | some o => o.requireOwner | none => false) + 2 ^ 28 * b2n s.sec.debug +
    2 ^ 8 * min waiting 255

/-- A read of a SEC register that is no counter, by its offset. -/
def secRead (s : State) (off : Nat) : Nat :=
  let ver := fun (i : Option Image) => match i with | some i => leAt i.header 8 4 | none => 0
  if off = 0 then secStatus s
  else if off = 4 then (match s.sec.owner with | some o => o.number | none => 0)
  else if off < 0x50 then leAt (digestOf' s) (off - 0x10) 4
  else if off < 0x58 then (if s.sec.keyReady then leAt (idDigest s) (off - 0x50) 4 else 0)
  else if off = 0x58 then ver s.sec.mgmt
  else if off = 0x5C then ver s.sec.pod
  else if off < 0x68 then mkaWord s ((off - 0x60) / 4)
  else
    let k := off - 0x1000
    leAt ((s.boot.nor.bytes.take 8723) ++ List.replicate (8724 - min s.boot.nor.bytes.length 8723) 0xFF) k 4
where
  /-- The digest of the owner's key, 0 while unowned. -/
  digestOf' (s : State) : List Byte := digestOf (s.sec.owner.map (·.key))

end Sys2Proof.Machine
end

