-- ==== Sys2Proof/Machine/Ethernet.lean ====
section
/-! DEFINITION. The Ethernet ports: the time base and its sources (12 R410, R411, 07 R231), gate control lists (12 R412),
frames as they arrive (12 R409, R412, R413), and RRP datagrams: the sequence rule and OPEN fragments (09 R309 to R314, 15
R481). -/
namespace Sys2Proof.Machine

/-! ### Ports -/

/-- ETH.PORT_q.CFG. -/
def ethCfg (s : State) (q : Nat) : Nat := regGet s (0xC000000 + q * 0x100)

def ethEnabled (s : State) (q : Nat) : Bool := bitOf (ethCfg s q) 31

/-- The port runs and its link is up. -/
def ethUp (s : State) (q : Nat) : Bool :=
  decide (q < 2) && powered s 2 && ethEnabled s q && bitOf (regGet s (0xC00000C + q * 0x100)) 31

/-! ### The time base (R410) -/

/-- Step the time base to a later time, and log it. -/
def stepTime (s : State) (t : Nat) : State :=
  logAdd2 { s with time := t, eth := { s.eth with slew := 0 } } 0x0107 12 1 0 (low ((t : Int) - s.time) 64) 0

/-- Correct the phase towards a source's time: at once where no line-locked stream is admitted and the error exceeds
1 ms, else by slewing; a correction backwards is always slewed, because the time base never decreases (log entry 47). -/
def correctTime (s : State) (source : Int) : State :=
  let e := source - s.time
  if !lineLockedAdmitted s && decide (1000000 < e) then stepTime s source.toNat
  else { s with eth := { s.eth with slew := e } }

/-- ETH.GPTP_CFG.mode. -/
def timeMode (s : State) : Nat := f (regGet s 0xC000810) 31 30

/-- A write of TIME_SET that takes effect: set at once in mode 0, at the next PPS edge in mode 2. -/
def setTime (s : State) (t : Nat) : State :=
  if timeMode s = 2 then { s with eth := { s.eth with setAtPps := some t } }
  else if s.time ≤ t then stepTime s t
  else { s with eth := { s.eth with slew := (t : Int) - s.time } }

/-- A write of TIME_SET takes effect now. -/
def timeSettable (s : State) : Bool := timeMode s != 1 && !lineLockedAdmitted s

/-- The whole second nearest to a time. -/
def nearestSecond (t : Nat) : Nat := (t + 500000000) / 1000000000 * 1000000000

/-- PPS_EDGE: 07 R231, R410, R411. -/
def execPpsEdge (s : State) : Host.Outcome State Fault Refusal :=
  if !timeRunning s then .next s else
  let s := regPut64 s 0x7000050 s.time
  if timeMode s ≠ 2 then .next s else
  match s.eth.setAtPps with
  | some t =>
    let s := { s with eth := { s.eth with setAtPps := none } }
    if !lineLockedAdmitted s && decide (s.time ≤ t) then .next (stepTime s t)
    else .next { s with eth := { s.eth with slew := (t : Int) - s.time } }
  | none => .next (correctTime s (nearestSecond s.time : Nat))

/-- ETH.GPTP_STATUS. -/
def setGptp (s : State) (role : Nat) (locked : Bool) (port : Nat) : State :=
  regPut s 0xC000814 (2 ^ 30 * role + 2 ^ 29 * b2n locked + 2 ^ 28 * port)

/-- The port can carry gPTP now. -/
def gptpPort (s : State) (q : Nat) : Bool := ethUp s q && bitOf (ethCfg s q) 29

/-- GPTP_MESSAGE: R411, with the outcome of the algorithms of the standard: the port's role, whether the follower is
locked, and the offset of the time base from its source. -/
def execGptpMessage (g : GptpIn) (s : State) : Host.Outcome State Fault Refusal :=
  let mode := timeMode s
  let may := g.role != 2 || bitOf (regGet s 0xC000810) 29
  if !gptpPort s g.port || mode == 0 || (mode == 2 && g.role == 1) || !may then .next s
  else if g.role = 1 then
    let s := setGptp { s with eth := { s.eth with follower := some g.port } } 1 g.locked g.port
    .next (correctTime (regPut s 0xC000818 (low (satS 32 g.offset).1 32)) ((s.time : Int) - g.offset))
  else .next (setGptp { s with eth := { s.eth with follower := none } } g.role g.locked g.port)

/-- SYNC_TIMEOUT: R411: the follower's port has missed three sync intervals. -/
def execSyncTimeout (s : State) : Host.Outcome State Fault Refusal :=
  match s.eth.follower with
  | some q =>
    let other := 1 - q
    if gptpPort s other then
      .next (regSetF { s with eth := { s.eth with follower := some other } } 0xC000814 28 28 other)
    else .next (regPut { s with eth := { s.eth with follower := none } } 0xC000814 0)
  | none => .next s

/-! ### Gate control lists (R412) -/

/-- The list that the registers of a port hold, as (gates open, interval). -/
def gateRegs (s : State) (q : Nat) : List (Nat × Nat) :=
  let c := regGet s (0xC000018 + q * 0x100)
  if !bitOf c 31 then [] else
  (List.range (f c 8 0)).map fun e =>
    (regGet s (0xC001000 + q * 0x800 + e * 8), regGet s (0xC001004 + q * 0x800 + e * 8))

/-- A write of QBV_CTRL: its list waits for the next cycle start. -/
def qbvWrite (s : State) (q v : Nat) : State :=
  let s := regPut s (0xC000018 + q * 0x100) v
  { s with eth := { s.eth with newList := modAt s.eth.newList q fun _ => true } }

/-- QBV_CYCLE_START: R412. -/
def execQbvCycleStart (q : Nat) (s : State) : Host.Outcome State Fault Refusal :=
  if !ethEnabled s q || !s.eth.newList.getD q false || decide (s.time < reg64 s (0xC000020 + q * 0x100)) then .next s else
  let l := gateRegs s q
  .next { s with eth := { s.eth with gateLists := modAt s.eth.gateLists q fun _ => l,
                                     newList := modAt s.eth.newList q fun _ => false } }

/-! ### RRP: the sequence rule (09 R313) -/

/-- ETH.RRP_CFG. -/
def rrpCfg (s : State) : Nat := regGet s 0xC004000

/-- Send the current ack. -/
def sendAck (s : State) : State := { s with out := .rrpAck s.rrp.rxSeq :: s.out }

/-- Messages that the window of 256 lets go now count as sent now. -/
def windowSent (now released : Nat) (l : List RrpMsg) : List RrpMsg :=
  l.zipIdx.map fun m => if m.2 < 256 ∧ 256 ≤ m.2 + released then { m.1 with sent := now } else m.1

/-- An acknowledgment: the messages before it are released, and a lost session returns to open. -/
def rrpTakeAck (s : State) (a : Nat) : State :=
  let r := s.rrp
  let left := r.unacked.filter fun m => serialGe 32 m.seq a
  let k := r.unacked.length - left.length
  if !serialGe 32 r.txSeq a || k == 0 then s else
  let t := { s with rrp := { r with unacked := windowSent s.elapsed k left, state := 1 } }
  if r.state = 2 then logAdd t 0x0215 12 1 0 else t

/-- The peer registers: four address words, and the port. -/
def rrpPeer (s : State) : List Nat × Nat :=
  ((List.range 4).map fun k => regGet s (0xC004010 + 4 * k), f (regGet s 0xC004004) 15 0)

/-- Datagrams of this source are accepted (09 R309). -/
def rrpFrom (s : State) (addr : List Nat) (port : Nat) : Bool := rrpPeer s == (addr, port)

/-- RRP runs, and a frame with this protection may carry it (09 R309). -/
def rrpOpenTo (s : State) (secured : Bool) : Bool := bitOf (rrpCfg s) 31 && (secured || !bitOf (rrpCfg s) 30)

/-- A message of the session, from the peer: its ack counts. -/
def rrpHeard (s : State) (h : RrpHdr) : Option State :=
  if s.rrp.state ≠ 0 ∧ h.session = s.rrp.session ∧ rrpOpenTo s h.secured = true ∧ rrpFrom s h.src h.srcPort = true then
    some (rrpTakeAck s h.ack)
  else none

/-- The message whose seq is expected is taken; one behind is answered with the current ack, one ahead is dropped. -/
def rrpAccept (s : State) (h : RrpHdr) : Except State State :=
  match rrpHeard s h with
  | none => .error s
  | some s =>
    let r := s.rrp
    if h.seq = r.rxSeq then .ok (sendAck { s with rrp := { r with rxSeq := (r.rxSeq + 1) % 2 ^ 32 } })
    else if serialGe 32 h.seq r.rxSeq then .error s
    else .error (sendAck s)

/-- ERROR with a code (09 R312). -/
def rrpError (s : State) (seq code : Nat) : State := rrpSend s 0x0D (leBytes 4 seq ++ leBytes 1 code)

/-! ### RRP: OPEN fragments (15 R481) -/

/-- The peer registers are all 0, or hold a peer that an OPEN bound (09 R310). -/
def rrpUnbound (s : State) : Bool := s.rrp.bound || rrpPeer s == ([0, 0, 0, 0], 0)

/-- Fragments of a session are forgotten. -/
def dropFrags (s : State) : State :=
  { s with rrp := { s.rrp with fragSession := 0, fragCount := 0, frags := [], fragTime := 0 } }

/-- Some fragments of a session have come, and not all. -/
def fragsPartial (s : State) : Bool := s.rrp.fragCount != 0 && decide (s.rrp.frags.length < s.rrp.fragCount)

/-- Every fragment has come. -/
def fragsWhole (s : State) : Bool := s.rrp.fragCount != 0 && s.rrp.frags.length == s.rrp.fragCount

/-- An OPEN fragment is legal: its session, index, count and data length. -/
def fragOk (h : RrpHdr) (b : List Byte) : Bool :=
  h.session != 0 && leAt b 0 4 == h.session && decide (1 ≤ leAt b 5 1 ∧ leAt b 5 1 ≤ 5 ∧ leAt b 4 1 < leAt b 5 1) &&
    h.seq == leAt b 4 1 && decide (1 ≤ leAt b 6 2 ∧ leAt b 6 2 ≤ 1032) && b.length == 8 + leAt b 6 2

/-- A fragment of an OPEN. The last one of the current session is answered with OPEN_OK again (09 R314); one of a new
session is taken in its order, and a first fragment starts over. -/
def openFragment (s : State) (h : RrpHdr) (b : List Byte) : State :=
  if !fragOk h b then s else
  let i := leAt b 4 1
  let n := leAt b 5 1
  if s.rrp.state ≠ 0 ∧ h.session = s.rrp.session then
    if i + 1 = n then rrpSend s 0x02 (leBytes 4 h.session) else s
  else
    let s := if fragsPartial s && decide (100000000 ≤ s.elapsed - s.rrp.fragTime) then dropFrags s else s
    let r := s.rrp
    let mine := r.fragCount == n && r.fragSession == h.session && r.srcAddr == h.src && r.srcPort == h.srcPort
    let take := fun (r : Rrp) => { s with rrp := { r with frags := tset r.frags i (b.drop 8) }, out := .rrpAck (i + 1) :: s.out }
    if mine && i == r.frags.length then take r
    else if mine && decide (i < r.frags.length) then { s with out := .rrpAck r.frags.length :: s.out }
    else if i = 0 then
      take { r with fragSession := h.session, fragCount := n, frags := [], fragTime := s.elapsed, srcAddr := h.src,
                    srcPort := h.srcPort }
    else s

/-- OPEN_FRAGMENT_TIMEOUT: 15 R481. -/
def execOpenFragmentTimeout (s : State) : Host.Outcome State Fault Refusal :=
  if fragsPartial s && decide (100000000 ≤ s.elapsed - s.rrp.fragTime) then .next (dropFrags s) else .next s

/-! ### Frames (R409, R412, R413) -/

/-- A frame that a port drops and counts (R409). -/
def rxDrop (s : State) (q : Nat) : State := bump s (0xC000010 + q * 0x100)

/-- The payload length that a message of a type which a host sends must have, given the payload (09 R312). -/
def msgLen (type : Nat) (b : List Byte) : Option Nat :=
  match type with
  | 0x01 => some (8 + leAt b 6 2)
  | 0x03 => some 8
  | 0x05 => some (8 + leAt b 2 2)
  | 0x07 => some 0
  | 0x08 => some 8
  | 0x09 => some 12
  | 0x0E => some 0
  | _ => none

/-- The header of a datagram is well formed, and it brings a message that a host sends (09 R311, R312); RSV bytes are ignored (00
R516). -/
def msgOk (d : List Byte) : Bool :=
  let b := d.drop 24
  leAt d 1 1 == 1 && leAt d 16 2 == b.length && decide (b.length ≤ 1040) && msgLen (leAt d 0 1) b == some b.length

/-- The header fields of a datagram (09 R311). -/
def msgHdr (addr : List Nat) (port : Nat) (secured : Bool) (d : List Byte) : RrpHdr :=
  ⟨addr, port, secured, leAt d 4 4, leAt d 8 4, leAt d 12 4⟩

/-- An RRP datagram on a port. OPEN fragments are gathered and malformed messages answered here; every other message
acts at its own row (log entry 34). A datagram too short for a header is dropped. -/
def rrpDatagram (s : State) (q : Nat) (secured : Bool) (addr : List Nat) (port dst : Nat) (d : List Byte) : State :=
  let h := msgHdr addr port secured d
  if !bitOf (rrpCfg s) 31 || dst != f (rrpCfg s) 15 0 then rxDrop s q
  else if !rrpOpenTo s secured || decide (d.length < 24) then s
  else if msgOk d && leAt d 0 1 == 1 then
    if rrpUnbound s || rrpFrom s addr port then openFragment s h (d.drop 24) else s
  else if msgOk d then s
  else match rrpAccept s h with
    | .ok s => rrpError s h.seq 2
    | .error s => s

/-- A live peer of MKA on the slot in use (15 R491). -/
def mkaPeer (s : State) (q : Nat) : State :=
  if hasCak s q (b2n (s.sec.secondary.getD q false)) then
    { s with sec := { s.sec with live := modAt s.sec.live q fun _ => true } }
  else s

/-- MACsec drops the frame (R413). -/
def secDrops (s : State) (q : Nat) (fr : EthFrameIn) : Bool :=
  let free := match fr.proto with
    | .eapol => true
    | .gptp => bitOf (regGet s (0xC000030 + q * 0x100)) 29
    | _ => false
  bitOf (ethCfg s q) 30 && !(if fr.secured then fr.secOk else free)

/-- A port's IPv6 link-local address, formed from its MAC address by the modified EUI-64 method (13 R419). -/
def linkLocal (s : State) (q : Nat) : List Nat :=
  let lo := regGet s (0xC000004 + q * 0x100)
  let hi := f (regGet s (0xC000008 + q * 0x100)) 15 0
  [0xFE * 2 ^ 24 + f lo 23 0, (hi ^^^ 0x0200) * 2 ^ 16 + f lo 31 24 * 2 ^ 8 + 0xFF, 0, 0xFE800000]

/-- The IPv4 address, as the words of ETH.RRP_PEER_ADDR hold one (09 R310). -/
def ownIp4 (s : State) : List Nat := [regGet s 0xC000400, 0xFFFF, 0, 0]

/-- The IPv6 address. -/
def ownIp6 (s : State) : List Nat := (List.range 4).map fun k => regGet s (0xC000410 + 4 * k)

/-- An address is one of the port's IPv4 or IPv6 addresses: the link-local one, and those of the registers that are not 0 (09
R310). -/
def isIp4 (s : State) (a : List Nat) : Bool := regGet s 0xC000400 != 0 && a == ownIp4 s

def isIp6 (s : State) (q : Nat) (a : List Nat) : Bool :=
  a == linkLocal s q || (ownIp6 s != [0, 0, 0, 0] && a == ownIp6 s)

/-- The destination is the port's MAC address, or the multicast address that IEEE 802.1AS gives gPTP (PRESUMED, log entry 105). -/
def macOurs (s : State) (q dst : Nat) : Bool :=
  dst == regGet s (0xC000004 + q * 0x100) + 2 ^ 32 * f (regGet s (0xC000008 + q * 0x100)) 15 0 ||
    (bitOf (ethCfg s q) 29 && dst == 0x0180C200000E)

/-- The IP address of the frame is this port's, where its protocol has one. -/
def ipOurs (s : State) (q : Nat) (fr : EthFrameIn) : Bool :=
  match fr.proto with
  | .arp => isIp4 s fr.ip
  | .ndp => isIp6 s q fr.ip
  | .gptp => true
  | .eapol => true
  | _ => isIp4 s fr.ip || isIp6 s q fr.ip

/-- The frame is for this port, and of a protocol that ends in it (R408, R409, 09 R310). -/
def frameTaken (s : State) (q : Nat) (fr : EthFrameIn) : Bool :=
  macOurs s q fr.dst && ipOurs s q fr && match fr.proto with
    | .other => false
    | .ipFragment => false
    | .gptp => bitOf (ethCfg s q) 29
    | .posMsg dst _ => bitOf (regGet s 0x7000044) 16 && dst == f (regGet s 0x7000044) 15 0
    | _ => true

/-- Pass a frame to its protocol. gPTP's outcome comes with GPTP_MESSAGE. -/
def frameProto (s : State) (q : Nat) (fr : EthFrameIn) : State :=
  let reply := fun (k : Nat) => { s with out := .ethReply q k :: s.out }
  match fr.proto with
  | .rrp a p d b => rrpDatagram s q fr.secured a p d b
  | .posMsg _ b => positionMessage s b
  | .eapol => mkaPeer s q
  | .arp => reply 0
  | .ndp => reply 1
  | .icmpEcho => reply 2
  | _ => s

/-! ### Streams, gates and meters (R412, log entry 105) -/

/-- The UDP port that a frame is for. -/
def udpPort (fr : EthFrameIn) : Option Nat :=
  match fr.proto with
  | .rrp _ _ p _ => some p
  | .posMsg p _ => some p
  | _ => none

/-- Words of a key: a MAC address, and the UDP port in its low half. -/
def streamKey (s : State) (a : Nat) : Nat := regGet s (a + 4) + 2 ^ 32 * f (regGet s (a + 8)) 15 0

/-- The stream filter of a frame: the first whose key it has, a destination MAC address, or a UDP port where the key holds no more. -/
def filterOf (s : State) (fr : EthFrameIn) : Option Nat :=
  (List.range 64).find? fun i =>
    let a := 0xC002400 + 16 * i
    let k := streamKey s a
    bitOf (regGet s a) 31 && (if k < 65536 then udpPort fr == some k else k == fr.dst)

/-- The entry of a list in which a moment of its cycle lies; the last one lasts to the end of the cycle. -/
def gateAt : List (Bool × Nat) → Nat → Bool
  | [], _ => true
  | [e], _ => e.1
  | e :: l, t => if t < e.2 then e.1 else gateAt l (t - e.2)

/-- A stream gate is open: its cycles start at multiples of their length on the time base. -/
def gateOpen (s : State) (g : Nat) : Bool :=
  let a := 0xC002C00 + 128 * g
  let c := regGet s a
  !bitOf c 31 || gateAt ((List.range (f c 3 0 + 1)).map fun e =>
    (bitOf (regGet s (a + 0x40 + 8 * e)) 0, regGet s (a + 0x44 + 8 * e))) (s.time % regGet s (a + 4))

/-- A two-rate meter passes a frame while either of its buckets, which fill at CIR up to CBS and at EIR up to EBS, holds it. -/
def meterTake (s : State) (m size : Nat) : Bool × State :=
  let a := 0xC002800 + 16 * m
  let cap := fun (k : Nat) => regGet s (a + k) * 8000000
  let b := match tget s.eth.meters m with
    | some (c, e, t) => (min (cap 4) (c + regGet s a * (s.elapsed - t)), min (cap 12) (e + regGet s (a + 8) * (s.elapsed - t)))
    | none => (cap 4, cap 12)
  let n := size * 8000000
  let put := fun (c e : Nat) => { s with eth := { s.eth with meters := tset s.eth.meters m (c, e, s.elapsed) } }
  if n ≤ b.1 then (true, put (b.1 - n) b.2) else if n ≤ b.2 then (true, put b.1 (b.2 - n)) else (false, put b.1 b.2)

/-- What a stream filter does with a frame: its largest SDU, its gate and its meter. -/
def filterTake (s : State) (i : Nat) (fr : EthFrameIn) : Bool × State :=
  let c := regGet s (0xC002400 + 16 * i)
  let g := f c 30 24
  let m := f c 23 17
  if f c 15 0 < fr.size ∨ (g < 32 ∧ gateOpen s g = false) then (false, s)
  else if m < 32 then meterTake s m fr.size
  else (true, s)

/-- The receive stream of a frame: the first whose key and VLAN it has. -/
def frerOf (s : State) (fr : EthFrameIn) : Option Nat :=
  (List.range 32).find? fun i =>
    let a := 0xC002000 + 16 * i
    let c := regGet s a
    let k := streamKey s a
    bitOf c 31 && !bitOf c 30 && f c 23 12 == fr.vid && (if bitOf c 29 then udpPort fr == some (k % 65536) else k == fr.dst)

/-- The history after a shift of n places, and how many numbers left it unseen. -/
def shiftSeen (h : Nat) : Nat → Nat → Nat × Nat
  | 0, w => (w, 0)
  | n + 1, w => let r := shiftSeen h n (w * 2 % 2 ^ h); (r.1, r.2 + b2n (!bitOf w (h - 1)))

/-- Vector recovery: whether the frame goes on, whether it is a duplicate, and the frames found lost. -/
def recover (s : State) (i seq : Nat) : Bool × Bool × State :=
  let a := 0xC002000 + 16 * i
  let c := regGet s a
  let h := f c 28 24 + 1
  let put := fun (q w lost : Nat) =>
    let s := regSetF s (a + 12) 15 0 (min (f (regGet s (a + 12)) 15 0 + lost) 65535)
    { s with eth := { s.eth with frer := tset s.eth.frer i (q, w, s.elapsed) } }
  match tget s.eth.frer i with
  | some (q, w, t) =>
    let d := serialDiff 16 seq q
    if f c 9 0 * 1000000 ≤ s.elapsed - t then (true, false, put seq 1 0)
    else if (h : Int) ≤ d ∨ d ≤ -(h : Int) then (false, false, s)
    else if d ≤ 0 then
      if bitOf w (-d).toNat then (false, true, s) else (true, false, put q (w + 2 ^ (-d).toNat) 0)
    else
      let r := shiftSeen h d.toNat w
      (true, false, put seq (r.1 + 1) r.2)
  | none => (true, false, put seq 1 0)

/-- 802.1CB elimination: a frame of a receive stream that has gone before is dropped. -/
def eliminate (s : State) (fr : EthFrameIn) : Bool × State :=
  match frerOf s fr, fr.rtag with
  | some i, some n =>
    let r := recover s i (n % 65536)
    (r.1, if r.2.1 then bumpF r.2.2 (0xC00200C + 16 * i) 31 16 else r.2.2)
  | _, _ => (true, s)

/-- ETH_FRAME: R408, R409, R412, R413. -/
def execEthFrame (q : Nat) (fr : EthFrameIn) (s : State) : Host.Outcome State Fault Refusal :=
  if !ethUp s q then .next s
  else if secDrops s q fr then .next (bump s (0xC000014 + q * 0x100))
  else if !frameTaken s q fr then .next (rxDrop s q)
  else
    let go := fun (s : State) => let r := eliminate s fr; if r.1 then frameProto r.2 q fr else r.2
    match filterOf s fr with
    | none => .next (go s)
    | some i =>
      let r := filterTake s i fr
      .next (if r.1 then go r.2 else bump r.2 (0xC00240C + 16 * i))

end Sys2Proof.Machine
end

