-- ==== Sys2Proof/Machine/Idle.lean ====
section
/-! DEFINITION. What happens in a nanosecond in which no command arrives. -/
namespace Sys2Proof.Machine

/-- A nanosecond without a command: time passes, the means of the odometry are taken (07 R228), the displays send and
refill (11 R369), and the margins of the line-locked streams are seen (06 R220, R223); log entry 1. -/
def idle (s : State) : State :=
  let s := [0, 1].foldl scanTick (odoTick (tick s))
  (admittedIds s).foldl noteMargin s

end Sys2Proof.Machine
end

