-- ==== Sys2Proof/Machine/RegBus.lean ====
section
/-! DEFINITION. Reads and writes of the set-up registers: the rules of every register (00 R10 to R20), what each register's
own text adds, the value a register shows where its home is elsewhere in the state, and who may reach it (09 R310, 15
R480, R493, R494). -/
namespace Sys2Proof.Machine

/-! ### What registers show -/

/-- MGMT.STREAM_n, by offset (06 R224). -/
def streamReg (s : State) (a : Nat) : Nat :=
  let n := (a - 0x4000) / 0x40
  let off := (a - 0x4000) % 0x40
  let x := streamGet s n
  if off = 0 then
    2 ^ 28 * x.state.code + 2 ^ 20 * x.cause + 2 ^ 19 * b2n (x.cls == .deferrable) + 2 ^ 18 * b2n x.record
  else if off = 8 then marginOf s n % 65536
  else if 0x20 ≤ off then (x.pos.getD ((off - 0x20) / 4) 0).toNat
  else regGet s a

/-- The MGMT block (13 R443, 06 R224). -/
def mgmtReg (s : State) (a : Nat) : Nat :=
  if 0x20 ≤ a ∧ a < 0x30 then
    sumN ((List.range 32).map fun b => 2 ^ b * b2n (s.pods.good.contains (8 * (a - 0x20) + b)))
  else if a = 0x30 then
    2 ^ 24 * s.pods.good.length + 2 ^ 16 * s.pods.lmap.length + 2 ^ 8 * s.pods.spares.length +
      sumN (s.pods.failedWaves.map fun w => 2 ^ w)
  else if 0x40 ≤ a ∧ a < 0xA0 then
    sumN ((List.range 4).map fun j => 2 ^ (8 * j) * s.pods.lmap.getD (a - 0x40 + j) 0xFF)
  else if 0x4000 ≤ a then streamReg s a
  else regGet s a

/-- The LEEK block (05 R164). -/
def leekReg (s : State) (a : Nat) : Nat :=
  if a < 0x2000100 then
    match tget s.parts ((a - 0x2000000) / 4) with
    | some p => 2 ^ 31 + 2 ^ 24 * p.stream + 2 ^ 16 * p.half + 2 ^ 8 * p.base + (p.len - 1)
    | none => 0
  else regGet s a

/-- The WIN block (10 R349). -/
def winReg (s : State) (a : Nat) : Nat :=
  if a < 0x4002000 then winRead s a
  else if 0x4010000 ≤ a then resWord s ((a - 0x4010000) / 4)
  else if 0x4003000 ≤ a ∧ (a - 0x4003000) % 0x20 = 0xC then poolStatus s ((a - 0x4003000) / 0x20)
  else regGet s a

/-- The RING block (09 R319). -/
def ringReg (s : State) (a : Nat) : Nat :=
  if a = 0x5000004 then 2 ^ 16 * s.slots.length + llReserved s
  else if 0x5002200 ≤ a then
    match (streamGet s ((a - 0x5002200) / 4)).ring with
    | some r => r.tail
    | none => 0
  else if 0x5001000 ≤ a ∧ a < 0x5002000 then
    let p := (a - 0x5001000) / 0x40
    let off := (a - 0x5001000) % 0x40
    if off = 0x14 then pairStatus s p
    else if off = 0x20 then (pairGet s p).fetch
    else if off = 0x24 then (pairGet s p).cqTail
    else regGet s a
  else regGet s a

/-- The CXP block (06 R192). -/
def cxpReg (s : State) (a : Nat) : Nat :=
  let p := (a - 0x6001000) / 0x40
  if (a - 0x6001000) % 0x40 = 4 then regGet s a + 2 ^ 8 * camHolder s p else regGet s a

/-- The RSMP block (07 R251). -/
def rsmpReg (s : State) (a : Nat) : Nat :=
  if a = 0x700000C then low (encGet s 0).count 32
  else if a = 0x700002C then low (encGet s 1).count 32
  else if a = 0x7000048 then odoPos s % 2 ^ 32
  else if a = 0x700004C then odoPos s / 2 ^ 32
  else if 0x7001000 ≤ a then
    let c := (a - 0x7001000) / 0x100
    let off := (a - 0x7001000) % 0x100
    if off = 0x28 then
      match tget s.chans c with
      | some x => 2 ^ 29 * x.motion + 2 ^ 28 * b2n x.dirLast + chanHolder s c
      | none => chanHolder s c
    else if off = 0x30 then trackPos s c % 2 ^ 32
    else if off = 0x34 then trackPos s c / 2 ^ 32
    else regGet s a
  else regGet s a

/-- A stream of a group runs (07 R260). -/
def groupActive (s : State) (g : Group) : Bool := g.streams.any fun n => (streamGet s n).active

/-- The TRK block (07 R260). -/
def trkReg (s : State) (a : Nat) : Nat :=
  if a < 0x8000200 ∧ a % 16 = 8 then
    match tget s.groups ((a - 0x8000000) / 16) with
    | some g => 2 ^ 31 * b2n (groupActive s g) + 2 ^ 30 * b2n (!g.notAwaited.isEmpty) + g.tracks.length
    | none => 0
  else regGet s a

/-- The DISP blocks (11 R377). -/
def dispShow (s : State) (a : Nat) : Nat :=
  let d := a / 0x1000000 - 9
  let off := a % 0x1000000
  if off = 0x30 then dispStatus s d else if off = 0x34 then dispLine s d else regGet s a

/-- ETH.RRP_STATUS (09 R319). -/
def rrpStatus (s : State) : Nat :=
  let r := s.rrp
  let retries := match r.unacked with | m :: _ => min m.retries 31 | [] => 0
  2 ^ 30 * r.state + 2 ^ 8 * retries + min (min r.unacked.length 256) 255

/-- The ETH block (12 R414, 09 R319). -/
def ethReg (s : State) (a : Nat) : Nat :=
  if a = 0xC000800 then s.time % 2 ^ 32
  else if a = 0xC000804 then s.time / 2 ^ 32 % 2 ^ 32
  else if a = 0xC004020 then rrpStatus s
  else if a = 0xC004024 then s.rrp.session
  else regGet s a

/-- PWR.CONS_i, by offset (14 R464, R469). -/
def consReg (s : State) (a : Nat) : Nat :=
  let i := (a - 0xD001000) / 0x20
  let c := s.snap.getD i ⟨0, 0, 0, 0, 0⟩
  match (a - 0xD001000) % 0x20 with
  | 0x0 => c.issued % 2 ^ 32
  | 0x4 => c.issued / 2 ^ 32
  | 0x8 => c.returned % 2 ^ 32
  | 0xC => c.returned / 2 ^ 32
  | 0x10 => c.outstanding
  | 0x14 => c.capacity
  | _ => (s.cons.getD i ⟨0, 0, 0, 0, 0⟩).failed

/-- The PWR block (14 R469). -/
def pwrReg (s : State) (a : Nat) : Nat :=
  if 0xD001000 ≤ a then consReg s a
  else if 0xD000310 ≤ a ∧ a < 0xD000400 then
    match tget s.tokens ((a - 0xD000310) / 4) with
    | some t => 2 ^ 31 + 2 ^ 24 * t.activity + t.target
    | none => 0
  else regGet s a

/-- The bytes of a log entry (14 R465). -/
def LogEntry.bytes (e : LogEntry) : List Byte :=
  leBytes 8 e.time ++ leBytes 2 e.code ++ leBytes 1 e.source ++ leBytes 1 e.flags ++ leBytes 4 e.arg

/-- The LOG block (14 R470): a slot holds the newest entry whose number it serves, and 0 before the first. -/
def logReg (s : State) (a : Nat) : Nat :=
  if a = 0xF000000 then s.logHead
  else
    let slot := (a - 0xF100000) / 16
    let k := (a - 0xF100000) % 16
    let i := (s.logHead + 2 ^ 32 - 1) % 2 ^ 32
    match s.log[(i + 16384 - slot) % 16384]? with
    | some e => leAt e.bytes k 4
    | none => 0

/-- The value that a register shows. -/
def regValue (s : State) (a : Nat) : Nat :=
  match a / 2 ^ 24 with
  | 0 => mgmtReg s a
  | 2 => leekReg s a
  | 3 => if a = 0x3000400 then (match s.ddr.heldShare with | some v => v.toNat | none => regGet s a) else regGet s a
  | 4 => winReg s a
  | 5 => ringReg s a
  | 6 => cxpReg s a
  | 7 => rsmpReg s a
  | 8 => trkReg s a
  | 9 => dispShow s a
  | 10 => dispShow s a
  | 12 => ethReg s a
  | 13 => pwrReg s a
  | 14 => if a = 0xE000070 ∨ a = 0xE000074 then regGet s a else secRead s (a - 0xE000000)
  | 15 => logReg s a
  | _ => regGet s a

/-! ### Writes with a text of their own -/

/-- Hold a write until the next band boundary of the stream or array that it bears on (00 R20). -/
def shadowPut (s : State) (a v : Nat) : State := { s with shadow := tset s.shadow a (BitVec.ofNat 32 v) }

/-- MGMT.SPOOL_CFG (06 R216). -/
def writeSpool (s : State) (v : Nat) : Option State := if spoolCfgOk s v then some (setSpoolCfg s v) else none

/-- A register that a running stream uses: a write of it waits for a band boundary of the stream (00 R20). -/
def bandHeld (s : State) (a : Nat) : Bool :=
  (!sharedReg a || sharedBusy s a) && s.streams.any fun e => e.2.active && boundaryRegs s e.1 a

/-- A write that takes effect at once, or at the next band boundary where a running stream uses its block; a write held before
it is no longer to come. -/
def bandWrite (s : State) (a v : Nat) (now : State → State) : State :=
  if bandHeld s a then shadowPut s a v else now { s with shadow := tdel s.shadow a }

/-- The same of a high half, with the low half written before it (00 R12). -/
def bandWriteHi (s : State) (a v : Nat) (now : State → State) : State :=
  let lo := match tget s.held (a - 4) with | some x => x.toNat | none => regGet s (a - 4)
  if bandHeld s a then shadowPut (shadowPut s (a - 4) lo) a v
  else now { s with shadow := tdel (tdel s.shadow (a - 4)) a }

/-- A base of a pair's ring: bits [63:40] are 0 while the pair is enabled and local (00 R10). -/
def pairBaseOk (s : State) (p v : Nat) : Bool := !pairEnabled s p || pairRemote s p || decide (v < 256)

/-- POD.DRAIN_SCALE takes effect at the next band boundary while an operation runs on the array (03 R97, 00 R20); the entries of
a pod that is harvested or fenced change nothing (03 R98). -/
def writeDrain (s : State) (a v : Nat) : State :=
  if !s.pods.good.contains ((a - 0x1800000) / 0x4000) then s
  else if arrayBusy s then shadowPut s a v else regPut { s with shadow := tdel s.shadow a } a v

/-- Lanes of a port with a CFG value (06 R183). -/
def lanesOf (cfg p : Nat) : List Nat := (List.range (2 ^ f cfg 29 28)).map (p + ·)

/-- The lanes of a port that is being enabled: its number is a multiple of their count, and no other enabled port has one of
them (06 R182, R183). -/
def lanesOk (s : State) (p v : Nat) : Bool :=
  !bitOf v 31 || (p % 2 ^ f v 29 28 == 0 && (lanesOf v p).all fun l =>
    (portOfLane s l).all (· == p))

/-- Power of the ingest groups: each is on while one of its ports is enabled (14 R445). -/
def ingestPower (s : State) : State :=
  let on := fun (g : Nat) => (List.range 8).any fun i => camEnabled s (8 * g + i)
  setPower (setPower s 3 (on 0)) 4 (on 1)

/-- CXP.PORT_n (06 R192): CFG only while no admitted stream holds the port; a change of enable, lanes or rate ends the
link, and discovery runs again. A port that is enabled has no previous line (R190). -/
def writeCxp (s : State) (a v : Nat) : Option State :=
  let p := (a - 0x6001000) / 0x40
  if camHolder s p ≠ 0 || !lanesOk s p v then none else
  let old := camCfg s p
  let same := f v 31 31 == f old 31 31 && f v 29 24 == f old 29 24
  let s := if same then s else regPut s (a + 4) 0
  let s := if bitOf v 31 == bitOf old 31 then s else camPut s p { camGet s p with lastPixels := none, hdr := none, image := none, trigs := [] }
  some (ingestPower (regPut s a v))

/-- RSMP.ENC_e.CFG and SCALE: scale 0 is reserved while the encoder is enabled (07 R251). Distances start over from the
present count, and the odometry keeps its position. -/
def writeEnc (s : State) (a v : Nat) : Option State :=
  let e := (a - 0x7000000) / 0x20
  let shown := fun (r : Nat) => if r = a then v else match tget s.shadow r with | some x => x.toNat | none => regGet s r
  if bitOf (shown (0x7000000 + e * 0x20)) 31 && shown (0x7000004 + e * 0x20) == 0 then none
  else some (bandWrite s a v fun s => odoRebase (encChanged (regPut s a v) e))

/-- PITCH of a channel in its range (07 R234, R249). -/
def pitchOk (s : State) (c v : Nat) : Bool :=
  let cfg := chanCfg s c
  if bitOf cfg 31 then (f cfg 30 29 != 0 || v != 0) else decide (6554 ≤ v ∧ v ≤ 655360)

/-- A channel's registers (07 R251). -/
def chanFree (s : State) (a : Nat) : Bool := chanHolder s ((a - 0x7001000) / 0x100) == 0

/-- FAB.PORT_p.CFG (12 R407): the port is enabled or disabled. -/
def writeFabPort (s : State) (a v : Nat) : State :=
  let p := (a - 0xB001000) / 0x40
  let was := bitOf (fabCfg s p) 31
  let t := regPut s a v
  if was && !bitOf v 31 then portsChanged (setFabState (giveToken (downPort p 1 t) (10 + p) 1) p 0)
  else if !was && bitOf v 31 && powered s 1 then
    setFabState (portPut t p { portGet t p with attempts := 0, good := 0 }) p 1
  else t

/-- The Ethernet ports that a TSN register belongs to have enable 0 (12 R414). -/
def ethIdle (s : State) (a : Nat) : Bool :=
  if a < 0xC000200 then !ethEnabled s ((a - 0xC000000) / 0x100)
  else if 0xC001000 ≤ a ∧ a < 0xC002000 then !ethEnabled s ((a - 0xC001000) / 0x800)
  else !ethEnabled s 0 && !ethEnabled s 1

/-- Who may write the RRP registers of the ETH block: on an owned device only the Sprout (15 R480), RRP_CFG only while no
session is open (09 R319), and the cores write the peer only then (09 R310). -/
def rrpWritable (s : State) (w : Writer) (cfg : Bool) : Bool :=
  (s.sec.owner.isNone || w == .sprout) && (s.rrp.state == 0 || (!cfg && w == .rrp))

/-- The relations that the contents of H_SYNC, V_SYNC and VRR state between a value and the sizes and blanking as they stand (11
R377, 00 R17). -/
def syncOk (s : State) (a v : Nat) : Bool :=
  let d := a / 0x1000000 - 9
  let h := dispReg s d 0x8
  let z := dispReg s d 0x10
  let y := dispReg s d 0x14
  match a % 0x1000000 with
  | 0xC => decide (f h 15 0 + f v 23 12 + f v 11 0 < f h 31 16)
  | 0x14 => decide (f z 15 0 + f v 23 12 + f v 11 0 < f z 31 16)
  | 0x18 => decide (f y 23 12 + f y 11 0 + 1 ≤ f v 15 0 ∧ f z 15 0 + f v 31 16 ≤ 16383)
  | _ => true

/-- DISPn.COMMIT: the registers commit for owner 0; a failure is logged (11 R364). -/
def commitReg (s : State) (d : Nat) : State :=
  match commitPlane s d 0 (reg64 s (dispBase d + 0x20)) none with
  | .ok s => s
  | .error (s, c) => logAdd s 0x0219 (9 + d) 1 (d + 2 ^ 8 * c)

/-- DISPn.AUX_CMD: a transaction begins where none runs, with the bytes of AUX_DATA that a write takes (11 R356). -/
def auxStart (s : State) (d v : Nat) : Option State :=
  if bitOf (dispReg s d 0x84) 31 then none
  else
    let b := if f v 24 24 = 1 then []
      else ((List.range 4).flatMap fun k => leBytes 4 (dispReg s d (0x74 + 4 * k))).take (f v 23 20 + 1)
    let s := dispSet (dispPut s d { dispGet s d with auxCmd := v }) d 0x84 (2 ^ 31)
    some { s with out := .aux d v b :: s.out }

/-- PWR.MAINT_REQ (14 R460). -/
def maintRequest (s : State) (v : Nat) : State :=
  if f v 19 16 = 1 then maintStart s (f v 31 24) (f v 23 20) (f v 15 0)
  else maintStop s (f v 31 24) (f v 23 20) (f v 15 0)

/-- A register that takes its value and nothing else: its RW bits are set; the halves of a pair are held and applied
together (00 R12, R13). RSMP.ODO_CFG changes no position (07 R228). -/
def plainWrite (s : State) (r : RegRow) (a v : Nat) : State :=
  if r.rw = 0 then s else
  match r.kind with
  | .lo => { s with held := tset s.held a (BitVec.ofNat 32 v) }
  | .hi =>
    let lo := match tget s.held (a - 4) with | some x => x.toNat | none => regGet s (a - 4)
    regPut (regPut s (a - 4) lo) a v
  | .one =>
    let t := regPut s a (blend r.rw v (regGet s a))
    if a = 0x7000040 then odoRebase t else t

/-- The half written is the high one: the value of the pair. -/
def pairValue (s : State) (a v : Nat) : Nat :=
  (match tget s.held (a - 4) with | some x => x.toNat | none => regGet s (a - 4)) + 2 ^ 32 * v

/-- A legal value meets a register: none where the register's own text refuses it. `v` has only bits that a write can
set or act on. -/
def gateWrite (s : State) (w : Writer) (r : RegRow) (i a v : Nat) : Option State :=
  let plain := plainWrite s r a v
  match r.gate with
  | .none => some (if r.rw = 0 then s else match r.kind with
    | .lo => plain
    | .hi => bandWriteHi s a v fun s => plainWrite s r a v
    | .one => bandWrite s a v fun s => plainWrite s r a v)
  | .pairBase => if pairBaseOk s i v then some (bandWriteHi s a v fun s => plainWrite s r a v) else none
  | .reset => if f v 31 16 = 0xA5A5 then some (mgmtReset s v) else none
  | .topoCtrl => some (topoCtrl s v)
  | .topoGo => some (if bitOf v 0 then topoGo s else s)
  | .topoAddr => if r.kind = .hi ∧ !topoHost s ∧ 256 ≤ v then none else some plain
  | .spoolCfg => writeSpool s v
  | .streamCfg => some (bandWrite s a v fun s => regPut s a v)
  | .drainScale => some (writeDrain s a v)
  | .rtb => some (if r.rw = 0 then s else shadowPut s a v)
  | .rtb3 => some (rtbApply s (i + 1))
  | .ddrShare => some (shareWrite s v)
  | .winField => winField s a v
  | .winCtrl => winCtrl s i v
  | .resSet => resWrite s v true
  | .resClr => resWrite s v false
  | .poolCfg => poolCfgWrite s i v
  | .poolFree => if poolCount s i ≤ v then none else some (poolFree s i v)
  | .poolAlloc => some s
  | .pairCfg => pairCfgSet s i v
  | .sqDb => some (sqDoorbell s i v)
  | .cqDb => some (cqDoorbell s i v)
  | .resDb => some (resDoorbell s (i + 1) v)
  | .cxpCfg => writeCxp s a v
  | .encCfg => writeEnc s a v
  | .encScale => writeEnc s a v
  | .rsmpCh => if chanFree s a then some plain else none
  | .rsmpPitch => if chanFree s a && pitchOk s i v then some plain else none
  | .trkRec => if (tget s.groups (i + 1)).any (groupActive s) then none else some plain
  | .dispCfg => writeDispCfg s i v
  | .dispTiming => if dispEnabled s (a / 0x1000000 - 9) || !syncOk s a v then none else some plain
  | .commit => some (if bitOf v 0 then commitReg s i else s)
  | .auxCmd => auxStart s i v
  | .fabNode => if assigned s then none else some { plain with fab := { plain.fab with rebuild := true } }
  | .fabPort => some (writeFabPort s a v)
  | .ethPort => if ethIdle s a then some plain else none
  | .gcl => if ethIdle s a then some plain else none
  | .tsn => if ethIdle s a then some plain else none
  | .qbvCtrl => some (qbvWrite s i v)
  | .timeSet => if r.kind = .lo then some plain else if timeSettable s then some (setTime plain (pairValue s a v)) else none
  | .rrpCfg => if rrpWritable s w true then some plain else none
  | .rrpPeer => if rrpWritable s w false then some { plain with rrp := { plain.rrp with bound := false } } else none
  | .pwrState => some (dormantRequest s)
  | .maintReq => some (maintRequest s v)
  | .consSnap => some (if bitOf v 0 then consSnapshot s else s)

/-! ### The bus -/

/-- The offset of a register address from 0x60_0000_0000, none outside the region (02 R30). -/
def regOffset (addr : Nat) : Option Nat :=
  if 0x6000000000 ≤ addr ∧ addr < 0x6010000000 then some (addr - 0x6000000000) else none

/-- The register that an aligned 32-bit access names (00 R11). -/
def namedReg (addr width : Nat) : Option (RegRow × Nat × Nat) :=
  if width ≠ 4 ∨ addr % 4 ≠ 0 then none else
  match regOffset addr with
  | some a => findReg a
  | none => none

/-- Registers that the debug and test port may read after step 2 (15 R493). -/
def debugReads (a : Nat) : Bool := a == 0 || a == 0xE000000 || a / 2 ^ 24 == 15

/-- The debug and test port is open: unlocked (15 R494), or before the end of step 2. -/
def debugOpen (s : State) : Bool := s.sec.debug || (decide (s.boot.step ≤ 2) && s.power.mode != 2)

/-- The start has failed in step 2, which leaves the port open for reads of every register (13 R418). -/
def failedStep2 (s : State) : Bool := bootState s == 3 && decide (f (regGet s 0) 23 16 = 1 ∨ f (regGet s 0) 23 16 = 2)

/-- The writer acts at all: the cores do not while they are held in reset (09 R317). -/
def awake (s : State) (w : Writer) : Bool := w != .core || s.boot.cores

/-- The writer may write registers. -/
def mayWrite (s : State) (w : Writer) : Bool := awake s w && (w != .debug || debugOpen s)

/-- The reader may read this register. -/
def mayRead (s : State) (w : Writer) (a : Nat) : Bool :=
  awake s w && (w != .debug || debugOpen s || failedStep2 s || debugReads a)

/-- A response to a register or core access. -/
def answer (s : State) (v : Nat) (error : Bool) : State := { s with resp := ⟨v, error⟩ }

/-- A write of a register (00 R11 to R17): an error response where no register is named, a log entry where the value is
reserved or the register's text refuses it. -/
def busWrite (s : State) (w : Writer) (addr width : Nat) (value : Word) : State :=
  if !awake s w then s else
  match namedReg addr width with
  | none => answer s 0 true
  | some (r, i, _) =>
    let a := addr - 0x6000000000
    let v := value.toNat &&& (r.rw ||| r.wo)
    let refuse := answer (logRefused s w addr value) 0 false
    if !mayWrite s w then refuse
    else if r.rw + r.wo ≠ 0 && !r.legal v then refuse
    else match gateWrite s w r i a v with
      | some t => answer t 0 false
      | none => refuse

/-- What a register shows: a write that is held reads back (00 R13), but for a window that the device has locked. -/
def shownValue (s : State) (a : Nat) : Nat :=
  match tget s.shadow a with
  | some v => if winLocked s a then regValue s a else v.toNat
  | none => regValue s a

/-- What a read of a register does besides returning its value: capture (00 R12), clearing (00 R13, R15) and allocation
(10 R333). -/
def readEffect (s : State) (r : RegRow) (a : Nat) : State :=
  let s := match r.kind with
    | .lo => { s with capture := tset s.capture (a + 4) (BitVec.ofNat 32 (shownValue s (a + 4))) }
    | .hi => { s with capture := tdel s.capture a }
    | .one => s
  if r.rc = 0 then s
  else if 0xD001000 ≤ a ∧ a < 0xD001500 then
    { s with cons := modAt s.cons ((a - 0xD001000) / 0x20) fun c => { c with failed := 0 } }
  else
    let t := regPut s a (blend r.rc 0 (regGet s a))
    if r.kind = .lo then regPut t (a + 4) 0 else t

/-- The value that a read returns: WO bits read 0, and the high half of a pair is that of the last read of its low half
where that is still to be served. -/
def readValue (s : State) (r : RegRow) (a : Nat) : Nat :=
  if r.kind = .hi then
    match tget s.capture a with
    | some v => v.toNat
    | none => shownValue s a
  else shownValue s a

/-- A read of a register. -/
def busRead (s : State) (w : Writer) (addr width : Nat) : State :=
  if !awake s w then s else
  match namedReg addr width with
  | none => answer s 0 true
  | some (r, i, _) =>
    let a := addr - 0x6000000000
    if !mayRead s w a then answer s 0 true
    else if r.gate = .poolAlloc then
      match poolAlloc s i with
      | (some b, t) => answer t (2 ^ 31 + b) false
      | (none, t) => answer t 0 false
    else answer (readEffect s r a) (readValue s r a) false

/-! ### The rows -/

/-- REGISTER_WRITE: 00 R11 to R17. -/
def execRegisterWrite (w : Writer) (addr width : Nat) (value : Word) (s : State) : Host.Outcome State Fault Refusal :=
  .next (busWrite s w addr width value)

/-- LO_READ_CAPTURE: 00 R11, R12; any other register named is read by its own rules. -/
def execLoReadCapture (w : Writer) (addr width : Nat) (s : State) : Host.Outcome State Fault Refusal :=
  .next (busRead s w addr width)

/-- RC_COUNTER_READ: 00 R13, R15; any other register named is read by its own rules. -/
def execRcCounterRead (w : Writer) (addr width : Nat) (s : State) : Host.Outcome State Fault Refusal :=
  .next (busRead s w addr width)

/-- FULL_RESET: 13 R415; by a write of MGMT.RESET or the Supervisor's order. -/
def execFullReset (order : ResetOrder) (s : State) : Host.Outcome State Fault Refusal :=
  match order with
  | .mgmt w v => .next (busWrite s w 0x6000000008 4 v)
  | .supervisor _ => .next (supervisorReset s)

/-- PARTIAL_RESET: 13 R440; by a write of MGMT.RESET or the Supervisor's order. -/
def execPartialReset (order : ResetOrder) (s : State) : Host.Outcome State Fault Refusal :=
  match order with
  | .mgmt w v => .next (busWrite s w 0x6000000008 4 v)
  | .supervisor cls => .next (partialReset s 1 cls false)

/-- TOPO_GO: 13 R433. -/
def execTopoGo (w : Writer) (value : Word) (s : State) : Host.Outcome State Fault Refusal :=
  .next (busWrite s w 0x60000000A4 4 value)

/-- TOPO_CTRL_WRITE: 13 R435. -/
def execTopoCtrlWrite (w : Writer) (value : Word) (s : State) : Host.Outcome State Fault Refusal :=
  .next (busWrite s w 0x60000000A0 4 value)

/-- SQ_DB: 09 R284. -/
def execSqDb (w : Writer) (pair : Nat) (value : Word) (s : State) : Host.Outcome State Fault Refusal :=
  .next (busWrite s w (0x6005001018 + pair * 0x40) 4 value)

/-- CQ_DB: 09 R285. -/
def execCqDb (w : Writer) (pair : Nat) (value : Word) (s : State) : Host.Outcome State Fault Refusal :=
  .next (busWrite s w (0x600500101C + pair * 0x40) 4 value)

/-- RES_DB: 09 R300. -/
def execResDb (w : Writer) (stream : Nat) (value : Word) (s : State) : Host.Outcome State Fault Refusal :=
  .next (busWrite s w (0x6005002000 + stream * 4) 4 value)

/-- PAIR_CFG_WRITE: 09 R318, 13 R436. -/
def execPairCfgWrite (w : Writer) (pair : Nat) (value : Word) (s : State) : Host.Outcome State Fault Refusal :=
  .next (busWrite s w (0x6005001010 + pair * 0x40) 4 value)

/-- DDR_SHARE_WRITE: 06 R207. -/
def execDdrShareWrite (w : Writer) (value : Word) (s : State) : Host.Outcome State Fault Refusal :=
  .next (busWrite s w 0x6003000400 4 value)

/-- RTB_W3_WRITE: 05 R158. -/
def execRtbW3Write (w : Writer) (n : Nat) (value : Word) (s : State) : Host.Outcome State Fault Refusal :=
  .next (busWrite s w (0x600200010C + n * 0x10) 4 value)

/-- WINDOW_CTRL_WRITE: 10 R322. -/
def execWindowCtrlWrite (w : Writer) (n : Nat) (value : Word) (s : State) : Host.Outcome State Fault Refusal :=
  .next (busWrite s w (0x600400000C + n * 0x20) 4 value)

/-- RES_SET: 10 R330. -/
def execResSet (w : Writer) (value : Word) (s : State) : Host.Outcome State Fault Refusal :=
  .next (busWrite s w 0x6004002000 4 value)

/-- RES_CLR: 10 R328, R330; every access checked before is complete, because a command is one whole step. -/
def execResClr (w : Writer) (value : Word) (s : State) : Host.Outcome State Fault Refusal :=
  .next (busWrite s w 0x6004002004 4 value)

/-- POOL_ALLOC: 10 R333. -/
def execPoolAlloc (w : Writer) (p : Nat) (s : State) : Host.Outcome State Fault Refusal :=
  .next (busRead s w (0x6004003004 + p * 0x20) 4)

/-- POOL_FREE: 10 R335. -/
def execPoolFree (w : Writer) (p : Nat) (value : Word) (s : State) : Host.Outcome State Fault Refusal :=
  .next (busWrite s w (0x6004003008 + p * 0x20) 4 value)

/-- DISPLAY_DISABLE: 11 R375: a write of CFG as it stands, with enable clear. -/
def execDisplayDisable (w : Writer) (d : Nat) (s : State) : Host.Outcome State Fault Refusal :=
  .next (busWrite s w (0x6009000000 + d * 0x1000000) 4 (BitVec.ofNat 32 (setF (dispCfg s d) 31 31 0)))

/-- AUX_CMD: 11 R356. -/
def execAuxCmd (w : Writer) (d : Nat) (value : Word) (s : State) : Host.Outcome State Fault Refusal :=
  .next (busWrite s w (0x6009000070 + d * 0x1000000) 4 value)

/-- COMMIT: 11 R364. -/
def execCommit (w : Writer) (d : Nat) (value : Word) (s : State) : Host.Outcome State Fault Refusal :=
  .next (busWrite s w (0x6009000028 + d * 0x1000000) 4 value)

/-- TIME_SET: 12 R410, the write of TIME_SET_HI, which applies both halves. -/
def execTimeSet (w : Writer) (hi : Word) (s : State) : Host.Outcome State Fault Refusal :=
  .next (busWrite s w 0x600C00080C 4 hi)

/-- DORMANT_REQUEST: 14 R453. -/
def execDormantRequest (w : Writer) (value : Word) (s : State) : Host.Outcome State Fault Refusal :=
  .next (busWrite s w 0x600D000000 4 value)

/-- MAINT_START: 14 R460. A grant that the Supervisor disagrees with takes no effect (R459). -/
def execMaintStart (w : Writer) (value : Word) (agree : Bool) (s : State) : Host.Outcome State Fault Refusal :=
  let t := busWrite s w 0x600D000300 4 value
  .next (if agree || t.tokens == s.tokens then t else answer (decisionMismatch s 2) 0 false)

/-- MAINT_STOP: 14 R460. -/
def execMaintStop (w : Writer) (value : Word) (s : State) : Host.Outcome State Fault Refusal :=
  .next (busWrite s w 0x600D000300 4 value)

/-- CONS_SNAP: 14 R464. -/
def execConsSnap (w : Writer) (value : Word) (s : State) : Host.Outcome State Fault Refusal :=
  .next (busWrite s w 0x600D000400 4 value)

/-! ### Cores (02 R32, R35, 10 R344, R347) -/

/-- The pod runs an operation of which it still has a tile to keep (02 R35). -/
def podBusy (s : State) (pod : Nat) : Bool :=
  match logicalOf s pod with
  | none => false
  | some l => s.works.any fun e => [Phase.running, .computed, .partials].contains e.2.phase && match e.2.op with
    | some op => (tilesOf s op l).any fun t => !op.kept.contains (l, t.num)
    | none => false

/-- A core reaches every byte of a range as memory. -/
def coreReach (s : State) (a n : Nat) : Bool :=
  (blocksOf a n).all fun b => backed s b && match region b with
    | .podStore p => !podBusy s p
    | _ => true

/-- A core's read of memory, and what it becomes there: the old value, or an error response (10 R344, R347). -/
def coreRead (s : State) (a n : Nat) (e : MemErrs) (write : State → Nat → State) : State :=
  if !coreReach s a n then answer s 0 true
  else
    let s := ddrTouch (memErrors s e false) [(a, n)]
    if (poisonIn s a n).isSome then answer s 0 true
    else
      let old := leNat (memGetN s.mem a n)
      answer (write s old) old false

/-- A core's atomic: the value that every earlier write left is the answer (05 R168). The register region takes no atomics
(log entry 93). -/
def coreAtomic (s : State) (a n : Nat) (e : MemErrs) (op : Nat → Nat) : State :=
  if (regOffset a).isSome then answer s 0 true
  else coreRead s a n e fun s old => storeBytes s a (leBytes n (op old))

/-- CORE_MEMORY_ACCESS: 02 R32, R35, 05 R168, 10 R344, R347, by cores that have left reset (09 R317). An access to the register region
is one of a register. -/
def execCoreMemoryAccess (x : CoreAccess) (e : MemErrs) (s : State) : Host.Outcome State Fault Refusal :=
  if !s.boot.cores then .next s else
  match x with
  | .load a n =>
    if (regOffset a).isSome then .next (busRead s .core a n) else .next (coreRead s a n e fun s _ => s)
  | .store a b =>
    if (regOffset a).isSome then .next (busWrite s .core a b.length (BitVec.ofNat 32 (leNat b)))
    else if !coreReach s a b.length || (poisonPartial s a b.length).isSome then .next (answer s 0 true)
    else .next (answer (ddrTouch (storeBytes s a b) [(a, b.length)]) 0 false)
  | .atomicOr a b => .next (coreAtomic s a b.length e fun v => v ||| leNat b)
  | .atomicAdd a b => .next (coreAtomic s a b.length e fun v => v + leNat b)

end Sys2Proof.Machine
end

