-- ==== Sys2Proof/Machine/Rrp.lean ====
section
/-! DEFINITION. The remote commander: the messages of a session (09 R312, R313), the opening of a session (15 R482, R483, 09
R314), retransmission (09 R313), and what a partial reset held (09 R316). -/
namespace Sys2Proof.Machine

/-! ### Messages of the session (09 R312) -/

/-- REG_RESP. -/
def regResp (s : State) (addr : Nat) : State :=
  rrpSend s 0x0A (leBytes 5 addr ++ leBytes 1 (b2n s.resp.error) ++ leBytes 2 0 ++ leBytes 4 s.resp.value)

/-- REG_READ. -/
def doRegRead (s : State) (addr : Nat) : State := regResp (busRead s .rrp addr 4) addr

/-- REG_WRITE. -/
def doRegWrite (s : State) (addr : Nat) (value : Word) : State := regResp (busWrite s .rrp addr 4 value) addr

/-- The register that a DOORBELL writes; none where its target or number is none that exists. -/
def doorbellReg (target n : Nat) : Option Nat :=
  if target = 0 ∧ n < 64 then some (0x6005001018 + n * 0x40)
  else if target = 1 ∧ n < 64 then some (0x600500101C + n * 0x40)
  else if target = 2 ∧ 1 ≤ n ∧ n ≤ 127 then some (0x6005002000 + n * 4)
  else none

/-- DOORBELL. -/
def doDoorbell (s : State) (seq target n : Nat) (index : Word) : State :=
  match doorbellReg target n with
  | some a => busWrite s .rrp a 4 index
  | none => rrpError s seq 2

/-- READ_RESP: the data goes to what asked for it: a descriptor fetch, a DMA, or the topology check. -/
def doReadResp (s : State) (seq req : Nat) (data : List Byte) : State :=
  match tget s.rrp.reads req with
  | none => rrpError s seq 2
  | some (kind, who, a) =>
    let s := { s with rrp := { s.rrp with reads := tdel s.rrp.reads req } }
    match kind with
    | 0 => descData s who a data
    | 1 => match workGet s who with
      | some w => workPut s who { w with buf := w.buf ++ [(a, data)] }
      | none => s
    | 3 => topoData s a data
    | _ => s

/-- READ_RESP, and the reads that waited for the room (R313). -/
def takeReadResp (s : State) (seq req : Nat) (data : List Byte) : State := topoAsk (doReadResp s seq req data)

/-! ### Opening a session (15 R482, R483, 09 R314) -/

/-- The OPEN body: the fragments' data in index order. -/
def openBody (s : State) : List Byte := s.rrp.frags.flatMap (·.2)

/-- The fields of a body are legal. -/
def openLegal (s : State) (b : List Byte) : Bool :=
  decide (leAt b 0 4 = 1 ∧ leAt b 4 1 ≤ 3 ∧ leAt b 16 4 = s.rrp.fragSession ∧ leAt b 16 4 ≠ 0)

/-- The first condition of R483 that a body fails, counted from 1; none where it is accepted. -/
def openFail (s : State) (b : List Byte) (sigOk : Bool) : Option Nat :=
  let id := slice b 8 8 == (idDigest s).take 8
  let key := leAt b 4 1
  let t := leAt b 24 8
  match s.sec.owner with
  | none => firstErr [(1, decide (b.length < 64) || !openLegal s b), (2, !id)]
  | some o => firstErr [
      (1, decide (b.length ≠ 4691) || !openLegal s b),
      (2, !id),
      (3, decide (o.commanders.length ≤ key)),
      (4, !sigOk),
      (5, !disciplined s),
      (6, decide (2000000000 < ((t : Int) - s.time).natAbs)),
      (7, match tget s.sec.openTimes key with
        | some last => decide (t ≤ last)
        | none => false)]

/-- Works of the remote pairs. -/
def remoteWorks (s : State) : List (Nat × Work) :=
  s.works.filter fun e => match e.2.pair with
    | some p => pairRemote s p
    | none => false

/-- A pair of the old commander: what waits on it is discarded, and it is disabled. -/
def dropPair (s : State) (p : Nat) : State :=
  let x := pairGet s p
  let s := x.wait.foldl (fun s c => match c.wid with
    | some w => endWork s w c.slot
    | none => s) s
  let s := pairPut s p { x with wait := [], events := [], fetched := [], timer := none, cancels := [] }
  regSetF s (0x5001010 + p * 0x40) 31 31 0

/-- An operation of the old commander ends: what it reads or has prefetched is dropped, and a plane set that it left pending is
not shown. -/
def dropWork (s : State) (wid : Nat) (slot : Option Nat) : State :=
  let s := match pendingOn s wid with
    | some (d, p) => dropRefs (dispPut s d { dispGet s d with pending := none }) p.holder
    | none => s
  endWork (dropWorkBlocks (dropReads s wid) wid) wid slot

/-- A new session takes the device over (R314). -/
def takeOver (s : State) (session n : Nat) : State :=
  let l := remoteWorks s
  let s := l.foldl (fun s e => dropWork s e.1 e.2.slot) s
  let s := ((List.range 64).filter (pairRemote s)).foldl dropPair s
  let s := if s.boot.topoLeft ≠ 0 then topoUnreadable (topoForget s) else s
  let bind := rrpUnbound s
  let r := s.rrp
  let s := if bind then
      (List.range 4).foldl (fun s k => regPut s (0xC004010 + 4 * k) (r.srcAddr.getD k 0)) (regPut s 0xC004004 r.srcPort)
    else s
  let s := { s with rrp := { s.rrp with state := 1, session := session, rxSeq := n, txSeq := 0, unacked := [], reads := [],
                                        bound := bind, heldMsgs := [] } }
  logAdd s 0x0216 12 1 l.length

/-- A whole OPEN body has come. -/
def doOpen (s : State) (sigOk : Bool) : State :=
  let b := openBody s
  match openFail s b sigOk with
  | some k => logSec (bumpF (dropFrags s) 0xE000070 15 0) 0x0604 k
  | none =>
    let session := s.rrp.fragSession
    let times := if s.sec.owner.isSome then tset s.sec.openTimes (leAt b 4 1) (leAt b 24 8) else s.sec.openTimes
    let s := takeOver { s with sec := { s.sec with openTimes := times } } session s.rrp.fragCount
    rrpSend (logSec (dropFrags s) 0x0605 session) 0x02 (leBytes 4 session)

/-! ### Messages during a partial reset (09 R316) -/

/-- Hold a message until the reset ends, 2 ms at most. -/
def holdMsg (s : State) (seq : Nat) (m : HeldMsg) : State :=
  { s with rrp := { s.rrp with heldMsgs := s.rrp.heldMsgs ++ [(seq, s.elapsed, m)] } }

/-- A register address lies in the compute partition. -/
def inPartition (addr : Nat) : Bool :=
  match regOffset addr with
  | some a => partitionBlock (a / 2 ^ 24)
  | none => false

/-- A message that was held is served. -/
def serveMsg (s : State) (e : Nat × Nat × HeldMsg) : State :=
  match e.2.2 with
  | .doorbell t n i => doDoorbell s e.1 t n i
  | .readResp r d => takeReadResp s e.1 r d
  | .regRead a => doRegRead s a
  | .regWrite a v => doRegWrite s a v
  | .open_ ok => if fragsWhole s then doOpen s ok else s

/-- MICROCODE_LOADED: 13 R432, 09 R317, 13 R440 step 8; at the end of a partial reset, what it held is served (12 R405, 09
R316). -/
def execMicrocodeLoaded (s : State) : Host.Outcome State Fault Refusal :=
  let t := microLoaded s
  if resetting s && !resetting t then
    let l := t.rrp.heldMsgs
    .next (l.foldl serveMsg (deliverHeld { t with rrp := { t.rrp with heldMsgs := [] } }))
  else .next t

/-! ### The rows -/

/-- OPEN: 15 R482, R483, 09 R314. -/
def execOpen (sigOk : Bool) (s : State) : Host.Outcome State Fault Refusal :=
  if !fragsWhole s then .next s
  else if resetting s then .next (holdMsg s (s.rrp.fragCount - 1) (.open_ sigOk))
  else .next (doOpen s sigOk)

/-- DOORBELL: 09 R312, R313, R284, R285, R300. -/
def execDoorbell (h : RrpHdr) (target n : Nat) (index : Word) (s : State) : Host.Outcome State Fault Refusal :=
  match rrpAccept s h with
  | .error s => .next s
  | .ok s => .next (if resetting s then holdMsg s h.seq (.doorbell target n index) else doDoorbell s h.seq target n index)

/-- READ_RESP: 09 R312, R313. -/
def execReadResp (h : RrpHdr) (req : Nat) (data : List Byte) (s : State) : Host.Outcome State Fault Refusal :=
  match rrpAccept s h with
  | .error s => .next s
  | .ok s => .next (if resetting s then holdMsg s h.seq (.readResp req data) else takeReadResp s h.seq req data)

/-- ACK: 09 R313. -/
def execAck (h : RrpHdr) (s : State) : Host.Outcome State Fault Refusal := .next ((rrpHeard s h).getD s)

/-- KEEPALIVE: 09 R312; its ack counts, and nothing answers it. -/
def execKeepalive (h : RrpHdr) (s : State) : Host.Outcome State Fault Refusal := .next ((rrpHeard s h).getD s)

/-- REG_READ: 09 R312, R316. -/
def execRegRead (h : RrpHdr) (addr : Nat) (s : State) : Host.Outcome State Fault Refusal :=
  match rrpAccept s h with
  | .error s => .next s
  | .ok s => .next (if resetting s && inPartition addr then holdMsg s h.seq (.regRead addr) else doRegRead s addr)

/-- REG_WRITE: 09 R312, R316. -/
def execRegWrite (h : RrpHdr) (addr : Nat) (value : Word) (s : State) : Host.Outcome State Fault Refusal :=
  match rrpAccept s h with
  | .error s => .next s
  | .ok s =>
    .next (if resetting s && inPartition addr then holdMsg s h.seq (.regWrite addr value) else doRegWrite s addr value)

/-! ### Retransmission (09 R313) -/

/-- The longest retransmission timeout, ns. -/
def rtoMax : Nat := 64000000

/-- The timeout of a message that has been resent k times. -/
def rtoOf (s : State) (k : Nat) : Nat :=
  let rto := (match f (rrpCfg s) 23 16 with | 0 => 50 | n => n) * 10000
  if s.rrp.state = 2 then rtoMax else min (rto * 2 ^ k) rtoMax

/-- RRP_RETRANSMIT: every message of the window goes again; after 16 retries of the oldest the session is lost, and reads of
cancelled work are dropped (06 R204). -/
def execRrpRetransmit (s : State) : Host.Outcome State Fault Refusal :=
  let r := s.rrp
  match r.unacked with
  | [] => .next s
  | m :: _ =>
    if r.state = 0 ∨ s.elapsed - m.sent < rtoOf s m.retries then .next s else
    let n := min r.unacked.length 256
    let again := r.unacked.zipIdx.map fun x =>
      if x.2 < 256 then { x.1 with retries := x.1.retries + 1, sent := s.elapsed } else x.1
    let lost := r.state == 1 && decide (16 ≤ m.retries + 1)
    let s := bumpBy { s with rrp := { r with unacked := again, state := if lost then 2 else r.state } } 0xC004028 n
    .next (if lost then logAdd (loseReads s) 0x0215 12 1 1 else s)

end Sys2Proof.Machine
end

