-- ==== Sys2Proof/Machine/Dispatch.lean ====
section
/-! DEFINITION. One arm for each command: a direct call of its meaning. -/
namespace Sys2Proof.Machine

/-- The effect of a command on everything but the queue. -/
def exec (i : Instr) (s : State) : Host.Outcome State Fault Refusal :=
  match i with
  | .registerWrite w addr width value => Sys2Proof.Machine.execRegisterWrite w addr width value s
  | .loReadCapture w addr width => Sys2Proof.Machine.execLoReadCapture w addr width s
  | .rcCounterRead w addr width => Sys2Proof.Machine.execRcCounterRead w addr width s
  | .powerUp group1 group2 refclk => Sys2Proof.Machine.execPowerUp group1 group2 refclk s
  | .resetNRelease bootSel nor => Sys2Proof.Machine.execResetNRelease bootSel nor s
  | .resetNAssert => Sys2Proof.Machine.execResetNAssert s
  | .fullReset order => Sys2Proof.Machine.execFullReset order s
  | .partialReset order => Sys2Proof.Machine.execPartialReset order s
  | .arrRangeTimeout => Sys2Proof.Machine.execArrRangeTimeout s
  | .wavePowerUp wave inRange => Sys2Proof.Machine.execWavePowerUp wave inRange s
  | .podSelfTestDone failed => Sys2Proof.Machine.execPodSelfTestDone failed s
  | .lpddrTrainingDone gib failedMask => Sys2Proof.Machine.execLpddrTrainingDone gib failedMask s
  | .marchBlockDone result => Sys2Proof.Machine.execMarchBlockDone result s
  | .leekTestDone fail0 fail1 => Sys2Proof.Machine.execLeekTestDone fail0 fail1 s
  | .microcodeLoaded => Sys2Proof.Machine.execMicrocodeLoaded s
  | .topoGo w value => Sys2Proof.Machine.execTopoGo w value s
  | .topoCtrlWrite w value => Sys2Proof.Machine.execTopoCtrlWrite w value s
  | .imageVerify stavcorOk certOk ownerOk => Sys2Proof.Machine.execImageVerify stavcorOk certOk ownerOk s
  | .offerTimer => Sys2Proof.Machine.execOfferTimer s
  | .offer port id len => Sys2Proof.Machine.execOffer port id len s
  | .pull port id chunk tag => Sys2Proof.Machine.execPull port id chunk tag s
  | .relayData port chunk tag data => Sys2Proof.Machine.execRelayData port chunk tag data s
  | .sqDb w pair value => Sys2Proof.Machine.execSqDb w pair value s
  | .cqDb w pair value => Sys2Proof.Machine.execCqDb w pair value s
  | .resDb w stream value => Sys2Proof.Machine.execResDb w stream value s
  | .pairCfgWrite w pair value => Sys2Proof.Machine.execPairCfgWrite w pair value s
  | .descriptorFetch => Sys2Proof.Machine.execDescriptorFetch s
  | .nop wid => Sys2Proof.Machine.execNop wid s
  | .arrayOp wid => Sys2Proof.Machine.execArrayOp wid s
  | .conv wid e => Sys2Proof.Machine.execConv wid e s
  | .convDw wid e => Sys2Proof.Machine.execConvDw wid e s
  | .matmul wid e => Sys2Proof.Machine.execMatmul wid e s
  | .wino3 wid e => Sys2Proof.Machine.execWino3 wid e s
  | .s2d wid e => Sys2Proof.Machine.execS2d wid e s
  | .d2s wid e => Sys2Proof.Machine.execD2s wid e s
  | .pool wid e => Sys2Proof.Machine.execPool wid e s
  | .argmaxC wid e => Sys2Proof.Machine.execArgmaxC wid e s
  | .eltw wid e => Sys2Proof.Machine.execEltw wid e s
  | .convert wid e => Sys2Proof.Machine.execConvert wid e s
  | .copy wid e => Sys2Proof.Machine.execCopy wid e s
  | .measure wid e => Sys2Proof.Machine.execMeasure wid e s
  | .prefetchBlock stream wid addr dst step e => Sys2Proof.Machine.execPrefetchBlock stream wid addr dst step e s
  | .multicastSlotRelease dst member => Sys2Proof.Machine.execMulticastSlotRelease dst member s
  | .bandCounterWake stream lidx band op rows => Sys2Proof.Machine.execBandCounterWake stream lidx band op rows s
  | .tileCompletion wid lidx tile => Sys2Proof.Machine.execTileCompletion wid lidx tile s
  | .operationComplete wid => Sys2Proof.Machine.execOperationComplete wid s
  | .partialCombine stream band op e => Sys2Proof.Machine.execPartialCombine stream band op e s
  | .bandReady stream ops steps => Sys2Proof.Machine.execBandReady stream ops steps s
  | .bandKept stream heads => Sys2Proof.Machine.execBandKept stream heads s
  | .preempt wid => Sys2Proof.Machine.execPreempt wid s
  | .dma wid e => Sys2Proof.Machine.execDma wid e s
  | .dmaDone wid => Sys2Proof.Machine.execDmaDone wid s
  | .admit_ wid x => Sys2Proof.Machine.execAdmit wid x s
  | .release wid => Sys2Proof.Machine.execRelease wid s
  | .streamDrained stream => Sys2Proof.Machine.execStreamDrained stream s
  | .start wid e => Sys2Proof.Machine.execStart wid e s
  | .resume wid e => Sys2Proof.Machine.execResume wid e s
  | .halt wid => Sys2Proof.Machine.execHalt wid s
  | .streamFault stream f => Sys2Proof.Machine.execStreamFault stream f s
  | .haltRecord stream => Sys2Proof.Machine.execHaltRecord stream s
  | .cancel wid => Sys2Proof.Machine.execCancel wid s
  | .cancelDrained wid => Sys2Proof.Machine.execCancelDrained wid s
  | .camCtrl wid => Sys2Proof.Machine.execCamCtrl wid s
  | .cameraAck wid code data => Sys2Proof.Machine.execCameraAck wid code data s
  | .camCtrlTimeout wid => Sys2Proof.Machine.execCamCtrlTimeout wid s
  | .flushTracks wid => Sys2Proof.Machine.execFlushTracks wid s
  | .flip wid => Sys2Proof.Machine.execFlip wid s
  | .resultRing wid => Sys2Proof.Machine.execResultRing wid s
  | .attest wid => Sys2Proof.Machine.execAttest wid s
  | .sign wid => Sys2Proof.Machine.execSign wid s
  | .hash wid => Sys2Proof.Machine.execHash wid s
  | .verify wid valid => Sys2Proof.Machine.execVerify wid valid s
  | .seal wid => Sys2Proof.Machine.execSeal wid s
  | .macsecCak wid opened => Sys2Proof.Machine.execMacsecCak wid opened s
  | .random wid => Sys2Proof.Machine.execRandom wid s
  | .readCert wid => Sys2Proof.Machine.execReadCert wid s
  | .completionWrite pair => Sys2Proof.Machine.execCompletionWrite pair s
  | .resultRecordWrite stream => Sys2Proof.Machine.execResultRecordWrite stream s
  | .coalesceTimer pair => Sys2Proof.Machine.execCoalesceTimer pair s
  | .open_ sigOk => Sys2Proof.Machine.execOpen sigOk s
  | .openFragmentTimeout => Sys2Proof.Machine.execOpenFragmentTimeout s
  | .doorbell h target n index => Sys2Proof.Machine.execDoorbell h target n index s
  | .readResp h req data => Sys2Proof.Machine.execReadResp h req data s
  | .ack h => Sys2Proof.Machine.execAck h s
  | .regRead h addr => Sys2Proof.Machine.execRegRead h addr s
  | .regWrite h addr value => Sys2Proof.Machine.execRegWrite h addr value s
  | .keepalive h => Sys2Proof.Machine.execKeepalive h s
  | .rrpRetransmit => Sys2Proof.Machine.execRrpRetransmit s
  | .lineHeader port image line area gap triggered => Sys2Proof.Machine.execLineHeader port image line area gap triggered s
  | .lineArrival port pixels bad => Sys2Proof.Machine.execLineArrival port pixels bad s
  | .cameraLinkUp port lanes rate => Sys2Proof.Machine.execCameraLinkUp port lanes rate s
  | .cameraEventPacket port data => Sys2Proof.Machine.execCameraEventPacket port data s
  | .cameraLoss port linkDown => Sys2Proof.Machine.execCameraLoss port linkDown s
  | .encoderEdge e q => Sys2Proof.Machine.execEncoderEdge e q s
  | .triggerDeferred chan => Sys2Proof.Machine.execTriggerDeferred chan s
  | .odoSourceReturn => Sys2Proof.Machine.execOdoSourceReturn s
  | .positionMessage payload => Sys2Proof.Machine.execPositionMessage payload s
  | .correctionStart => Sys2Proof.Machine.execCorrectionStart s
  | .ppsEdge => Sys2Proof.Machine.execPpsEdge s
  | .linePositionEval chan => Sys2Proof.Machine.execLinePositionEval chan s
  | .outputLine chan => Sys2Proof.Machine.execOutputLine chan s
  | .standstill chan => Sys2Proof.Machine.execStandstill chan s
  | .areaFrame chan => Sys2Proof.Machine.execAreaFrame chan s
  | .lineReserveRelease chan => Sys2Proof.Machine.execLineReserveRelease chan s
  | .degradeStep stream => Sys2Proof.Machine.execDegradeStep stream s
  | .shedStep => Sys2Proof.Machine.execShedStep s
  | .lineDueDeadline chan => Sys2Proof.Machine.execLineDueDeadline chan s
  | .returnStep stream => Sys2Proof.Machine.execReturnStep stream s
  | .detection stream x => Sys2Proof.Machine.execDetection stream x s
  | .watermark group src time => Sys2Proof.Machine.execWatermark group src time s
  | .sourceTimeout group src => Sys2Proof.Machine.execSourceTimeout group src s
  | .criticalCompare stream head x => Sys2Proof.Machine.execCriticalCompare stream head x s
  | .criticalThirdRun stream head x => Sys2Proof.Machine.execCriticalThirdRun stream head x s
  | .spoolBufferRequest stream ask => Sys2Proof.Machine.execSpoolBufferRequest stream ask s
  | .spoolDeadlockCheck => Sys2Proof.Machine.execSpoolDeadlockCheck s
  | .spillRestore stream => Sys2Proof.Machine.execSpillRestore stream s
  | .enforcementWindow => Sys2Proof.Machine.execEnforcementWindow s
  | .ddrShareWrite w value => Sys2Proof.Machine.execDdrShareWrite w value s
  | .selfRefreshEntry pair => Sys2Proof.Machine.execSelfRefreshEntry pair s
  | .rtbW3Write w n value => Sys2Proof.Machine.execRtbW3Write w n value s
  | .windowCtrlWrite w n value => Sys2Proof.Machine.execWindowCtrlWrite w n value s
  | .resSet w value => Sys2Proof.Machine.execResSet w value s
  | .resClr w value => Sys2Proof.Machine.execResClr w value s
  | .autoRefill stream => Sys2Proof.Machine.execAutoRefill stream s
  | .poolAlloc w p => Sys2Proof.Machine.execPoolAlloc w p s
  | .poolFree w p value => Sys2Proof.Machine.execPoolFree w p value s
  | .leekHalfPowerDown half => Sys2Proof.Machine.execLeekHalfPowerDown half s
  | .displayEnable d trains psrSink => Sys2Proof.Machine.execDisplayEnable d trains psrSink s
  | .displayDisable w d => Sys2Proof.Machine.execDisplayDisable w d s
  | .hpdEvent d ev => Sys2Proof.Machine.execHpdEvent d ev s
  | .auxCmd w d value => Sys2Proof.Machine.execAuxCmd w d value s
  | .auxDone d reply => Sys2Proof.Machine.execAuxDone d reply s
  | .commit w d value => Sys2Proof.Machine.execCommit w d value s
  | .frameLatch d => Sys2Proof.Machine.execFrameLatch d s
  | .frameStart d => Sys2Proof.Machine.execFrameStart d s
  | .underrun d => Sys2Proof.Machine.execUnderrun d s
  | .linkFrame port frame => Sys2Proof.Machine.execLinkFrame port frame s
  | .linkAckTimeout port => Sys2Proof.Machine.execLinkAckTimeout port s
  | .linkRetry port expected => Sys2Proof.Machine.execLinkRetry port expected s
  | .credit port vc cells => Sys2Proof.Machine.execCredit port vc cells s
  | .ident port data => Sys2Proof.Machine.execIdent port data s
  | .fabricWrite p => Sys2Proof.Machine.execFabricWrite p s
  | .fabricRead p => Sys2Proof.Machine.execFabricRead p s
  | .readData p => Sys2Proof.Machine.execReadData p s
  | .done p => Sys2Proof.Machine.execDone p s
  | .refuse p => Sys2Proof.Machine.execRefuse p s
  | .assoc p => Sys2Proof.Machine.execAssoc p s
  | .wmark p => Sys2Proof.Machine.execWmark p s
  | .e2eTimeout tag => Sys2Proof.Machine.execE2eTimeout tag s
  | .assocResend => Sys2Proof.Machine.execAssocResend s
  | .portTraining port t => Sys2Proof.Machine.execPortTraining port t s
  | .portDown port reason => Sys2Proof.Machine.execPortDown port reason s
  | .reconcileReq port p => Sys2Proof.Machine.execReconcileReq port p s
  | .reconcileRsp port p => Sys2Proof.Machine.execReconcileRsp port p s
  | .reconcileTimeout port => Sys2Proof.Machine.execReconcileTimeout port s
  | .routeNotice port origin originPort pstate seq => Sys2Proof.Machine.execRouteNotice port origin originPort pstate seq s
  | .routeRebuild => Sys2Proof.Machine.execRouteRebuild s
  | .portRetrain port => Sys2Proof.Machine.execPortRetrain port s
  | .holdTimeout => Sys2Proof.Machine.execHoldTimeout s
  | .ethFrame q f => Sys2Proof.Machine.execEthFrame q f s
  | .gptpMessage g => Sys2Proof.Machine.execGptpMessage g s
  | .syncTimeout => Sys2Proof.Machine.execSyncTimeout s
  | .timeSet w hi => Sys2Proof.Machine.execTimeSet w hi s
  | .qbvCycleStart q => Sys2Proof.Machine.execQbvCycleStart q s
  | .mkaFailover q => Sys2Proof.Machine.execMkaFailover q s
  | .sakRotate q => Sys2Proof.Machine.execSakRotate q s
  | .debugUnlock valid => Sys2Proof.Machine.execDebugUnlock valid s
  | .governorTick rates power agree => Sys2Proof.Machine.execGovernorTick rates power agree s
  | .thermalTick temps => Sys2Proof.Machine.execThermalTick temps s
  | .hardwareTrip => Sys2Proof.Machine.execHardwareTrip s
  | .supplyFault rail microvolt => Sys2Proof.Machine.execSupplyFault rail microvolt s
  | .pllLockLoss kind inst => Sys2Proof.Machine.execPllLockLoss kind inst s
  | .podFailure pod agree => Sys2Proof.Machine.execPodFailure pod agree s
  | .conservationCheck => Sys2Proof.Machine.execConservationCheck s
  | .sproutHeartbeatTimeout => Sys2Proof.Machine.execSproutHeartbeatTimeout s
  | .supervisorHeartbeatTimeout => Sys2Proof.Machine.execSupervisorHeartbeatTimeout s
  | .idleEntry => Sys2Proof.Machine.execIdleEntry s
  | .dormantRequest w value => Sys2Proof.Machine.execDormantRequest w value s
  | .wake source digestOk => Sys2Proof.Machine.execWake source digestOk s
  | .maintStart w value agree => Sys2Proof.Machine.execMaintStart w value agree s
  | .maintStop w value => Sys2Proof.Machine.execMaintStop w value s
  | .maintPeriodicStart activity target => Sys2Proof.Machine.execMaintPeriodicStart activity target s
  | .maintUnitDone token last failed e => Sys2Proof.Machine.execMaintUnitDone token last failed e s
  | .consSnap w value => Sys2Proof.Machine.execConsSnap w value s
  | .cameraHeartbeat port => Sys2Proof.Machine.execCameraHeartbeat port s
  | .ethernetLinkChange q up => Sys2Proof.Machine.execEthernetLinkChange q up s
  | .pllRelock kind inst => Sys2Proof.Machine.execPllRelock kind inst s
  | .supplyRestored rail => Sys2Proof.Machine.execSupplyRestored rail s
  | .suppliesRemoved => Sys2Proof.Machine.execSuppliesRemoved s
  | .selfRefreshExit pair => Sys2Proof.Machine.execSelfRefreshExit pair s
  | .wckDqCheck ch => Sys2Proof.Machine.execWckDqCheck ch s
  | .perBankRefresh ch accesses => Sys2Proof.Machine.execPerBankRefresh ch accesses s
  | .coreMemoryAccess a e => Sys2Proof.Machine.execCoreMemoryAccess a e s

end Sys2Proof.Machine
end

