-- ==== Sys2Proof/Safety.lean ====
section
/-! DEFINITION. The terms in which the claims speak: sound states, what a command leaves unchanged, and where completions
lie. -/
namespace Sys2Proof.Machine

/-- A table of numbered things is sorted by number, each at most once. -/
def Tab.wf {α : Type} : Tab α → Bool
  | [] => true
  | (k, _) :: t => (t.all fun e => decide (k < e.1)) && Tab.wf t

/-- Address of a register from its address less 0x60_0000_0000. -/
abbrev regAddr (a : Nat) : Nat := 0x6000000000 + a

/-- Every stored register but those of a list is unchanged. -/
def regsKept (s t : State) (but : List Nat) : Prop := ∀ a, a ∉ but → regGet t a = regGet s a

/-- One counter register counts up by n, to its largest value at most, and no other stored register changes. -/
def counted (s t : State) (a n : Nat) : Prop := regsKept s t [a] ∧ regGet t a = min (regGet s a + n) (2 ^ 32 - 1)

/-- Every stream but one is unchanged. -/
def streamsKept (s t : State) (n : Nat) : Prop := ∀ m, m ≠ n → streamGet t m = streamGet s m

/-- Every work but one is unchanged. -/
def worksKept (s t : State) (k : Nat) : Prop := ∀ j, j ≠ k → workGet t j = workGet s j

/-- Every ring pair but one is unchanged. -/
def pairsKept (s t : State) (p : Nat) : Prop := ∀ q, q ≠ p → pairGet t q = pairGet s q

/-- Every byte of memory is unchanged. -/
def bytesKept (s t : State) : Prop := ∀ a, memGet t.mem a = memGet s.mem a

/-- Every byte of memory outside a run is unchanged. -/
def bytesKeptOutside (s t : State) (a n : Nat) : Prop := ∀ x, x < a ∨ a + n ≤ x → memGet t.mem x = memGet s.mem x

/-- Address of the completion slot that a pair's next completion takes (09 R281, R283). -/
def cqSlot (s : State) (p : Nat) : Nat :=
  reg64 s (0x5001008 + p * 0x40) + (pairGet s p).cqTail % 2 ^ cqLog2 s p * 16

/-- A completion can be written at once into the ring of a local pair: a slot has been returned, none waits before it,
and the slot may be written. -/
def cqWritable (s : State) (p : Nat) : Prop :=
  cqRoom s p = true ∧ pairRemote s p = false ∧ (pairGet s p).wait = [] ∧
    checkRange s (writeBy 0 0) (cqSlot s p) 16 = none ∧ poisonPartial s (cqSlot s p) 16 = none

/-- The log holds an entry of a code with an argument. -/
def logged (s : State) (code arg : Nat) : Prop := ∃ e ∈ s.log, e.code = code ∧ e.arg = arg

/-- The physical pods of the powered waves that a self-test did not report (13 R423). -/
def goodPods (s : State) (failed : List (Nat × Nat)) : List Nat :=
  (List.range 104).filter fun p => s.boot.waves.contains (p / 13) && !failed.any fun x => x.1 == p

/-- The row of an array operation's opcode (04 R108). -/
def arrayRow (wid : Nat) (e : MemErrs) : Nat → Option Instr
  | 1 => some (.conv wid e)
  | 2 => some (.convDw wid e)
  | 3 => some (.matmul wid e)
  | 4 => some (.wino3 wid e)
  | 5 => some (.s2d wid e)
  | 6 => some (.d2s wid e)
  | 7 => some (.pool wid e)
  | 8 => some (.argmaxC wid e)
  | 9 => some (.eltw wid e)
  | 10 => some (.convert wid e)
  | 11 => some (.copy wid e)
  | 12 => some (.measure wid e)
  | _ => none

/-- A byte is one of those that writes name. -/
def writtenBy (l : List (Nat × Nat × List Byte)) (a : Nat) : Prop := ∃ w ∈ l, w.2.1 ≤ a ∧ a < w.2.1 + w.2.2.length

/-- What every step keeps: memory in its canonical form, the log within its size, its count within 32 bits. -/
def soundState (s : State) : Prop := Memory.wf s.mem = true ∧ s.log.length ≤ 16384 ∧ s.logHead < 2 ^ 32

/-- The rows and columns of a function of row and column. -/
def grid (rows cols : Nat) (g : Nat → Nat → Int) : List (List Int) :=
  (List.range rows).map fun i => (List.range cols).map fun j => g i j

end Sys2Proof.Machine
end

