-- ==== Sys2Proof/Certificates/Slice0/Obligations.lean ====
section
/-! DEFINITION. The statements for the provers, in the order of OBLIGATIONS.json. -/
open Sys2Proof Sys2Proof.Machine

/-- One step with a command waiting is that command, with the queue's rest. With no command waiting the block waits one
nanosecond (log entry 1): elapsed time advances, the time base with it where it runs, and what is still to be slewed is
neither lost nor made; where no display runs, no mean of the odometry is due and no stream is admitted, nothing else
changes. -/
def Obligations.StepRunsTheFrontCommandOrWaits : Prop :=
  (∀ (c : Instr) (rest : List Instr) (s : State), s.pending = c :: rest → step s = exec c { s with pending := rest }) ∧
  (∀ s : State, s.pending = [] → ∃ t, step s = .next t ∧ t.pending = [] ∧ t.elapsed = s.elapsed + 1 ∧
    s.time ≤ t.time ∧ t.time ≤ s.time + 2 ∧
    (timeRunning s = false → t.time = s.time ∧ t.eth = s.eth) ∧
    (timeRunning s = true → (t.time : Int) + t.eth.slew = s.time + s.eth.slew + 1) ∧
    ((∀ d, d < 2 → (dispGet s d).running = false) → s.odo.means = [] → odoMode s ≠ 3 →
      (∀ e ∈ s.streams, e.2.state = .free) →
      t = { s with time := t.time, elapsed := s.elapsed + 1, eth := { s.eth with slew := t.eth.slew } }))

/-- A FLIP of the output's holder whose plane set is well formed and granted becomes the pending set and waits; one of another
stream is an error; a commit by the registers does the same for owner 0 (11 R361 to R366, 09 R290). At the latch point, which
comes when the frame's lines are over, the pending set becomes current and its time is recorded (11 R358, R365); the start of the
next frame, once its time has come (11 R359, R360), counts it and is announced on a link that is up, and a frame of a faulted set is
recorded as aborted (11 R368, R372). Completes: FLIP, COMMIT, FRAME_LATCH, FRAME_START. -/
def Obligations.PlaneSetsAreCommittedAndLatched : Prop :=
  (∀ (wid d : Nat) (w : Work) (b : List Byte) (s : State), startedAs s wid 0x0B = some w → w.cancelled = false →
    leAt w.desc 8 1 = d →
    (1 < d ∨ w.stream ≠ dispHolder s d → exec (.flip wid) s = .next (completeErr s wid 0x01)) ∧
    (d ≤ 1 → w.stream = dispHolder s d → (dispGet s d).psr = false → frameOver s d = false →
      (dispGet s d).running = false ∨ (dispGet s d).part = .active → (dispGet s d).pending = none → leAt w.desc 16 8 % 64 = 0 →
      devRead s (readBy w.stream 0) (leAt w.desc 16 8) 64 = .ok b → planeErr s d b = none →
      ∃ t, exec (.flip wid) s = .next t ∧ workGet t wid = some { w with phase := .waiting } ∧
        (dispGet t d).pending = some ⟨b, w.stream, some wid, false, planeHolder s d⟩ ∧
        (dispGet t d).current = (dispGet s d).current ∧ t.mem = s.mem ∧ ∀ a, regGet t a = regGet s a)) ∧
  (∀ (w : Writer) (d : Nat) (v : Word) (b : List Byte) (s : State), d < 2 → mayWrite s w = true →
    (v.toNat % 2 = 0 → exec (.commit w d v) s = .next { s with resp := ⟨0, false⟩ }) ∧
    (v.toNat % 2 = 1 → (dispGet s d).psr = false → frameOver s d = false → (dispGet s d).running = false ∨ (dispGet s d).part = .active →
      (dispGet s d).pending = none → reg64 s (dispBase d + 0x20) % 64 = 0 →
      devRead s (readBy 0 0) (reg64 s (dispBase d + 0x20)) 64 = .ok b → planeErr s d b = none →
      ∃ t, exec (.commit w d v) s = .next t ∧ (dispGet t d).pending = some ⟨b, 0, none, false, planeHolder s d⟩ ∧
        (dispGet t d).current = (dispGet s d).current ∧ t.works = s.works ∧ t.mem = s.mem ∧ t.log = s.log ∧
        ∀ a, regGet t a = regGet s a)) ∧
  (∀ (d : Nat) (p : Plane) (s : State), d < 2 → frameOver s d = true → (dispGet s d).pending = some p → s.time < 2 ^ 64 →
    ∃ t, exec (.frameLatch d) s = .next t ∧ (dispGet t d).current = some p ∧ (dispGet t d).pending = none ∧
      (dispGet t d).fresh = true ∧ (dispGet t d).part = .blank ∧ reg64 t (dispBase d + 0x48) = s.time ∧ (p.wid = none → t.mem = s.mem) ∧
      ∀ e, e ≠ d → dispGet t e = dispGet s e) ∧
  (∀ (d : Nat) (s : State), d < 2 → (dispGet s d).running = true → (dispGet s d).psr = false → (dispGet s d).part = .blank →
    frameDue s d = true → s.time < 2 ^ 64 →
    ((dispGet s d).faulted = false → s.power.unlocked.contains (2, d) = false →
      ∃ t, exec (.frameStart d) s = .next t ∧ dispFrame t d = (dispFrame s d + 1) % 2 ^ 64 ∧ (dispGet t d).part = .active ∧
        (dispGet t d).started = s.elapsed ∧ (dispGet t d).fresh = false ∧ (dispGet t d).line = 0 ∧
        (dispGet t d).aborted = false ∧ (dispGet t d).underrun = false ∧ (dispGet t d).buf = (dispGet s d).buf ∧
        (dispGet t d).current = (dispGet s d).current ∧ (dispGet t d).pending = (dispGet s d).pending ∧
        regsKept s t [dispBase d + 0x38, dispBase d + 0x3C, dispBase d + 0x50, dispBase d + 0x54] ∧
        ((dispGet s d).fresh = true → reg64 t (dispBase d + 0x50) = s.time) ∧
        t.out = (if bitOf (dispReg s d 0x30) 29 then .frame d (dispFrame t d) (frameAttrs s d) :: s.out else s.out) ∧
        t = { s with regs := t.regs, disps := t.disps, out := t.out }) ∧
    ((dispGet s d).faulted = true →
      ∃ t, exec (.frameStart d) s = .next t ∧ dispFrame t d = (dispFrame s d + 1) % 2 ^ 64 ∧ (dispGet t d).part = .active ∧
        (dispGet t d).aborted = true ∧ bitOf (dispReg t d 0x40) 31 = true ∧
        dispReg t d 0x60 = min (dispReg s d 0x60 + 1) (2 ^ 32 - 1) ∧
        t = { s with regs := t.regs, disps := t.disps, out := t.out }))

/-- An enabled output with its sink present trains at the first setting of its order at which the sink trains and the link
carries the mode, or logs that none does (11 R354, R355); HPD levels and pulses set and drop the link (11 R357); an AUX
transaction goes out with the bytes of a write and shows busy until its result (11 R356); a missing pixel aborts the frame, counts
and logs it once, and marks where its line goes on in the fill colour (11 R371); a write that clears enable stops the output (11 R375). Completes: DISPLAY_ENABLE, HPD_EVENT, AUX_CMD,
AUX_DONE, UNDERRUN, DISPLAY_DISABLE. -/
def Obligations.DisplayLinksAndUnderruns : Prop :=
  (∀ (d : Nat) (tr : List (Nat × Nat)) (sink : Bool) (s : State), d < 2 → dispEnabled s d = true →
    bitOf (dispReg s d 0x30) 30 = true → bitOf (dispReg s d 0x30) 29 = false →
    (∀ l r, (trainOrder (dispCfg s d)).find? (fun t => tr.contains t && linkCarries s d t.1 t.2) = some (l, r) →
      ∃ t, exec (.displayEnable d tr sink) s = .next t ∧ bitOf (dispReg t d 0x30) 29 = true ∧
        f (dispReg t d 0x30) 28 27 = l % 4 ∧ f (dispReg t d 0x30) 26 23 = r % 16 ∧ (dispGet t d).psrSink = sink ∧
        regsKept s t [dispBase d + 0x30] ∧ logged t 0x0212 ((d + 2 ^ 8 + 2 ^ 9 * l + 2 ^ 11 * r) % 2 ^ 32) ∧
        t = { s with regs := t.regs, disps := t.disps, log := t.log, logHead := t.logHead }) ∧
    ((∀ x ∈ trainOrder (dispCfg s d), x ∈ tr → linkCarries s d x.1 x.2 = false) →
      ∃ t, exec (.displayEnable d tr sink) s = .next t ∧ logged t 0x021A d ∧ t = { s with log := t.log, logHead := t.logHead })) ∧
  (∀ (d : Nat) (s : State), d < 2 →
    (∃ t, exec (.hpdEvent d .high) s = .next t ∧ bitOf (dispReg t d 0x30) 30 = true ∧ regsKept s t [dispBase d + 0x30] ∧
      t = { s with regs := t.regs }) ∧
    (bitOf (dispReg s d 0x30) 29 = true →
      ∃ t, exec (.hpdEvent d .pulseLost) s = .next t ∧ bitOf (dispReg t d 0x30) 29 = false ∧ regsKept s t [dispBase d + 0x30] ∧
        (dispGet t d).linked = false ∧ logged t 0x0212 d ∧
        t = { s with regs := t.regs, disps := t.disps, log := t.log, logHead := t.logHead })) ∧
  (∀ (w : Writer) (d : Nat) (v : Word) (s : State), d < 2 → mayWrite s w = true → f v.toNat 26 24 < 4 →
    bitOf (dispReg s d 0x84) 31 = false →
    ∃ t, exec (.auxCmd w d v) s = .next t ∧ dispReg t d 0x84 = 2 ^ 31 ∧ (dispGet t d).auxCmd = v.toNat % 2 ^ 28 ∧
      (∃ b, t.out = .aux d (v.toNat % 2 ^ 28) b :: s.out ∧ (f v.toNat 24 24 = 1 → b = []) ∧
        (f v.toNat 24 24 = 0 → b.length = f v.toNat 23 20 + 1)) ∧ regsKept s t [dispBase d + 0x84] ∧
      t = { s with regs := t.regs, disps := t.disps, out := t.out, resp := ⟨0, false⟩ }) ∧
  (∀ (d : Nat) (r : AuxReply) (s : State), d < 2 → bitOf (dispReg s d 0x84) 31 = true → f (dispGet s d).auxCmd 26 24 % 2 = 0 →
    ∃ t, exec (.auxDone d r) s = .next t ∧ regsKept s t [dispBase d + 0x84] ∧ t = { s with regs := t.regs } ∧
      dispReg t d 0x84 = (r.data.take (min 16 (f (dispGet s d).auxCmd 23 20 + 1))).length * 8 + r.code % 8) ∧
  (∀ (d : Nat) (s : State), d < 2 → (dispGet s d).current.isSome = true → (dispGet s d).running = true →
    (dispGet s d).psr = false → (dispGet s d).part = .active → (dispGet s d).faulted = false →
    (dispGet s d).underrun = false → (dispGet s d).aborted = false → (dispGet s d).line < (dispGet s d).last →
    ∃ t, exec (.underrun d) s = .next t ∧ (dispGet t d).underrun = true ∧ (dispGet t d).aborted = true ∧
      (dispGet t d).line = (dispGet s d).line ∧ (∃ k, (dispGet t d).under = some ((dispGet s d).line, k) ∧ k ≤ hActive s d) ∧
      dispReg t d 0x5C = min (dispReg s d 0x5C + 1) (2 ^ 32 - 1) ∧
      dispReg t d 0x60 = min (dispReg s d 0x60 + 1) (2 ^ 32 - 1) ∧ bitOf (dispReg t d 0x40) 31 = true ∧
      regsKept s t [dispBase d + 0x5C, dispBase d + 0x60, dispBase d + 0x40, dispBase d + 0x64, 0x4002008, 0x400200C] ∧
      logged t 0x0211 (d + 2 ^ 8 * (dispFrame s d % 2 ^ 24)) ∧
      t = { s with regs := t.regs, disps := t.disps, log := t.log, logHead := t.logHead, ddr := t.ddr }) ∧
  (∀ (w : Writer) (d : Nat) (s : State), d < 2 → mayWrite s w = true → dispEnabled s d = true →
    (∀ r i j, namedReg (regAddr (dispBase d)) 4 = some (r, i, j) →
      setF (dispCfg s d) 31 31 0 &&& (r.rw ||| r.wo) = setF (dispCfg s d) 31 31 0 ∧ r.legal (setF (dispCfg s d) 31 31 0) = true) →
    dispCfg s d % 256 = 0 →
    ∃ t, exec (.displayDisable w d) s = .next t ∧ dispEnabled t d = false ∧ (dispGet t d).running = false ∧
      (dispGet t d).psr = false ∧ bitOf (dispReg t d 0x30) 29 = false ∧ powered t 5 = dispEnabled s (1 - d) ∧
      (dispGet t d).pending = none ∧ (dispGet t d).current = none ∧ ((dispGet s d).pending = none → t.mem = s.mem))

/-- A WRITE that reaches this node and is granted is stored whole and answered by DONE, a READ is answered with the bytes; a
malformed one is refused with reason 8; during a partial reset both are held, and refused as busy when they have waited 2 ms;
a RECONCILE_REQ is answered with the last sequence number accepted (12 R388 to R390, R405). A response that answers an
outstanding request ends it, a READ_DATA with its bytes for the work that asked; a refusal is counted, and one that says busy
completes the work as refused; a request without a response ends after its timeout; an ASSOC or WMARK is sent again every 1 ms
and stays outstanding (12 R388, R390, R391, R405). Completes: FABRIC_WRITE, FABRIC_READ, HOLD_TIMEOUT, RECONCILE_REQ,
READ_DATA, DONE, REFUSE, E2E_TIMEOUT, ASSOC_RESEND. -/
def Obligations.FabricRequestsAndResponses : Prop :=
  ((∀ (p : Packet) (s : State), reaches s p 0x01 = true → resetting s = false →
    (requestOk p p.data.length = true → p.dlen * 16 = p.data.length → fabricStop s p p.data.length true = none →
      poisonPartial s p.addr p.data.length = none → Memory.wf s.mem = true →
      ∃ u, exec (.fabricWrite p) s = .next (respond u p 0x04 0 []) ∧ memGetN u.mem p.addr p.data.length = p.data ∧
        bytesKeptOutside s u p.addr p.data.length ∧ u = { s with mem := u.mem, poison := u.poison, ddr := u.ddr }) ∧
    (requestOk p p.data.length = false ∨ p.dlen * 16 ≠ p.data.length →
      exec (.fabricWrite p) s = .next (refuseTo s p 8))) ∧
  (∀ (p : Packet) (s : State), reaches s p 0x02 = true → resetting s = false →
    (requestOk p (p.dlen * 16) = true → p.data = [] → fabricStop s p (p.dlen * 16) false = none →
      poisonIn s p.addr (p.dlen * 16) = none →
      ∃ u, exec (.fabricRead p) s = .next (respond u p 0x03 0 (memGetN s.mem p.addr (p.dlen * 16))) ∧ u = { s with ddr := u.ddr }) ∧
    (requestOk p (p.dlen * 16) = false → exec (.fabricRead p) s = .next (refuseTo s p 8))) ∧
  (∀ (p : Packet) (s : State), resetting s = true → heldBytes s + pkSize p ≤ 262144 →
    (reaches s p 0x01 = true ∨ reaches s p 0x02 = true) →
    ∃ t, (reaches s p 0x01 = true → exec (.fabricWrite p) s = .next t) ∧
      (reaches s p 0x02 = true → exec (.fabricRead p) s = .next t) ∧ t.fab = { s.fab with held := s.fab.held ++ [(p, s.elapsed)] } ∧
      counted s t 0xB000014 1 ∧ t = { s with fab := t.fab, regs := t.regs }) ∧
  (∀ (p : Packet) (t0 : Nat) (s : State), s.fab.held = [(p, t0)] → s.rrp.heldMsgs = [] → 2000000 ≤ s.elapsed - t0 →
    exec .holdTimeout s = .next (refuseTo { s with fab := { s.fab with held := [] } } p 4)) ∧
  (∀ s : State, ∃ t, exec .holdTimeout s = .next t ∧ t.mem = s.mem ∧ t.works = s.works ∧ t.streams = s.streams ∧
    t.fab.held = s.fab.held.filter (fun e => decide (s.elapsed - e.2 < 2000000)) ∧
    t.rrp.heldMsgs = s.rrp.heldMsgs.filter (fun e => decide (s.elapsed - e.2.1 < 2000000))) ∧
  (∀ (port : Nat) (p : Packet) (s : State), reaches s p 0x0B = true →
    exec (.reconcileReq port p) s = .next (respond s p 0x0C (((portGet s (p.addr % 256)).rxSeq + 4095) % 4096 +
      2 ^ 16 * b2n (fabState s (p.addr % 256) == 3)) []))) ∧
  ((∀ (p : Packet) (r : OutReq) (wid : Nat) (w : Work) (s : State), reaches s p 0x03 = true → resetting s = false →
    answered s p = some r → r.wid = some wid → workGet s wid = some w →
    ∃ t, exec (.readData p) s = .next t ∧ workGet t wid = some { w with buf := w.buf ++ [(r.packet.addr + edgeOff (decDma w.desc), p.data)] } ∧
      t = { s with works := t.works, fab := { s.fab with outstanding := s.fab.outstanding.filter fun q => q.tag != p.tag } } ∧
      worksKept s t wid) ∧
  (∀ (p : Packet) (s : State), reaches s p 0x04 = true → resetting s = false →
    ((answered s p).isSome = true → exec (.done p) s =
      .next { s with fab := { s.fab with outstanding := s.fab.outstanding.filter fun q => q.tag != p.tag } }) ∧
    (answered s p = none → ∃ t, exec (.done p) s = .next t ∧ counted s t 0xB000018 1 ∧ logged t 0x0208 (7 + 2 ^ 16) ∧
      t = { s with regs := t.regs, log := t.log, logHead := t.logHead })) ∧
  (∀ (p : Packet) (r : OutReq) (s : State), reaches s p 0x05 = true → resetting s = false → answered s p = some r →
    (resent r = true → ∃ t, exec (.refuse p) s = .next t ∧ t = { s with regs := t.regs } ∧ regsKept s t [0xB000010] ∧
      f (regGet t 0xB000010) 31 16 = min (f (regGet s 0xB000010) 31 16 + 1) 65535) ∧
    (resent r = false → p.addr % 256 = 4 → ∀ wid w, r.wid = some wid → workGet s wid = some w → w.pair.isSome = true →
      ∃ u, exec (.refuse p) s = .next (complete u wid 7 0) ∧ u.works = s.works ∧ regsKept s u [0xB000010] ∧
        f (regGet u 0xB000010) 31 16 = min (f (regGet s 0xB000010) 31 16 + 1) 65535 ∧
        ∀ q ∈ u.fab.outstanding, q.tag ≠ p.tag ∧ q.wid ≠ some wid)) ∧
  (∀ (tag : Nat) (r : OutReq) (s : State), (s.fab.outstanding.find? fun r => r.tag == tag) = some r → resent r = false →
    e2eTimeout s ≤ s.elapsed - r.sent →
    (r.wid = none → exec (.e2eTimeout tag) s =
      .next { s with fab := { s.fab with outstanding := s.fab.outstanding.filter fun q => q.tag != tag } }) ∧
    (∀ wid w op, r.wid = some wid → workGet s wid = some w → w.pair = none → w.op = some op →
      exec (.e2eTimeout tag) s =
        .next (raiseFault { s with fab := { s.fab with outstanding := s.fab.outstanding.filter fun q => q.tag != tag } } r.stream
          { plainFault 0x0B with addr := r.packet.addr, op := op.opIdx, ptr := (decOp op.block).ptr })) ∧
    (∀ wid w, r.wid = some wid → r.stream = 0 → workGet s wid = some w → w.pair.isSome = true →
      ∃ u, exec (.e2eTimeout tag) s = .next (complete u wid 4 (0x0B + 2 ^ 8 * 0xFF)) ∧ u.works = s.works ∧
        (∀ a, regGet u a = regGet s a) ∧ ∀ q ∈ u.fab.outstanding, q.tag ≠ tag ∧ q.wid ≠ some wid)) ∧
  (∀ s : State, ∃ t, exec .assocResend s = .next t ∧ t.mem = s.mem ∧ t.works = s.works ∧ t.streams = s.streams ∧
    t.fab.outstanding.map (·.tag) = s.fab.outstanding.map (·.tag) ∧
    ∀ q ∈ t.fab.outstanding, resent q = true → s.elapsed - q.sent < 1000000) ∧
  (∀ (r : OutReq) (s u v : State),
    (s.fab.outstanding.filter fun r => resent r && decide (1000000 ≤ s.elapsed - r.sent)) = [r] →
    u = { s with fab := { s.fab with outstanding := s.fab.outstanding.map fun q =>
      if q.tag = r.tag then { q with sent := s.elapsed } else q } } → routeOut u r.packet = .ok v →
    exec .assocResend s = .next v))

/-- A frame that fails decoding, CRC or form is counted and rejected; one in order releases the frames that it acknowledges, returns
cells, and keeps what it brings of a packet that goes on in the next (12 R379, R381, R382, R385); a retry request or an overdue acknowledgment sends the frames from the named one again and counts
them (12 R383); returned cells come back to their virtual channel (12 R385). Completes: LINK_FRAME, LINK_RETRY,
LINK_ACK_TIMEOUT, CREDIT. -/
def Obligations.LinkFramesAreRetriedAndCredited : Prop :=
  (∀ (p : Nat) (fr : LinkFrameIn) (s : State), fabUp s p = true → p < s.fab.ports.length →
    (fr.decoded = false ∨ rxCrcOk fr = false ∨ (9 < rxCvc fr ∧ rxCcnt fr ≠ 0) →
      ∃ u, exec (.linkFrame p fr) s = .next (rejectFrame u p) ∧ u = { s with regs := u.regs } ∧
        regsKept s u [0xB00100C + p * 0x40, 0xB001010 + p * 0x40] ∧
        regGet u (0xB001010 + p * 0x40) = min (regGet s (0xB001010 + p * 0x40) + 1) (2 ^ 32 - 1)) ∧
    (fr.decoded = true → rxCrcOk fr = true → rxCvc fr ≤ 9 ∨ rxCcnt fr = 0 → rxSeqOf fr = (portGet s p).rxSeq →
      rxIdle fr (portGet s p).rxPart = false →
      ∃ t, exec (.linkFrame p fr) s = .next t ∧ (portGet t p).rxSeq = ((portGet s p).rxSeq + 1) % 4096 ∧
        (portGet t p).rxPart = (rxCut fr (portGet s p).rxPart).2) ∧
    (fr.decoded = true → rxCrcOk fr = true → rxCvc fr ≤ 9 ∨ rxCcnt fr = 0 → rxSeqOf fr = (portGet s p).rxSeq → fr.corrected = 0 →
      (rxIdle fr (portGet s p).rxPart = true →
        ∃ u, exec (.linkFrame p fr) s = .next (drainAll u p) ∧ u = { s with fab := { s.fab with ports := u.fab.ports } } ∧
          portGet u p = { applyAck (portGet s p) (rxAck fr) with lastFrame := s.elapsed, retrySince := none } ∧
          ∀ q, q ≠ p → portGet u q = portGet s q) ∧
      (rxIdle fr (portGet s p).rxPart = false → (rxCut fr (portGet s p).rxPart).1 = [] →
        ∃ u, exec (.linkFrame p fr) s = .next (drainAll u p) ∧
          u = { s with fab := { s.fab with ports := u.fab.ports }, cons := u.cons } ∧
          portGet u p = { applyAck (portGet s p) (rxAck fr) with
            lastFrame := s.elapsed, retrySince := none, rxSeq := ((portGet s p).rxSeq + 1) % 4096,
            rxPart := (rxCut fr (portGet s p).rxPart).2,
            returned := modAt (portGet s p).returned (rxCvc fr) fun c =>
              c + min (rxCcnt fr) ((portGet s p).consumed.getD (rxCvc fr) 0 - (portGet s p).returned.getD (rxCvc fr) 0) } ∧
          ∀ q, q ≠ p → portGet u q = portGet s q))) ∧
  (∀ (p first : Nat) (s : State), fabUp s p = true → p < s.fab.ports.length → (portGet s p).retry ≠ [] →
    ∃ t, exec (.linkRetry p first) s = .next t ∧
      (portGet t p).retry = ((applyAck (portGet s p) first).retry.map fun fr =>
        if (fr.seq + 4096 - first) % 4096 < 1024 then { fr with resent := fr.resent + 1, sent := s.elapsed } else fr) ∧
      (∀ q, q ≠ p → portGet t q = portGet s q) ∧
      counted s t (0xB001008 + p * 0x40) ((applyAck (portGet s p) first).retry.filter fun fr =>
        decide ((fr.seq + 4096 - first) % 4096 < 1024)).length ∧
      t = { s with fab := { s.fab with ports := t.fab.ports }, regs := t.regs }) ∧
  (∀ (p : Nat) (fr : TxFrame) (rest : List TxFrame) (s : State), fabUp s p = true → p < s.fab.ports.length →
    (portGet s p).retry = fr :: rest → (if f (fabCfg s p) 23 16 = 0 then 8 else f (fabCfg s p) 23 16) * 1000 ≤ s.elapsed - fr.sent →
    ∃ t, exec (.linkAckTimeout p) s = .next t ∧
      (portGet t p).retry = ((fr :: rest).map fun x =>
        if (x.seq + 4096 - fr.seq) % 4096 < 1024 then { x with resent := x.resent + 1, sent := s.elapsed } else x) ∧
      regsKept s t [0xB001008 + p * 0x40] ∧ t = { s with fab := { s.fab with ports := t.fab.ports }, regs := t.regs }) ∧
  (∀ (p vc n : Nat) (s : State), fabUp s p = true → p < s.fab.ports.length → vc < 10 →
    (portGet s p).returned.length = 10 →
    ∃ u, exec (.credit p vc n) s = .next (drainAll u p) ∧ (portGet u p).consumed = (portGet s p).consumed ∧
      (portGet u p).returned[vc]? = some ((portGet s p).returned.getD vc 0 +
        min n ((portGet s p).consumed.getD vc 0 - (portGet s p).returned.getD vc 0)) ∧
      (∀ k, k ≠ vc → (portGet u p).returned[k]? = (portGet s p).returned[k]?) ∧
      u = { s with fab := { s.fab with ports := u.fab.ports }, cons := u.cons })

/-- A training attempt that succeeds shows its width, lanes and order and sends this end's identity, and one that fails is counted (12 R393, R394); the
peer's identity brings the port up or marks it miscabled (12 R395); a port that fails is down, counted and logged, and its
unacknowledged packets are settled by the peer's answer, or counted as lost 1 ms later (12 R402, R403); a notice is taken and
passed on once, and the route table is built from every port state known (12 R398); a port that is down long enough trains
again under its token. Completes: PORT_TRAINING, IDENT, PORT_DOWN, RECONCILE_RSP, RECONCILE_TIMEOUT, ROUTE_NOTICE,
ROUTE_REBUILD, PORT_RETRAIN. -/
def Obligations.FabricPortsTrainFailAndReroute : Prop :=
  (∀ (p : Nat) (x : TrainIn) (s : State), p < 6 → p < s.fab.ports.length → fabState s p = 1 → powered s 1 = true →
    tget s.tokens (10 + p) = none →
    (x.ok = true → x.good % 16 ≠ 0 →
      ∃ u, exec (.portTraining p x) s = .next (portsChanged u) ∧ (portGet u p).good = x.good % 16 ∧
        f (fabStatus u p) 28 27 = widthOf x.good (f (fabCfg s p) 1 0) % 4 ∧ f (fabStatus u p) 26 23 = x.good % 16 ∧
        bitOf (fabStatus u p) 22 = x.reversed ∧ fabState u p = 1 ∧ regsKept s u [0xB001004 + p * 0x40] ∧
        u.out = .ident p (identBytes u p) :: s.out ∧
        u = { s with fab := { s.fab with ports := u.fab.ports }, regs := u.regs, out := u.out }) ∧
    (x.ok = false → (portGet s p).attempts < 2 →
      ∃ u, exec (.portTraining p x) s = .next (portsChanged u) ∧ (portGet u p).attempts = (portGet s p).attempts + 1 ∧
        u = { s with fab := { s.fab with ports := u.fab.ports } })) ∧
  (∀ (p : Nat) (data : List Byte) (s : State), p < 6 → p < s.fab.ports.length → fabState s p = 1 → (portGet s p).good ≠ 0 →
    data.length = 64 → ∀ bad, bad = (leAt data 10 1 != (if p % 2 = 0 then p + 1 else p - 1) ||
      (match (portGet s p).recorded with | some r => r != data.take 8 | none => false)) →
    ∃ u, exec (.ident p data) s = .next (portsChanged u) ∧ fabState u p = (if bad then 5 else 2) ∧
      (portGet u p).recorded = some (data.take 8) ∧ reg64 u (0xB001018 + p * 0x40) = leNat (data.take 8) ∧
      u.mem = s.mem ∧ u.works = s.works ∧ ∃ e ∈ u.log, e.code = (if bad then 0x0207 else 0x0206)) ∧
  (∀ (p : Nat) (s : State), p < 6 → p < s.fab.ports.length → fabUp s p = true →
    ∃ u, exec (.portDown p 1) s = .next (portsChanged u) ∧ fabState u p = 3 ∧ logged u 0x0205 (p + 2 ^ 4) ∧
      regsKept s u [0xB001004 + p * 0x40, 0xB001014 + p * 0x40] ∧
      regGet u (0xB001014 + p * 0x40) = min (regGet s (0xB001014 + p * 0x40) + 1) (2 ^ 32 - 1) ∧ u.works = s.works) ∧
  (∀ (port : Nat) (p : Packet) (s : State), port < s.fab.ports.length → (portGet s port).recon = true →
    (reaches s p 0x0C = true →
      (∀ fr ∈ (portGet s port).retry, ¬(0 < (fr.seq + 4096 - p.addr % 2 ^ 16) % 4096 ∧ (fr.seq + 4096 - p.addr % 2 ^ 16) % 4096 ≤ 1024)) →
      ∃ t, exec (.reconcileRsp port p) s = .next t ∧ portGet t port = { portGet s port with retry := [], recon := false } ∧
        t = { s with fab := { s.fab with ports := t.fab.ports } }) ∧
    (reaches s p 0x0C = true → ∀ l, l = (portGet s port).retry.filter (fun fr =>
        decide (0 < (fr.seq + 4096 - p.addr % 2 ^ 16) % 4096 ∧ (fr.seq + 4096 - p.addr % 2 ^ 16) % 4096 ≤ 1024)) →
      ∃ u, exec (.reconcileRsp port p) s = .next (reroute u ((framePackets l).map fun pk => ⟨pk, none⟩)) ∧
        portGet u port = { portGet s port with retry := [], recon := false } ∧
        u = { s with fab := { s.fab with ports := u.fab.ports } }) ∧
    (∀ x, (portGet s port).retrySince = some x → 1000000 ≤ s.elapsed - x → port < 6 →
      ∃ t, exec (.reconcileTimeout port) s = .next t ∧ portGet t port = { portGet s port with retry := [], recon := false } ∧
        regGet t 0xB000018 = min (regGet s 0xB000018 + (framePackets (portGet s port).retry).length)
          (max (2 ^ 32 - 1) (regGet s 0xB000018)) ∧ regsKept s t [0xB000018] ∧
        logged t 0x0208 (port + 2 ^ 16 * min (framePackets (portGet s port).retry).length 65535) ∧
        t = { s with fab := { s.fab with ports := t.fab.ports }, regs := t.regs, log := t.log, logHead := t.logHead })) ∧
  (∀ (port origin op pst seq : Nat) (s : State), fabUp s port = true → origin ≠ ownNode s →
    (∀ n ∈ s.fab.notices, ¬(n.1 = origin ∧ n.2.1 = op ∧ serialGe 32 n.2.2 seq = true)) →
    ∃ u pk, exec (.routeNotice port origin op pst seq) s = .next (broadcast u (some port) pk) ∧
      (origin, op, seq) ∈ u.fab.notices ∧ u.fab.rebuild = true ∧ ((origin, op) ∈ u.fab.excluded ↔ pst ≠ 2) ∧
      pk.data = leBytes 2 origin ++ leBytes 1 op ++ leBytes 1 pst ++ leBytes 4 seq ++ leBytes 8 0 ∧
      u = { s with fab := { s.fab with notices := u.fab.notices, excluded := u.fab.excluded, rebuild := true } }) ∧
  (∀ s : State, s.fab.rebuild = true → tget s.tokens 16 = none →
    ∃ t, exec .routeRebuild s = .next t ∧ t.fab.built = s.fab.excluded ∧ t.fab.rebuild = false ∧
      regGet t 0xB00000C = (regGet s 0xB00000C + 1) % 2 ^ 32 ∧ t.mem = s.mem ∧ t.works = s.works) ∧
  (∀ s : State, s.fab.rebuild = true → tget s.tokens 16 = none → (∀ p, p < 6 → fabUp s p = false → (portGet s p).queue = []) →
    ∃ t, exec .routeRebuild s = .next t ∧ t.fab.built = s.fab.excluded ∧ t.fab.rebuild = false ∧
      regGet t 0xB00000C = (regGet s 0xB00000C + 1) % 2 ^ 32 ∧ regsKept s t [0xB00000C] ∧
      t = { s with fab := { s.fab with ports := t.fab.ports, built := s.fab.excluded, rebuild := false }, regs := t.regs }) ∧
  (∀ (p : Nat) (s : State), p < 6 → p < s.fab.ports.length → fabState s p = 3 ∨ fabState s p = 4 → bitOf (fabCfg s p) 30 = true →
    (if f (fabCfg s p) 15 8 = 0 then 10 else f (fabCfg s p) 15 8) * 1000000000 ≤ s.elapsed - (portGet s p).lastFrame →
    tokenConflict s 5 p = none →
    ∃ t, exec (.portRetrain p) s = .next t ∧ fabState t p = 1 ∧ tget t.tokens (10 + p) = some ⟨5, p, false⟩ ∧
      regsKept s t [0xB001004 + p * 0x40] ∧ logged t 0x0301 (5 + 2 ^ 8 * (10 + p)))

/-- A request whose turn it is, whose fields are legal and whose input is granted, puts its output, then its result word in
memory and then completes: HASH the SHA3-512 of its input, VERIFY its verdict, READ_CERT the device's certificate or the
owner's, RANDOM, SIGN, ATTEST and SEAL values of the lengths of their table, MACSEC_CAK the key that it installs (15 R484 to
R488, R491, R492). A port without a live peer turns to its secondary slot where both hold a CAK; its SAK changes when its
rotation is due, and is counted up to the counter's end (15 R491); a valid unlock opens the debug port once, and is logged (15
R494). Completes: ATTEST, SIGN, HASH, VERIFY, SEAL, MACSEC_CAK, RANDOM, READ_CERT, MKA_FAILOVER, SAK_ROTATE, DEBUG_UNLOCK. -/
def Obligations.SecurityRequestsKeysAndDebug : Prop :=
  ((∀ (wid out : Nat) (r : SecReq) (b : List Byte) (s u v : State), devWrite s (writeBy 0 wid) r.output b = .ok u →
    devWrite u (writeBy 0 wid) r.result (leBytes 1 out ++ leBytes 3 0 ++ leBytes 4 b.length ++ leBytes 8 0) = .ok v →
    Memory.wf s.mem = true → r.output + b.length ≤ r.result ∨ r.result + 16 ≤ r.output →
    ∃ t, secDone s wid r out b = complete t wid 0 0 ∧ memGetN t.mem r.output b.length = b ∧
      memGetN t.mem r.result 16 = leBytes 1 out ++ leBytes 3 0 ++ leBytes 4 b.length ++ leBytes 8 0 ∧
      (∀ a, (a < r.output ∨ r.output + b.length ≤ a) → (a < r.result ∨ r.result + 16 ≤ a) → memGet t.mem a = memGet s.mem a) ∧
      counted s t 0xE000074 1 ∧
      t = { s with mem := t.mem, poison := t.poison, regs := t.regs, ddr := t.ddr }) ∧
  (∀ (wid : Nat) (w : Work) (r : SecReq) (b : List Byte) (s : State),
    (secStart s wid 0x20 = .ok (w, r, b) →
      ∃ u sig, exec (.attest wid) s = .next (secDone u wid r 0 (reportBody s b ++ sig)) ∧ sig.length = 4627 ∧
        u = { s with freeNo := u.freeNo }) ∧
    (secStart s wid 0x21 = .ok (w, r, b) →
      ∃ u sig, exec (.sign wid) s = .next (secDone u wid r 0 sig) ∧ sig.length = 4627 ∧ u = { s with freeNo := u.freeNo }) ∧
    (secStart s wid 0x22 = .ok (w, r, b) → exec (.hash wid) s = .next (secDone s wid r 0 (sha3 b)) ∧ (sha3 b).length = 64) ∧
    (∀ ok, secStart s wid 0x23 = .ok (w, r, b) → exec (.verify wid ok) s = .next (secDone s wid r (b2n !ok) [])) ∧
    (secStart s wid 0x24 = .ok (w, r, b) →
      ∃ u c, exec (.seal wid) s = .next (secDone u wid r 0
          (leBytes 4 1 ++ leBytes 1 r.sub ++ leBytes 1 b.length ++ leBytes 10 0 ++ c ++ leBytes 20 0)) ∧ c.length = 92 ∧
        u = { s with freeNo := u.freeNo }) ∧
    (∀ k, secStart s wid 0x25 = .ok (w, r, b) → 1 ≤ leAt b 0 1 → leAt b 0 1 ≤ 32 → bitOf r.sub 0 = false →
      (∀ p, w.pair = some p → pairRemote s p = false) →
      ∃ u, exec (.macsecCak wid k) s = .next (secDone u wid r 0 []) ∧
        hasCak u (b2n (bitOf r.sub 1)) (b2n (bitOf r.sub 2)) = true ∧ logged u 0x0607 (b2n (bitOf r.sub 1)) ∧
        (∀ c ∈ s.sec.caks, c.port ≠ b2n (bitOf r.sub 1) ∨ c.slot ≠ b2n (bitOf r.sub 2) → c ∈ u.sec.caks) ∧
        u = { s with sec := { s.sec with caks := u.sec.caks }, log := u.log, logHead := u.logHead, freeNo := u.freeNo }) ∧
    (secStart s wid 0x26 = .ok (w, r, b) →
      ∃ u x, exec (.random wid) s = .next (secDone u wid r 0 x) ∧ x.length = r.outLen ∧ u = { s with freeNo := u.freeNo }) ∧
    (secStart s wid 0x27 = .ok (w, r, b) →
      (r.sub = 0 → exec (.readCert wid) s = .next (secDone s wid r 0 (s.boot.nor.bytes.take 8723))) ∧
      (r.sub = 1 → ∀ o, s.sec.owner = some o → exec (.readCert wid) s = .next (secDone s wid r 0 o.cert)) ∧
      (r.sub = 1 → s.sec.owner = none → exec (.readCert wid) s = .next (secDone s wid r 4 []))))) ∧
  ((∀ (q : Nat) (s : State), hasCak s q 0 = true → hasCak s q 1 = true → s.sec.secondary[q]? = some false →
    ∃ t, exec (.mkaFailover q) s = .next t ∧ t.sec.secondary[q]? = some true ∧ t.sec.live[q]? ≠ some true ∧
      (∀ k, k ≠ q → t.sec.secondary[k]? = s.sec.secondary[k]? ∧ t.sec.live[k]? = s.sec.live[k]?) ∧
      t = { s with sec := { s.sec with secondary := t.sec.secondary, live := t.sec.live } }) ∧
  (∀ (q n : Nat) (s : State), hasCak s q (b2n (s.sec.secondary.getD q false)) = true → s.sec.rotations[q]? = some n →
    ∃ t, exec (.sakRotate q) s = .next t ∧ t.sec.rotations[q]? = some (min (n + 1) 0xFFFF) ∧
      (∀ k, k ≠ q → t.sec.rotations[k]? = s.sec.rotations[k]?) ∧
      t = { s with sec := { s.sec with rotations := t.sec.rotations } }) ∧
  (∀ s : State, s.sec.keyReady = true → s.sec.debug = false →
    (∃ t, exec (.debugUnlock true) s = .next t ∧ t.sec = { s.sec with debug := true } ∧ logged t 0x0606 0 ∧ debugOpen t = true ∧
      t = { s with sec := t.sec, log := t.log, logHead := t.logHead, freeNo := t.freeNo }) ∧
    exec (.debugUnlock false) s = .next s))

/-- The verified microcode goes into the pods, its edition is shown and the cores are released (from 13 R432, 09 R317); step
11 begins, which ends the start where the record read agrees with what the device sees, and waits where no record has been
read (from 13 R434, R435). A write of TOPO_CTRL is stored at once, in any step; in step 11 the check runs again with it, and
an accepted difference ends the start as degraded (from 13 R435). TOPO_GO with its bit set reads the record: a valid one is
taken, an invalid one and one that cannot be read show as such, and one on the host is asked of the commander (from 13
R433); with the bit clear it does nothing. Completes: MICROCODE_LOADED, TOPO_GO, TOPO_CTRL_WRITE. -/
def Obligations.MicrocodeAndTopologyAreTaken : Prop :=
  (∀ (i : Image) (s : State), s.sec.pod = some i → s.boot.step = 10 → s.boot.kind = 0 → resetting s = false →
    (s.boot.topo = none →
      ∃ t, exec .microcodeLoaded s = .next t ∧ regGet t 0x1001000 = leAt i.header 12 2 ∧ t.boot.cores = true ∧
        t.boot.step = 11 ∧ regGet t 0 = 2 * 2 ^ 28 + 11 * 2 ^ 24 ∧ regsKept s t [0, 0x1001000] ∧ t.mem = s.mem ∧
        t.sec = s.sec ∧ t.pods = s.pods ∧ t.wins = s.wins ∧ t.streams = s.streams) ∧
    (∀ b tp, s.boot.topo = some b → decTopo b = some tp → assigned s = true → topoDiffs s tp = [] →
      ∃ t, exec .microcodeLoaded s = .next t ∧ regGet t 0x1001000 = leAt i.header 12 2 ∧ t.boot.cores = true ∧
        t.boot.step = 12 ∧ regGet t 0 = 2 ^ 28 + 11 * 2 ^ 24 ∧ regGet t 0xB8 = 2 * 2 ^ 28 ∧
        regsKept s t [0, 0xB8, 0x1001000, 0xD000000] ∧ t.mem = s.mem ∧ t.sec = s.sec ∧ t.pods = s.pods)) ∧
  (∀ (w : Writer) (v : Word) (s : State), mayWrite s w = true →
    ∃ t, exec (.topoCtrlWrite w v) s = .next t ∧ regGet t 0xA0 = v.toNat % 4 ∧
      (s.boot.step ≠ 11 → t = { s with regs := t.regs, resp := ⟨0, false⟩ } ∧ regsKept s t [0xA0]) ∧
      (s.boot.step = 11 → s.boot.topo = none → regGet t 0 = 2 * 2 ^ 28 + 11 * 2 ^ 24 ∧ t.boot.step = 11) ∧
      (∀ b tp l, s.boot.step = 11 → s.boot.topo = some b → decTopo b = some tp → assigned s = true →
        topoDiffs s tp = l → l ≠ [] → (∀ d ∈ l, d.kind ≠ 1) →
        (v.toNat % 2 = 1 → t.boot.step = 12 ∧ regGet t 0xB8 = 4 * 2 ^ 28 + 2 ^ 24 * min l.length 7) ∧
        (v.toNat % 2 = 0 → t.boot.step = 11 ∧ regGet t 0xB8 = 3 * 2 ^ 28 + 2 ^ 24 * min l.length 7))) ∧
  (∀ (w : Writer) (v : Word) (s : State), mayWrite s w = true →
    (v.toNat % 2 = 0 → exec (.topoGo w v) s = .next { s with resp := ⟨0, false⟩ }) ∧
    (v.toNat % 2 = 1 → topoHost s = false → ∀ h g, topoLocal s (reg64 s 0xA8) 64 = some h →
      topoLocal s (reg64 s 0xA8 + 64) (32 * topoCount h) = some g →
      ∃ t, exec (.topoGo w v) s = .next t ∧
        ((decTopo (h ++ g)).isSome = true → t.boot.topo = some (h ++ g) ∧
          (s.boot.step ≠ 11 →
            t = { s with boot := t.boot, rrp := { s.rrp with reads := t.rrp.reads }, resp := ⟨0, false⟩ })) ∧
        ((decTopo (h ++ g)).isSome = false → t.boot.topo = none ∧ regGet t 0xB8 = 5 * 2 ^ 28 ∧ regsKept s t [0xB8] ∧
          t = { s with boot := t.boot, regs := t.regs, rrp := { s.rrp with reads := t.rrp.reads }, resp := ⟨0, false⟩ })) ∧
    (v.toNat % 2 = 1 →
      (topoHost s = false ∧ topoLocal s (reg64 s 0xA8) 64 = none) ∨ (topoHost s = true ∧ s.rrp.state ≠ 1) →
      ∃ t, exec (.topoGo w v) s = .next t ∧ t.boot.topo = s.boot.topo ∧ regGet t 0xB8 = 6 * 2 ^ 28 ∧
        regsKept s t [0xB8] ∧ t.mem = s.mem ∧ t.fab = s.fab) ∧
    (v.toNat % 2 = 1 → topoHost s = true → s.rrp.state = 1 → s.rrp.reads.length < 64 →
      ∃ t m, exec (.topoGo w v) s = .next t ∧ t.boot.topoLeft = 1 ∧ t.rrp.unacked = s.rrp.unacked ++ [m] ∧ m.type = 0x04 ∧
        m.payload = leBytes 8 (reg64 s 0xA8) ++ leBytes 2 64 ++ leBytes 2 s.rrp.nextRead ++ leBytes 4 0 ∧
        t = { s with boot := t.boot, rrp := t.rrp, resp := ⟨0, false⟩ }))

/-- The first completion of a tile is kept, unless its index stands at a preemption point for work of a higher rank (from 06 R196),
and its logical index's cursor rewritten, and, where it was the index's last of a
schedule's operation, its band counter; a second one is dropped and counted, after the operation has ended too; one that
names no tile of the operation changes nothing (from 05 R161, R166, 06 R199). Once every tile is kept, an operation that a
ring issued adds its counts, puts its adaptation record, lets the held writes of its band's end take effect and completes with its
status; one of a schedule waits for its band
to be kept; its prefetched blocks are dropped (from 03 R92, R97, 06 R199, 09 R303). Completes: TILE_COMPLETION,
OPERATION_COMPLETE. -/
def Obligations.TilesAndOperationsComplete : Prop :=
  (∀ (wid lidx tile : Nat) (w : Work) (op : Op) (s : State), workGet s wid = some w → w.op = some op →
    ((lidx, tile) ∈ op.kept →
      ∃ t, exec (.tileCompletion wid lidx tile) s = .next t ∧ t = { s with regs := t.regs } ∧ counted s t 0x1001034 1) ∧
    ((lidx, tile) ∉ op.kept → (unpark s wid w).phase = .computed → higherReady s w.stream = false ∨ lidx ∉ op.stopped → (∃ t ∈ tilesOf s op lidx, t.num = tile) →
      ∃ t v, exec (.tileCompletion wid lidx tile) s = .next t ∧
        workGet t wid = some { unpark s wid w with op := some v } ∧
        v = { op with kept := op.kept ++ [(lidx, tile)], reissue := op.reissue.filter fun k => k != (lidx, tile),
                       stopped := v.stopped } ∧ (higherReady s w.stream = false → v.stopped = []) ∧
        worksKept s t wid ∧ t = { s with works := t.works, mem := t.mem, poison := t.poison } ∧
        (partBase s (decMap op.map).part w.stream = none → t.mem = s.mem) ∧
        ∀ b, partBase s (decMap op.map).part w.stream = some b →
          (∀ a, (a < b + lidx * 8 ∨ b + lidx * 8 + 8 ≤ a) → (a < b + 0x300 + lidx * 8 ∨ b + 0x300 + lidx * 8 + 8 ≤ a) →
            memGet t.mem a = memGet s.mem a) ∧
          (w.pair.isSome = true → bytesKeptOutside s t (b + 0x300 + lidx * 8) 8) ∧
          (lidx < 96 → Memory.wf s.mem = true → leAt (memGetN t.mem (b + 0x300 + lidx * 8) 8) 4 4 =
            (v.kept.filter fun k => k.1 == lidx).length % 2 ^ 32)) ∧
    ((lidx, tile) ∉ op.kept → (∀ t ∈ tilesOf s op lidx, t.num ≠ tile) →
      exec (.tileCompletion wid lidx tile) s = .next s)) ∧
  (∀ (wid lidx tile : Nat) (s : State), workGet s wid = none → wid ∈ s.endedOps →
    ∃ t, exec (.tileCompletion wid lidx tile) s = .next t ∧ t = { s with regs := t.regs } ∧ counted s t 0x1001034 1) ∧
  (∀ (wid : Nat) (w : Work) (op : Op) (s : State), workGet s wid = some w → w.op = some op → op.cross = none →
    (unpark s wid w).phase = .computed → opKept s op = true →
    (w.pair.isSome = true →
      (∀ a b, op.adapt = some (a, b) → checkRange s (writeBy w.stream wid) a b.length = none ∧
        poisonPartial s a b.length = none ∧ Memory.wf s.mem = true) →
      ∃ u, exec (.operationComplete wid) s = .next (complete u wid w.status w.detail) ∧
        u = { s with regs := u.regs, mem := u.mem, poison := u.poison, staging := s.staging.filter (fun g => g.wid != wid),
                     cons := u.cons, shadow := u.shadow, ddr := u.ddr } ∧
        (∀ a, a ∉ [0x1001010, 0x1001014, 0x1001018, 0x100101C, 0x1001020, 0x1001028, 0x100102C] → opRegs w.stream a = false →
          regGet u a = regGet s a) ∧
        reg64 u 0x1001010 = min (reg64 s 0x1001010 + op.counts.getD 0 0) (2 ^ 64 - 1) ∧
        regGet u 0x1001018 = min (regGet s 0x1001018 + op.counts.getD 1 0) (2 ^ 32 - 1) ∧
        regGet u 0x100101C = min (regGet s 0x100101C + op.counts.getD 2 0) (2 ^ 32 - 1) ∧
        regGet u 0x1001020 = min (regGet s 0x1001020 + op.counts.getD 3 0) (2 ^ 32 - 1) ∧
        f (regGet u 0x1001028) 15 0 = min (f (regGet s 0x1001028) 15 0 + op.counts.getD 4 0) 65535 ∧
        f (regGet u 0x1001028) 31 16 = min (f (regGet s 0x1001028) 31 16 + op.counts.getD 5 0) 65535 ∧
        regGet u 0x100102C = min (regGet s 0x100102C + op.counts.getD 6 0) (2 ^ 32 - 1) ∧
        (op.adapt = none → u.mem = s.mem) ∧
        (∀ a b, op.adapt = some (a, b) → memGetN u.mem a b.length = b ∧ bytesKeptOutside s u a b.length)) ∧
    (w.pair = none →
      ∃ t, exec (.operationComplete wid) s = .next t ∧ workGet t wid = some { w with phase := .waiting } ∧
        worksKept s t wid ∧
        t = { s with works := t.works, staging := s.staging.filter (fun g => g.wid != wid), cons := t.cons }))

/-- A write of a plain register sets its RW bits and no other bit of any register (from 00 R13); RSMP.ODO_CFG besides begins
the odometry's distances anew. A register that a running stream uses keeps its value until the band boundary, and the
write is held (from 00 R20). A write to the low half of a plain pair is held and changes no register; the write to the high
half applies both (from 00 R12). Completes: REGISTER_WRITE. -/
def Obligations.PlainRegisterWritesSetRwBits : Prop :=
  (∀ (w : Writer) (a : Nat) (v : Word) (s : State) (r : RegRow) (i j : Nat),
    namedReg (regAddr a) 4 = some (r, i, j) → mayWrite s w = true → r.gate = .none → r.kind = .one →
    r.legal (v.toNat &&& (r.rw ||| r.wo)) = true →
    (bandHeld s a = false ∨ r.rw = 0 → ∃ t, exec (.registerWrite w (regAddr a) 4 v) s = .next t ∧
      t = { s with regs := t.regs, odo := t.odo, shadow := if r.rw = 0 then s.shadow else tdel s.shadow a,
                   resp := ⟨0, false⟩ } ∧ (a ≠ 0x7000040 → t.odo = s.odo) ∧ t.odo.pos = s.odo.pos ∧ regsKept s t [a] ∧
      ∀ k, k < 32 → (regGet t a).testBit k = if r.rw.testBit k then v.toNat.testBit k else (regGet s a).testBit k) ∧
    (bandHeld s a = true → r.rw ≠ 0 → ∃ t, exec (.registerWrite w (regAddr a) 4 v) s = .next t ∧
      t = { s with shadow := t.shadow, resp := ⟨0, false⟩ } ∧
      tget t.shadow a = some (BitVec.ofNat 32 (v.toNat &&& (r.rw ||| r.wo))))) ∧
  (∀ (w : Writer) (a : Nat) (lo hi : Word) (s : State) (r q : RegRow) (i j k l : Nat),
    namedReg (regAddr a) 4 = some (r, i, j) → namedReg (regAddr (a + 4)) 4 = some (q, k, l) →
    mayWrite s w = true → r.gate = .none → q.gate = .none → r.kind = .lo → q.kind = .hi →
    bandHeld s (a + 4) = false →
    r.rw = 2 ^ 32 - 1 → q.rw ≠ 0 → r.legal lo.toNat = true → q.legal (hi.toNat &&& (q.rw ||| q.wo)) = true →
    ∃ t u, exec (.registerWrite w (regAddr a) 4 lo) s = .next t ∧ t.regs = s.regs ∧
      t = { s with held := t.held, resp := ⟨0, false⟩ } ∧
      exec (.registerWrite w (regAddr (a + 4)) 4 hi) t = .next u ∧
      u = { t with regs := u.regs, shadow := tdel (tdel t.shadow a) (a + 4), resp := ⟨0, false⟩ } ∧ regsKept s u [a, a + 4] ∧
      regGet u a = lo.toNat ∧ regGet u (a + 4) = hi.toNat &&& (q.rw ||| q.wo))

/-- 00 R11: an access, by a core only once it has left reset (09 R317), that is not an aligned 32-bit one, or names no register, is answered with an error, a read with
0, and changes nothing. -/
def Obligations.AccessNamingNoRegisterAnswersError : Prop :=
  ∀ (w : Writer) (addr width : Nat) (v : Word) (s : State), awake s w = true →
    width ≠ 4 ∨ addr % 4 ≠ 0 ∨ (0x6000000000 ≤ addr ∧ addr < 0x6010000000 ∧ findReg (addr - 0x6000000000) = none) →
    exec (.registerWrite w addr width v) s = .next { s with resp := ⟨0, true⟩ } ∧
    exec (.loReadCapture w addr width) s = .next { s with resp := ⟨0, true⟩ } ∧
    exec (.rcCounterRead w addr width) s = .next { s with resp := ⟨0, true⟩ }

/-- 00 R17, 14 R467: a write that would place a reserved encoding leaves every register, and the log records the
attempt in an entry of code 0x0501 with its continuation: address, value and writer. -/
def Obligations.ReservedEncodingKeepsRegisterAndIsLogged : Prop :=
  ∀ (w : Writer) (addr : Nat) (v : Word) (s : State) (r : RegRow) (i j : Nat),
    awake s w = true → namedReg addr 4 = some (r, i, j) → r.rw + r.wo ≠ 0 → r.legal (v.toNat &&& (r.rw ||| r.wo)) = false →
    ∃ t e c, exec (.registerWrite w addr 4 v) s = .next t ∧
      t = { s with log := t.log, logHead := t.logHead, resp := ⟨0, false⟩ } ∧
      t.log = (c :: e :: s.log).take 16384 ∧ t.logHead = (s.logHead + 2) % 2 ^ 32 ∧
      e.code = 0x0501 ∧ e.arg = addr % 2 ^ 32 ∧ c.code = 0xFFFF ∧ c.time % 2 ^ 32 = v.toNat

/-- A read of the low half of a pair answers the value shown and captures the high half for the next read of the high half
alone (from 00 R12). A read of a register with RC fields answers its value and sets those fields to 0; other bits and
registers stay (from 00 R13). The two forms with a home of their own, the clip count's pair and the failed checks of a
conserved pool, are cleared in the same access too. Completes: LO_READ_CAPTURE, RC_COUNTER_READ. -/
def Obligations.RegisterReadsCaptureAndClear : Prop :=
  (∀ (w : Writer) (a : Nat) (s : State) (r q : RegRow) (i j k l : Nat),
    namedReg (regAddr a) 4 = some (r, i, j) → namedReg (regAddr (a + 4)) 4 = some (q, k, l) →
    mayRead s w a = true → mayRead s w (a + 4) = true → r.kind = .lo → q.kind = .hi → r.rc = 0 → q.rc = 0 →
    r.gate ≠ .poolAlloc → q.gate ≠ .poolAlloc →
    ∃ t, exec (.loReadCapture w (regAddr a) 4) s = .next t ∧ t.resp = ⟨shownValue s a, false⟩ ∧
      t = { s with capture := t.capture, resp := t.resp } ∧
      tget t.capture (a + 4) = some (BitVec.ofNat 32 (shownValue s (a + 4))) ∧
      (∀ s', s'.capture = t.capture → mayRead s' w (a + 4) = true →
        ∃ u, exec (.loReadCapture w (regAddr (a + 4)) 4) s' = .next u ∧
          u.resp = ⟨shownValue s (a + 4) % 2 ^ 32, false⟩ ∧ u.capture = tdel t.capture (a + 4))) ∧
  (∀ (w : Writer) (a : Nat) (s : State) (r : RegRow) (i j : Nat),
    namedReg (regAddr a) 4 = some (r, i, j) → mayRead s w a = true → r.kind = .one → r.rc ≠ 0 →
    r.gate ≠ .poolAlloc → a < 0xD001000 ∨ 0xD001500 ≤ a →
    ∃ t, exec (.rcCounterRead w (regAddr a) 4) s = .next t ∧ t.resp = ⟨shownValue s a, false⟩ ∧
      t = { s with regs := t.regs, resp := t.resp } ∧ regsKept s t [a] ∧
      ∀ k, k < 32 → (regGet t a).testBit k = (!r.rc.testBit k && (regGet s a).testBit k)) ∧
  (∀ (w : Writer) (s : State), mayRead s w 0x1001010 = true → tget s.shadow 0x1001010 = none →
    tget s.shadow 0x1001014 = none →
    ∃ t, exec (.rcCounterRead w (regAddr 0x1001010) 4) s = .next t ∧ t.resp = ⟨regGet s 0x1001010, false⟩ ∧
      t = { s with regs := t.regs, capture := t.capture, resp := t.resp } ∧ regsKept s t [0x1001010, 0x1001014] ∧
      regGet t 0x1001010 = 0 ∧ regGet t 0x1001014 = 0 ∧
      tget t.capture 0x1001014 = some (BitVec.ofNat 32 (regGet s 0x1001014))) ∧
  (∀ (w : Writer) (n : Nat) (s : State), mayRead s w (0xD001018 + n * 0x20) = true → n < 39 → s.cons.length = 39 →
    tget s.shadow (0xD001018 + n * 0x20) = none →
    ∃ t, exec (.rcCounterRead w (regAddr (0xD001018 + n * 0x20)) 4) s = .next t ∧
      t = { s with cons := t.cons, resp := t.resp } ∧
      (∀ c, s.cons[n]? = some c → t.resp = ⟨c.failed, false⟩ ∧ t.cons[n]? = some { c with failed := 0 }) ∧
      ∀ m, m ≠ n → t.cons[m]? = s.cons[m]?)

/-- 13 R417 to R419, 16 R507, R508: with every rail in range and the reference running, the rise of RESET_N samples
the straps and the identity record and runs steps 1 to 3: a record that passes leaves the device in step 4 with its
keys and its Ethernet and fabric domains; one that fails stops it in step 2. Before RESET_N rises, power that comes
into range is only noted. Completes: RESET_N_RELEASE, POWER_UP. -/
def Obligations.ResetReleaseRunsTheFirstSteps : Prop :=
  (∀ (b : Nat) (nor : Nor) (s : State), s.pins.resetN = false → s.pins.refclk = true →
    (∀ i, 1 ≤ i → i < s.pins.rails.length → s.pins.rails[i]? = some true) → s.boot.step = 0 → identityFail nor = 0 →
    ∃ t, exec (.resetNRelease b nor) s = .next t ∧ t.pins.resetN = true ∧ t.boot.nor = nor ∧ t.boot.bootSel = b ∧
      t.boot.step = 4 ∧ f (regGet t 0) 27 24 = 4 ∧ t.sec.keyReady = true ∧ powered t 1 = true ∧ powered t 2 = true ∧
      t.pins.lasers = true ∧ reg64 t 0xC000004 = leAt nor.bytes 34 6 ∧
      reg64 t 0xC000104 = (leAt nor.bytes 34 6 + 1) % 2 ^ 48 ∧ t.mem = s.mem ∧ t.streams = s.streams ∧ t.wins = s.wins) ∧
  (∀ (b : Nat) (nor : Nor) (s : State), s.pins.resetN = false → s.pins.refclk = true →
    (∀ i, 1 ≤ i → i < s.pins.rails.length → s.pins.rails[i]? = some true) → s.boot.step = 0 → identityFail nor ≠ 0 →
    ∃ t, exec (.resetNRelease b nor) s = .next t ∧ t.boot.step = 13 ∧
      regGet t 0 = 3 * 2 ^ 28 + 2 * 2 ^ 24 + identityFail nor * 2 ^ 16 ∧ t.sec = s.sec ∧ t.fab = s.fab ∧
      regsKept s t [0] ∧ t.mem = s.mem) ∧
  (∀ (g1 g2 rc : Bool) (s : State), s.pins.resetN = false →
    ∃ t, exec (.powerUp g1 g2 rc) s = .next t ∧ t = { s with pins := { s.pins with rails := t.pins.rails, refclk := t.pins.refclk } } ∧
      t.pins.refclk = (s.pins.refclk || rc) ∧
      ∀ i b, s.pins.rails[i]? = some b →
        t.pins.rails[i]? = some (b || (g1 && (2 ≤ i && i ≤ 4)) || (g2 && (i == 1 || 5 ≤ i))))

/-- What a full reset leaves (13 R415): the log goes on, the identity record stays, and everything else of the
device's state is gone. 16 R509, 13 R415: RESET_N low holds the device with ARR_EN low, the DDR resets low and the
lasers off; the removal of the supplies loses the log and every memory, and keeps only what the NOR device holds.
Completes: RESET_N_ASSERT, SUPPLIES_REMOVED, FULL_RESET. -/
def Obligations.FullResetsAndPowerOffClearTheDevice : Prop :=
  (∀ (s : State) (c : Instr),
    (∃ cls, c = .fullReset (.supervisor cls)) ∨
      (∃ w v, c = .fullReset (.mgmt w v) ∧ mayWrite s w = true ∧ f v.toNat 31 16 = 0xA5A5 ∧ f v.toNat 1 0 = 2) ∨
      (c = .resetNAssert ∧ s.pins.resetN = true) →
    ∃ t, exec c s = .next t ∧ t.mem = [] ∧ t.poison = [] ∧ t.streams = [] ∧ t.wins = [] ∧ t.parts = [] ∧ t.pairs = [] ∧
      t.works = [] ∧ t.pools = [] ∧ t.cams = [] ∧ t.groups = [] ∧ t.disps = [] ∧ t.tokens = [] ∧ t.sec.owner = none ∧
      t.rrp = Rrp.reset ∧ t.pods = Pods.reset ∧ t.boot.nor = s.boot.nor ∧ t.elapsed = s.elapsed ∧
      (∃ l, t.log = (l ++ s.log).take 16384)) ∧
  ((∀ s : State, s.pins.resetN = true → ∃ t, exec .resetNAssert s = .next t ∧ t.pins.resetN = false ∧
    t.pins.arrEn = false ∧ t.pins.ddrResetN = false ∧ t.pins.lasers = false ∧ t.boot.step = 0 ∧
    t.pins.rails = s.pins.rails ∧ t.pins.refclk = s.pins.refclk ∧ (∀ a, a ≠ 0x14 → regGet t a = (regReset a).toNat) ∧
    regGet t 0x14 = regGet s 0x14) ∧
  (∀ s : State, ∃ t, exec .suppliesRemoved s = .next t ∧
    t = { State.reset with pending := s.pending, out := s.out, freeNo := s.freeNo, boot := t.boot } ∧
    t.boot = { Boot.reset with nor := s.boot.nor } ∧ t.log = [] ∧ (∀ a, memGet t.mem a = 0) ∧
    ∀ a, regGet t a = (regReset a).toNat))

/-- A partial reset ends everything in the compute partition, puts its registers at their reset values and goes on at the
pod waves of step 6 (from 13 R440, 00 R19), by the Supervisor's order as by a write of MGMT.RESET; the registers of the last
harvest lie in the always-on domain and keep their values (from 13 R443). One that comes while a partial reset runs starts it
again from its step 3, and one that comes before the partition is powered is only logged (13 R442). Completes: PARTIAL_RESET. -/
def Obligations.PartialResetEndsThePartition : Prop :=
  ∀ (s : State) (cls : Nat) (w : Writer) (v : Word),
    (partialIgnored s = true → exec (.partialReset (.supervisor cls)) s = .next (logMerged s 1)) ∧
    (partialIgnored s = false →
      (∃ t, exec (.partialReset (.supervisor cls)) s = .next t ∧ t.boot.cores = false ∧
        t.boot.step = (if resetting s = true ∧ s.boot.tripped = true then 13 else 6) ∧
        t.pods.fenced = [] ∧ t.pods.below = false ∧ t.pods.selfTest = none ∧
        t.leekUp.getD 0 false = false ∧ t.leekUp.getD 1 false = false ∧
        (∀ a, partitionReg a = true → regGet t a = (regReset a).toNat) ∧
        (resetting s = false → t.wins = [] ∧ t.resident = [] ∧ t.parts = [] ∧ t.spool = [] ∧ t.pools = [] ∧ t.works = [] ∧
          t.slots = [] ∧ t.pairs = [] ∧ t.cams = [] ∧ t.chans = [] ∧ t.encs = [] ∧ t.disps = [] ∧ t.pins.arrEn = true)) ∧
      (resetting s = false → mayWrite s w = true → f v.toNat 31 16 = 0xA5A5 → f v.toNat 1 0 = 1 →
        ∃ t, exec (.partialReset (.mgmt w v)) s = .next t ∧ t.boot.step = 6 ∧ t.boot.cores = false ∧ t.pins.arrEn = true ∧
          t.wins = [] ∧ t.resident = [] ∧ t.parts = [] ∧ t.spool = [] ∧ t.pools = [] ∧ t.works = [] ∧ t.slots = [] ∧
          t.pairs = [] ∧ t.cams = [] ∧ t.chans = [] ∧ t.encs = [] ∧ t.disps = [] ∧
          t.pods = { s.pods with fenced := [], below := false, selfTest := none } ∧
          ∀ a, partitionReg a = true → regGet t a = (regReset a).toNat))

/-- A wave whose rail reaches its range is powered, one whose rail does not is counted as failed and
logged; without the array rail no wave is powered and the start stops with fail code 0x04 (from 13 R421, 16 R506). With fewer than 88 good pods the start
stops with fail code 0x04, and the scale entries of the pods that failed read 0 (from 13 R424, 03 R98). Completes: WAVE_POWER_UP, ARR_RANGE_TIMEOUT, and POD_SELF_TEST_DONE, whose other
result HarvestRanksPodsAndSpares states. -/
def Obligations.PodWavesPowerOrStopTheStart : Prop :=
  ((∀ (w : Nat) (s : State), s.boot.step = 6 → s.boot.waves.length + s.boot.failedWaves.length = w → w < 8 →
    (∃ t, exec (.wavePowerUp w true) s = .next t ∧ t.boot.waves = s.boot.waves ++ [w] ∧
      t.boot.failedWaves = s.boot.failedWaves ∧ powered t (12 + w) = true ∧ t.boot.step = (if w = 7 then 7 else 6) ∧
      (∀ d, d ≠ 12 + w → d < 32 → powered t d = powered s d) ∧ t.mem = s.mem ∧
      t.pods = { s.pods with failedWaves := s.pods.failedWaves.filter (· != w) }) ∧
    (∃ t, exec (.wavePowerUp w false) s = .next t ∧ t.boot.waves = s.boot.waves ∧
      t.boot.failedWaves = s.boot.failedWaves ++ [w] ∧ w ∈ t.pods.failedWaves ∧
      t.pods = { s.pods with failedWaves := t.pods.failedWaves } ∧ (∀ d, powered t d = powered s d) ∧
      (∃ e ∈ t.log, e.code = 0x0004 ∧ e.arg = w) ∧ t.boot.step = (if w = 7 then 7 else 6))) ∧
  (∀ s : State, s.boot.step = 6 → s.boot.waves = [] → s.boot.failedWaves = [] →
    ∃ t, exec .arrRangeTimeout s = .next t ∧ t.boot.failedWaves = List.range 8 ∧ t.pods = { s.pods with failedWaves := List.range 8 } ∧ t.boot.step = 13 ∧
      regGet t 0 = 3 * 2 ^ 28 + 6 * 2 ^ 24 + 4 * 2 ^ 16 ∧ regsKept s t [0] ∧ t.mem = s.mem)) ∧
  (∀ (failed : List (Nat × Nat)) (s : State), s.boot.step = 7 → (goodPods s failed).length < 88 →
    ∃ t, exec (.podSelfTestDone failed) s = .next t ∧ t.boot.step = 13 ∧ t.pods.lmap = [] ∧ t.pods.spares = [] ∧
      regGet t 0 = 3 * 2 ^ 28 + 7 * 2 ^ 24 + 4 * 2 ^ 16 ∧
      (∀ a, a ≠ 0 → lostDrain (goodPods s failed) a = false → regGet t a = regGet s a) ∧
      (∀ a, lostDrain (goodPods s failed) a = true → regGet t a = (regReset a).toNat) ∧ t.mem = s.mem)

/-- 13 R423: the harvest ranks the good pods in ascending order, the first 96 take the logical indices, the others are
spares, and the spare of lowest physical index takes a failed pod's place. Completes: POD_SELF_TEST_DONE,
POD_FAILURE. -/
def Obligations.HarvestRanksPodsAndSpares : Prop :=
  (∀ (failed : List (Nat × Nat)) (s : State), s.boot.step = 7 → 88 ≤ (goodPods s failed).length →
    ∃ t, exec (.podSelfTestDone failed) s = .next t ∧ t.pods.good = goodPods s failed ∧
      t.pods.lmap = (goodPods s failed).take 96 ∧ t.pods.spares = (goodPods s failed).drop 96 ∧
      t.pods.good.Pairwise (· < ·) ∧ t.pods.spares.length ≤ 8) ∧
  (∀ (pod i sp : Nat) (rest : List Nat) (s : State), pod ∈ s.pods.good → 7 < s.boot.step → powered s (12 + pod / 13) = true →
    logicalOf s pod = some i → s.pods.spares = sp :: rest → s.pods.spares.Pairwise (· < ·) → pod ∉ s.pods.spares →
    pod < 104 → sp < 104 →
    ∃ t, exec (.podFailure pod true) s = .next t ∧ t.pods.lmap = s.pods.lmap.set i sp ∧ t.pods.spares = rest ∧
      t.pods.good = s.pods.good.filter (· != pod) ∧ (∀ x ∈ rest, sp < x) ∧
      regGet t 0xD000048 = min (regGet s 0xD000048 + 1) (2 ^ 32 - 1) ∧
      ∃ e ∈ t.log, e.code = 0x0201 ∧ e.arg = (pod + 2 ^ 8 * i + 2 ^ 16 * sp) % 2 ^ 32)

/-- 10 R341, R342, 13 R426 to R431: LPDDR training sets a capacity that the device supports, the march test goes block by block and leaves
the memory zero, and the Leek test brings each half into use or leaves it off; each failure stops the start with its
own code. Completes: LPDDR_TRAINING_DONE, MARCH_BLOCK_DONE, LEEK_TEST_DONE. -/
def Obligations.MemoriesAreTrainedAndTested : Prop :=
  (∀ (gib mask : Nat) (s : State), s.boot.step = 5 →
    (mask % 2 ^ 16 = 0 → gibOk gib = true → s.boot.kind ≠ 2 → ∃ t, exec (.lpddrTrainingDone gib mask) s = .next t ∧
      regGet t 0x3000004 = gib * 14 ∧ t.ddr.linkEcc = bitOf (regGet s 0x3000000) 0 ∧ regGet t 0x3000008 = 0xFFFF0000 ∧ t.boot.step = 6 ∧ t.pins.arrEn = true ∧
      t.mem = s.mem) ∧
    (mask % 2 ^ 16 ≠ 0 ∨ gibOk gib = false → ∃ t, exec (.lpddrTrainingDone gib mask) s = .next t ∧ t.boot.step = 13 ∧
      regGet t 0 = 3 * 2 ^ 28 + 5 * 2 ^ 24 + 3 * 2 ^ 16 ∧ regsKept s t [0, 0x3000008] ∧ t.mem = s.mem)) ∧
  (∀ s : State, s.boot.step = 8 → f (regGet s 0x10) 31 24 < marchTotal s →
    (marchFrom s (f (regGet s 0x10) 31 24 + 1) < min 256 (marchTotal s) →
      ∃ t, exec (.marchBlockDone .corrected) s = .next t ∧ t = { s with regs := t.regs } ∧ regsKept s t [0x10] ∧
        f (regGet t 0x10) 31 24 = marchFrom s (f (regGet s 0x10) 31 24 + 1) ∧
        f (regGet t 0x10) 15 8 = min (f (regGet s 0x10) 15 8 + 1) 255 ∧ f (regGet t 0x10) 7 0 = f (regGet s 0x10) 7 0) ∧
    (marchFrom s (f (regGet s 0x10) 31 24 + 1) = marchTotal s → f (regGet s 0x10) 7 0 = 0 →
      ∃ t, exec (.marchBlockDone .clean) s = .next t ∧ t.boot.step = 9 ∧ t.boot.marchDone = true ∧
        ∀ a, memGet t.mem a = if a < 0x2000000000 then 0 else memGet s.mem a) ∧
    (marchFrom s (f (regGet s 0x10) 31 24 + 1) = marchTotal s → ∀ ch a,
      ∃ t, exec (.marchBlockDone (.failed ch a)) s = .next t ∧ t.boot.step = 13 ∧
        regGet t 0 = 3 * 2 ^ 28 + 8 * 2 ^ 24 + 5 * 2 ^ 16)) ∧
  (∀ (f0 f1 : Option Nat) (s : State), s.boot.step = 9 → s.boot.kind = 0 → s.leekUp.length = 2 →
    (f0 = none ∨ f1 = none → ∃ t, exec (.leekTestDone f0 f1) s = .next t ∧ t.boot.step = 10 ∧
      t.leekUp = [f0.isNone, f1.isNone] ∧ powered t 9 = f0.isNone ∧ powered t 10 = f1.isNone ∧ t.sec.pod = none) ∧
    (f0 ≠ none → f1 ≠ none → ∃ t, exec (.leekTestDone f0 f1) s = .next t ∧ t.boot.step = 13 ∧
      t.leekUp = [false, false] ∧ regGet t 0 = 3 * 2 ^ 28 + 9 * 2 ^ 24 + 6 * 2 ^ 16))

/-- 12 R406, 13 R419, R420: an offer of the image type that is needed, from the selected source, starts its pull; a
chunk that comes in order is kept and the chunk 64 further on is asked for; one that comes early is kept for its place. 15 R477, R480, 13 R420: a complete image
that passes takes its place, and its owner block makes the owner; one that fails is discarded, counted and logged, and
no image and no owner changes. 12 R388, R406: a PULL for a verified image is answered with the chunk on the port it
came by, and every verified image is offered on every port that is up. Completes: OFFER, RELAY_DATA, IMAGE_VERIFY,
PULL, OFFER_TIMER. -/
def Obligations.ImagesArePulledVerifiedAndServed : Prop :=
  ((∀ (p : BootPort) (id len : Nat) (s : State), sourceOk s p = true → bootPortUp s p = true → s.boot.pull = none →
    s.boot.offers = [] → imageNeed s ≠ 0 → id / 2 ^ 24 = imageNeed s →
    ∃ t, exec (.offer p id len) s = .next t ∧ t.boot.pull = some ⟨p, id, len, [], 0, []⟩ ∧ t.boot.offers = [(p, id, len)] ∧
      t = { s with boot := t.boot, fab := t.fab, cons := t.cons, out := t.out }) ∧
  (∀ (p : BootPort) (tag : Nat) (d : List Byte) (x : Pull) (s : State), s.boot.pull = some x → x.port = p →
    x.chunks < chunkCount x.len → d.length = min 256 (x.len - 256 * x.chunks) → x.early = [] →
    ∃ t, exec (.relayData p x.chunks tag d) s = .next t ∧
      t.boot = { s.boot with pull := some { x with data := x.data ++ d, chunks := x.chunks + 1 } } ∧
      t = { s with boot := t.boot, fab := t.fab, cons := t.cons, out := t.out } ∧
      (chunkCount x.len ≤ x.chunks + 64 → t.fab = s.fab ∧ t.out = s.out) ∧
      (∀ q a, p = .eth q a → x.chunks + 64 < chunkCount x.len →
        t.out = .ethPull q a (pkBytes (pullPacket s x.id (x.chunks + 64))) :: s.out)) ∧
  (∀ (p : BootPort) (k tag : Nat) (d : List Byte) (x : Pull) (s : State), s.boot.pull = some x → x.port = p →
    x.chunks < k → k < min (x.chunks + x.early.length + 64) (chunkCount x.len) → d.length = min 256 (x.len - 256 * k) →
    tget x.early k = none → tget x.early x.chunks = none →
    ∃ t, exec (.relayData p k tag d) s = .next t ∧
      t.boot = { s.boot with pull := some { x with early := tset x.early k d } } ∧
      t = { s with boot := t.boot, fab := t.fab, cons := t.cons, out := t.out })) ∧
  (∀ (a b c : Bool) (x : Pull) (s : State), s.boot.pull = some x → imageNeed s ≠ 0 → x.chunks = chunkCount x.len →
    x.data.length = x.len →
    (imagePasses s x (imageNeed s) a b c = true → ∃ t, exec (.imageVerify a b c) s = .next t ∧ t.boot.pull = none ∧ t.mem = s.mem ∧
      (imageNeed s = 1 → t.sec.mgmt = some ⟨x.data.take 256, x.data⟩ ∧ t.boot.step = 5 ∧
        t.sec.owner = (if (blockOf x).isEmpty then s.sec.owner else some (ownerOf (blockOf x)))) ∧
      (imageNeed s = 2 → t.sec.pod = some ⟨x.data.take 256, x.data⟩ ∧ t.sec.owner = s.sec.owner ∧ t.boot.step = s.boot.step)) ∧
    (imagePasses s x (imageNeed s) a b c = false → ∃ t, exec (.imageVerify a b c) s = .next t ∧ t.sec = s.sec ∧ t.mem = s.mem ∧
      f (regGet t 0xE000070) 31 16 = min (f (regGet s 0xE000070) 31 16 + 1) 65535 ∧ regsKept s t [0xE000070] ∧
      (∃ e ∈ t.log, e.code = 0x0602 ∧ e.arg = x.id % 2 ^ 32) ∧
      (∀ y, t.boot.pull = some y → y.data = [] ∧ y.chunks = 0))) ∧
  ((∀ (port id chunk tag : Nat) (i : Image) (s : State), fabUp s port = true →
    (heldImages s).find? (fun j => imageId j == id) = some i → chunk < chunkCount i.bytes.length →
    ∃ d, d.take (min 256 (i.bytes.length - 256 * chunk)) = (i.bytes.drop (256 * chunk)).take 256 ∧ d.length % 16 = 0 ∧
      exec (.pull port id chunk tag) s = .next (queueAt s port (localPacket s 0x0F chunk tag d))) ∧
  (∀ (i : Image) (s : State), s.sec.mgmt = some i → s.sec.pod = none →
    exec .offerTimer s = .next (broadcast s none
      (localPacket s 0x0D 0 0 (leBytes 4 (imageId i) ++ leBytes 4 i.bytes.length ++ leBytes 8 0)))))

/-- Where the two runs of a critical head give the same data for every tile of its final output tensor and the same detection
records, its comparison has ended; where they do not, the head's operation is issued a third time at once (from 08 R277, R278).
Where one run of a tile differs from the other two, the pod that computed it is treated as failed, and a run that agrees is
released; where all three differ, no pod is, and the head is noted as unresolved (from 08 R278,
R279). The counters take these outcomes when the band is kept (from 08 R280). Completes: CRITICAL_COMPARE,
CRITICAL_THIRD_RUN. -/
def Obligations.CriticalHeadsAreComparedAndVoted : Prop :=
  (∀ (n head : Nat) (x : CompareIn) (a b : Op) (diff : List Tile) (s u : State), critGoes s n = true →
    headRan s n (streamGet s n).kept head 0 true = true → headRan s n (streamGet s n).kept head 1 true = true →
    headWorks s n (streamGet s n).kept head 2 = [] → critEnded s n head = false → slotsFor s n x.third.length = true →
    finalOp s n head 0 = some a → finalOp s n head 1 = some b → u = applyErrs s n x.errs → critDiff u n a b = .ok diff →
    (diff = [] → x.detsA = x.detsB →
      ∃ t, exec (.criticalCompare n head x) s = .next t ∧ t = { u with streams := t.streams } ∧
        streamGet t n = { streamGet u n with
          critDone := (streamGet u n).critDone ++ [⟨head, 0, 0, 0, (critOutput a).2, (critOutput a).1, 0xFFFFFFFF⟩],
          critRuns := (streamGet u n).critRuns ++ [(head, (streamGet u n).kept, some 0)] } ∧ streamsKept u t n) ∧
    (diff ≠ [] ∨ x.detsA ≠ x.detsB →
      exec (.criticalCompare n head x) s = .next (issueThird u n (streamGet s n).kept head x.third)) ∧
    (diff ≠ [] ∨ x.detsA ≠ x.detsB → ∀ o op, x.third = [o] → (∃ k, k < 1024 ∧ tget u.slots k = none) →
      (streamGet u n).faulting = none →
      issueOp u n u.nextWid ⟨(streamGet s n).kept, ((headWorks u n (streamGet s n).kept head 1).map fun e => e.2.opIdx).getD 0 0xFFFF,
        2, some head, o.cross, o.waits⟩ o.opBlock o.mappings = .ready op →
      ∃ t w, exec (.criticalCompare n head x) s = .next t ∧ workGet t u.nextWid = some w ∧ w.op = some op ∧
        w.phase = .running ∧ w.stream = n ∧ w.pair = none ∧ worksKept u t u.nextWid ∧ t.nextWid = u.nextWid + 1 ∧
        t.mem = u.mem ∧ t.streams = u.streams ∧ t.pods = u.pods ∧ ∀ a, regGet t a = regGet u a)) ∧
  (∀ (n head : Nat) (x : ThirdIn) (a b c : Op) (l : List (Tile × CritTile)) (s u : State), critGoes s n = true →
    headRan s n (streamGet s n).kept head 2 true = true → critEnded s n head = false → finalOp s n head 0 = some a →
    finalOp s n head 1 = some b → finalOp s n head 2 = some c → u = applyErrs s n x.errs → critTiles u n a b c = .ok l →
    (∀ (t : Tile) (k : Nat), l = [(t, .odd k)] → k < 3 → x.detsA = x.detsB → x.detsB = x.detsC →
      ∃ v, exec (.criticalThirdRun n head x) s =
          .next (podFailed v (tilePod u (if k = 0 then a else if k = 1 then b else c) t)) ∧
        v = { u with streams := v.streams, log := v.log, logHead := v.logHead } ∧
        (streamGet v n).critDone = (streamGet u n).critDone ++ [⟨head, 1, if k = 0 then 1 else 0, 0,
          (critOutput (if k = 0 then b else a)).2, (critOutput (if k = 0 then b else a)).1, 0xFFFFFFFF⟩] ∧
        streamsKept u v n ∧ ∃ e ∈ v.log, e.code = 0x0218) ∧
    ((∀ e ∈ l, e.2 ≠ .apart) → critOf x.detsA x.detsB x.detsC ≠ .apart →
      ∃ (v : State) (pods : List Nat) (r : Nat) (out : Nat × Nat), exec (.criticalThirdRun n head x) s = .next (pods.foldl podFailed v) ∧ r < 3 ∧
        v = { u with streams := v.streams, log := v.log, logHead := v.logHead } ∧
        (streamGet v n).critDone = (streamGet u n).critDone ++ [⟨head, 1, r, 0, out.2, out.1, 0xFFFFFFFF⟩] ∧
        streamsKept u v n ∧ ∃ e ∈ v.log, e.code = 0x0218) ∧
    ((∃ t, (t, .apart) ∈ l) → ∀ diff, diff = l.filter (fun e => e.2 != .same) →
      ∃ t, exec (.criticalThirdRun n head x) s = .next t ∧
        t = { u with streams := t.streams, log := t.log, logHead := t.logHead } ∧
        (∀ d, diff.head? = some d → (streamGet t n).critDone = (streamGet u n).critDone ++
          [⟨head, 2, 0, diff.length, (critOutput a).2, (critOutput a).1, d.1.num⟩]) ∧
        streamsKept u t n ∧ ∃ e ∈ t.log, e.code = 0x0218)) ∧
  (∀ (n band : Nat) (d : CritDone) (s : State), (streamGet s n).critDone = [d] → (streamGet s n).ring = none →
    d.outcome ≤ 2 →
    regGet (keepCrit s n band) 0x1001038 = min (regGet s 0x1001038 + 1) (2 ^ 32 - 1) ∧
    f (regGet (keepCrit s n band) 0x100103C) 15 0 = min (f (regGet s 0x100103C) 15 0 + b2n (d.outcome == 1)) 65535 ∧
    f (regGet (keepCrit s n band) 0x100103C) 31 16 = min (f (regGet s 0x100103C) 31 16 + b2n (d.outcome == 2)) 65535 ∧
    regsKept s (keepCrit s n band) [0x1001038, 0x100103C])

/-- 09 R283, R285, R290, R295: a NOP completes at once: the sixteen bytes of its completion go into the pair's next
slot, and no other byte of memory changes. Completes: NOP. -/
def Obligations.NopWritesItsCompletion : Prop :=
  ∀ (wid p : Nat) (w : Work) (s : State), startedAs s wid 0x00 = some w → w.pair = some p → w.slot = none →
    cqWritable s p → Memory.wf s.mem = true → Tab.wf s.works = true →
    ∃ t, exec (.nop wid) s = .next t ∧
      memGetN t.mem (cqSlot s p) 16 =
        leBytes 4 (leAt w.desc 4 4) ++ [0, 0] ++
          leBytes 1 (leAt w.desc 2 1 % 128 + 128 * (((pairGet s p).cqTail / 2 ^ cqLog2 s p + 1) % 2)) ++ leBytes 1 p ++
          leBytes 2 (2 ^ 15) ++ [0, 0] ++ leBytes 4 s.time ∧
      bytesKeptOutside s t (cqSlot s p) 16 ∧ workGet t wid = none ∧ (∀ k, k ≠ wid → workGet t k = workGet s k) ∧
      (pairGet t p).cqTail = ((pairGet s p).cqTail + 1) % 2 ^ 32 ∧ (pairGet t p).fetch = (pairGet s p).fetch ∧
      (∀ q, q ≠ p → pairGet t q = pairGet s q) ∧ (∀ a, regGet t a = regGet s a) ∧ t.streams = s.streams ∧ t.log = s.log

/-- 09 R284: a producer index behind or at the one doorbelled is ignored, one within the ring is taken, one more than
the ring's size ahead of the fetch index stops the pair, which fetches no more until it is enabled again, with a
ring-stopped event; a doorbell on a disabled pair is ignored and logged. Completes: SQ_DB. -/
def Obligations.SubmissionDoorbellRules : Prop :=
  ∀ (w : Writer) (p : Nat) (v : Word) (s : State), p < 64 → mayWrite s w = true →
    (pairEnabled s p = true → (pairGet s p).stopped = false → serialGe 32 (pairGet s p).sqDb v.toNat = true →
      exec (.sqDb w p v) s = .next { s with resp := ⟨0, false⟩ }) ∧
    (pairEnabled s p = true → (pairGet s p).stopped = false → serialGe 32 (pairGet s p).sqDb v.toNat = false →
      (v.toNat + 2 ^ 32 - (pairGet s p).fetch) % 2 ^ 32 ≤ 2 ^ sqLog2 s p →
      ∃ t, exec (.sqDb w p v) s = .next t ∧ t = { s with pairs := t.pairs, resp := ⟨0, false⟩ } ∧
        pairGet t p = { pairGet s p with sqDb := v.toNat } ∧ ∀ q, q ≠ p → pairGet t q = pairGet s q) ∧
    (pairEnabled s p = true → (pairGet s p).stopped = false → serialGe 32 (pairGet s p).sqDb v.toNat = false →
      2 ^ sqLog2 s p < (v.toNat + 2 ^ 32 - (pairGet s p).fetch) % 2 ^ 32 →
      ∃ u, exec (.sqDb w p v) s = .next { eventAdd u 0x45 p with resp := ⟨0, false⟩ } ∧ (pairGet u p).stopped = true ∧
        posted u p = false ∧ u = { s with pairs := u.pairs, log := u.log, logHead := u.logHead } ∧
        u.works = s.works ∧ logged u 0x0214 (p + 2 ^ 8)) ∧
    (pairEnabled s p = false →
      ∃ t, exec (.sqDb w p v) s = .next t ∧ t = { s with log := t.log, logHead := t.logHead, resp := ⟨0, false⟩ } ∧
        logged t 0x0214 p)

/-- A write of PAIR_n.CFG that only clears enable is taken at any time; of an idle pair every write is taken, but that one
which enables it needs the device ready and the rings of a local pair in LPDDR; enabling puts the indices at 0. A write
that does not meet this leaves the register and is logged (from 09 R282, R283, R318, 13 R436). A consumer index that returns
written slots is taken, of a pair's completion ring and of a stream's result ring, and changes nothing else (from 09 R285,
R300). RESULT_RING gives the stream its ring and its home pair, with the next index at 0; records still held move with it;
its completion follows (from 09 R300). Completes: PAIR_CFG_WRITE, CQ_DB, RES_DB, RESULT_RING. -/
def Obligations.PairsRingsAndConsumerIndices : Prop :=
  (∀ (w : Writer) (p : Nat) (v : Word) (s : State), p < 64 → mayWrite s w = true →
    (∀ r i j, namedReg (regAddr (0x5001010 + p * 0x40)) 4 = some (r, i, j) →
      r.legal (v.toNat &&& (r.rw ||| r.wo)) = true ∧ v.toNat &&& (r.rw ||| r.wo) = v.toNat) →
    ((bitOf (pairCfg s p) 31 = true ∧ v.toNat = setF (pairCfg s p) 31 31 0) ∨
      (ringIdle s p = true ∧ (bitOf v.toNat 31 = true → pairEnabled s p = true ∧ deviceReady s = true ∧ ringsAt s p v.toNat = true)) →
      ∃ t, exec (.pairCfgWrite w p v) s = .next t ∧ t = { s with regs := t.regs, resp := ⟨0, false⟩ } ∧
        regGet t (0x5001010 + p * 0x40) = v.toNat ∧ regsKept s t [0x5001010 + p * 0x40]) ∧
    (bitOf v.toNat 31 = true → pairEnabled s p = false → ringIdle s p = true → deviceReady s = true →
      ringsAt s p v.toNat = true →
      ∃ t, exec (.pairCfgWrite w p v) s = .next t ∧ t = { s with regs := t.regs, pairs := t.pairs, resp := ⟨0, false⟩ } ∧
        pairGet t p = { Pair.reset with events := (pairGet s p).events, timer := (pairGet s p).timer } ∧
        regGet t (0x5001010 + p * 0x40) = v.toNat ∧ pairEnabled t p = true ∧
        regsKept s t [0x5001010 + p * 0x40] ∧ pairsKept s t p) ∧
    (¬ (bitOf (pairCfg s p) 31 = true ∧ v.toNat = setF (pairCfg s p) 31 31 0) →
      ringIdle s p = false ∨ (bitOf v.toNat 31 = true ∧ (deviceReady s = false ∨ ringsAt s p v.toNat = false)) →
      ∃ t, exec (.pairCfgWrite w p v) s = .next t ∧ t = { s with log := t.log, logHead := t.logHead, resp := ⟨0, false⟩ } ∧
        logged t 0x0501 ((0x6005001010 + p * 0x40) % 2 ^ 32))) ∧
  (∀ (w : Writer) (p : Nat) (v : Word) (s : State), p < 64 → mayWrite s w = true → pairEnabled s p = true →
    serialGe 32 v.toNat (pairGet s p).cqCons = true → serialGe 32 (pairGet s p).cqTail v.toNat = true →
    ∃ t, exec (.cqDb w p v) s = .next t ∧ t = { s with pairs := t.pairs, resp := ⟨0, false⟩ } ∧
      pairGet t p = { pairGet s p with cqCons := v.toNat } ∧ pairsKept s t p) ∧
  (∀ (w : Writer) (n : Nat) (v : Word) (r : ResRing) (s : State), 1 ≤ n → n ≤ 127 → mayWrite s w = true →
    (streamGet s n).ring = some r → serialGe 32 v.toNat r.cons = true → serialGe 32 r.tail v.toNat = true →
    ∃ t, exec (.resDb w n v) s = .next t ∧ t = { s with streams := t.streams, resp := ⟨0, false⟩ } ∧
      streamGet t n = { streamGet s n with ring := some { r with cons := v.toNat } } ∧ streamsKept s t n) ∧
  (∀ (wid p : Nat) (w : Work) (s : State), startedAs s wid 0x0C = some w → w.pair = some p →
    (streamGet s w.stream).state ≠ .free →
    ∃ u, exec (.resultRing wid) s = .next (complete u wid 0 0) ∧ u = { s with streams := u.streams } ∧
      (streamGet u w.stream).home = p ∧ streamsKept s u w.stream ∧
      ∃ r, (streamGet u w.stream).ring = some r ∧ r.base = leAt w.desc 8 8 ∧ r.log2 = leAt w.desc 16 1 ∧ r.tail = 0 ∧
        r.cons = 0 ∧ r.staging = (match (streamGet s w.stream).ring with | some q => q.staging | none => []))

/-- The next descriptor of the only pair that has posted any, read from its ring in device memory or already come from the
host, starts: a work holds it, with the lowest free scoreboard slot where its opcode takes one, and the fetch index goes on
by one (from 09 R286, R303). The descriptors of a remote pair that have not come are asked of the host, at most 16 and not
across the ring's end (from 09 R312). Completes: DESCRIPTOR_FETCH. -/
def Obligations.FetchStartsTheNextDescriptor : Prop :=
  (∀ (p : Nat) (d : List Byte) (s : State), s.pairs.map (·.1) = [p] → posted s p = true →
    peekDesc s p (pairGet s p).fetch = some (.ok d) →
    descHeld s p (pairGet s p).fetch d = false → (pairGet s p).cancels = [] → descErr d (pairRemote s p) = none →
    streamErr s p d = none → (opcodeSlot (leAt d 0 1) = true → ∃ n, n < 1024 ∧ tget s.slots n = none) →
    ∃ t, exec .descriptorFetch s = .next t ∧ (pairGet t p).fetch = ((pairGet s p).fetch + 1) % 2 ^ 32 ∧
      t.nextWid = s.nextWid + 1 ∧ t.mem = s.mem ∧ (∀ a, regGet t a = regGet s a) ∧ t.streams = s.streams ∧
      (∃ w, workGet t s.nextWid = some w ∧ w.pair = some p ∧ w.index = (pairGet s p).fetch ∧ w.desc = d ∧
        w.phase = .fetched ∧ w.stream = leAt d 2 1 ∧
        (opcodeSlot (leAt d 0 1) = true → ∃ n, w.slot = some n ∧ tget s.slots n = none ∧ tget t.slots n = some s.nextWid ∧
          ∀ m, m < n → tget s.slots m ≠ none) ∧
        (opcodeSlot (leAt d 0 1) = false → w.slot = none ∧ t.slots = s.slots)) ∧ worksKept s t s.nextWid) ∧
  (∀ (p slot n : Nat) (s : State), s.pairs.map (·.1) = [p] → posted s p = true → pairRemote s p = true →
    tget (pairGet s p).fetched (pairGet s p).fetch = none → rrpRoom s = true → s.rrp.state = 1 → readsOf s p = false →
    s.rrp.reads.length < 64 → slot = (pairGet s p).fetch % 2 ^ sqLog2 s p →
    n = min (min (((pairGet s p).sqDb + 2 ^ 32 - (pairGet s p).fetch) % 2 ^ 32) (2 ^ sqLog2 s p - slot)) 16 →
    ∃ t m, exec .descriptorFetch s = .next t ∧ t.rrp.unacked = s.rrp.unacked ++ [m] ∧ m.type = 0x04 ∧
      m.payload = leBytes 8 (reg64 s (0x5001000 + p * 0x40) + slot * 64) ++ leBytes 2 (n * 64) ++
        leBytes 2 s.rrp.nextRead ++ leBytes 4 0 ∧
      t = { s with rrp := t.rrp, pairs := t.pairs, lastPair := p })

/-- A completion for which no slot has been returned, or before which another waits, is written nowhere: it waits in the
device, and the pair fetches no more (from 09 R285). What waits goes out in order once it can: the oldest completion, or
with none the oldest event, into a returned slot, an error counted and a work's own completion ending it; the oldest staged
record into a free place of the result ring; and one notification when the coalescing time is over (from 09 R285, R299,
R301, R308). Completes: COMPLETION_WRITE, RESULT_RECORD_WRITE, COALESCE_TIMER. -/
def Obligations.WaitingThingsAreWrittenInOrder : Prop :=
  (∀ (p : Nat) (c : Compl) (s : State), cqRoom s p = false ∨ (pairGet s p).wait ≠ [] →
    deliver s p c = { s with pairs := (deliver s p c).pairs } ∧
      (pairGet (deliver s p c) p).wait = (pairGet s p).wait ++ [c] ∧ pairsKept s (deliver s p c) p ∧
      posted (deliver s p c) p = false) ∧
  (∀ (p : Nat) (c : Compl) (rest : List Compl) (s : State),
    (pairGet s p).wait = c :: rest ∨ ((pairGet s p).wait = [] ∧ (pairGet s p).events = c :: rest) → cqRoom s p = true →
    pairRemote s p = false → checkRange s (writeBy 0 0) (cqSlot s p) 16 = none → poisonPartial s (cqSlot s p) 16 = none →
    Memory.wf s.mem = true →
    ∃ t, exec (.completionWrite p) s = .next t ∧
      (if (pairGet s p).wait = [] then (pairGet t p).events = rest ∧ (pairGet t p).wait = []
        else (pairGet t p).wait = rest ∧ (pairGet t p).events = (pairGet s p).events) ∧
      (pairGet t p).cqTail = ((pairGet s p).cqTail + 1) % 2 ^ 32 ∧ memGetN t.mem (cqSlot s p) 16 = complBytes s p c ∧
      bytesKeptOutside s t (cqSlot s p) 16 ∧ pairsKept s t p ∧ t.streams = s.streams ∧ t.log = s.log ∧
      (c.status = 5 → c.event = false → counted s t (0x5001028 + p * 0x40) 1) ∧
      (c.status ≠ 5 ∨ c.event = true → t.regs = s.regs) ∧
      (∀ k, c.wid = some k → Tab.wf s.works = true → workGet t k = none ∧ worksKept s t k) ∧
      (c.notify = false → t.out = s.out) ∧
      (c.wid = none → c.notify = false → c.status ≠ 5 → t = { s with mem := t.mem, poison := t.poison, pairs := t.pairs, ddr := t.ddr })) ∧
  (∀ (n : Nat) (r : ResRing) (b : List Byte) (rest : List (List Byte)) (s : State), (streamGet s n).ring = some r →
    r.staging = b :: rest → r.room = true → pairRemote s (streamGet s n).home = false → b.length = 64 →
    checkRange s (writeBy 0 0) (r.base + r.tail % 2 ^ r.log2 * 64) 64 = none →
    poisonPartial s (r.base + r.tail % 2 ^ r.log2 * 64) 64 = none → Memory.wf s.mem = true →
    ∃ t, exec (.resultRecordWrite n) s = .next t ∧
      memGetN t.mem (r.base + r.tail % 2 ^ r.log2 * 64) 64 = ringRecord r b ∧
      bytesKeptOutside s t (r.base + r.tail % 2 ^ r.log2 * 64) 64 ∧
      (streamGet t n).ring = some { r with tail := (r.tail + 1) % 2 ^ 32, staging := rest } ∧
      t = { s with mem := t.mem, poison := t.poison, streams := t.streams, ddr := t.ddr }) ∧
  (∀ (p u : Nat) (s : State), (pairGet s p).timer = some u → u ≤ s.elapsed → pairRemote s p = false →
    ∃ t, exec (.coalesceTimer p) s = .next t ∧ t = { s with pairs := t.pairs, out := .irq (64 + p) :: s.out } ∧
      pairGet t p = { pairGet s p with timer := none } ∧ pairsKept s t p)

/-- 09 R313: a message of the session with the seq expected is taken and acknowledged; a DOORBELL acts as the write of
its doorbell, a register message as a register access whose outcome REG_RESP carries, and READ_RESP brings a transfer
its data. Completes: DOORBELL, REG_READ, REG_WRITE, READ_RESP. -/
def Obligations.SessionMessagesAct : Prop :=
  ∀ (h : RrpHdr) (s u : State), rrpAccept s h = .ok u → resetting u = false →
    (∀ n index, n < 64 → exec (.doorbell h 0 n index) s = exec (.sqDb .rrp n index) u ∧
      exec (.doorbell h 1 n index) s = exec (.cqDb .rrp n index) u) ∧
    (∀ n index, 1 ≤ n → n ≤ 127 → exec (.doorbell h 2 n index) s = exec (.resDb .rrp n index) u) ∧
    (∀ a, exec (.regRead h a) s = .next (regResp (busRead u .rrp a 4) a)) ∧
    (∀ a v, exec (.regWrite h a v) s = .next (regResp (busWrite u .rrp a 4 v) a)) ∧
    (∀ req wid a d w, tget u.rrp.reads req = some (1, wid, a) → workGet u wid = some w → u.boot.topoWant = [] →
      ∃ t, exec (.readResp h req d) s = .next t ∧ workGet t wid = some { w with buf := w.buf ++ [(a, d)] } ∧
        (∀ k, k ≠ wid → workGet t k = workGet u k) ∧ t = { u with works := t.works, rrp := t.rrp } ∧
        t.rrp = { u.rrp with reads := tdel u.rrp.reads req })

/-- 09 R313: the message expected next is taken and its acknowledgment goes out; one behind is dropped and
acknowledged again; one ahead, or of another session, changes nothing but by the ack it carries. 09 R312, R313: an
acknowledgment, carried by ACK or KEEPALIVE, releases every message before it and returns a lost session to open; a
retransmission sends every message of the window again and counts it, and the sixteenth retry of the oldest loses the
session. Completes: ACK, KEEPALIVE, RRP_RETRANSMIT. -/
def Obligations.SessionSequenceAndRetransmission : Prop :=
  (∀ (h : RrpHdr) (s v : State), rrpHeard s h = some v → v.rrp.rxSeq < 2 ^ 32 → h.seq < 2 ^ 32 →
    (h.seq = v.rrp.rxSeq → ∃ u, rrpAccept s h = .ok u ∧
      u = { v with rrp := { v.rrp with rxSeq := (v.rrp.rxSeq + 1) % 2 ^ 32 }, out := .rrpAck ((v.rrp.rxSeq + 1) % 2 ^ 32) :: v.out }) ∧
    (h.seq ≠ v.rrp.rxSeq → (h.seq + 2 ^ 32 - v.rrp.rxSeq) % 2 ^ 32 < 2 ^ 31 → rrpAccept s h = .error v) ∧
    ((h.seq + 2 ^ 32 - v.rrp.rxSeq) % 2 ^ 32 ≥ 2 ^ 31 →
      rrpAccept s h = .error { v with out := .rrpAck v.rrp.rxSeq :: v.out })) ∧
  ((∀ (h : RrpHdr) (s : State), s.rrp.state ≠ 0 → h.session = s.rrp.session → rrpOpenTo s h.secured = true →
    rrpFrom s h.src h.srcPort = true → serialGe 32 s.rrp.txSeq h.ack = true →
    (∃ m ∈ s.rrp.unacked, serialGe 32 m.seq h.ack = false) →
    ∃ t, exec (.ack h) s = .next t ∧ exec (.keepalive h) s = .next t ∧ t.rrp.state = 1 ∧
      t.rrp.unacked.map (·.seq) = (s.rrp.unacked.map (·.seq)).filter (serialGe 32 · h.ack) ∧
      t = { s with rrp := { s.rrp with state := 1, unacked := t.rrp.unacked }, log := t.log, logHead := t.logHead } ∧
      (s.rrp.state = 1 → t.log = s.log)) ∧
  (∀ (m : RrpMsg) (ms : List RrpMsg) (s : State), s.rrp.unacked = m :: ms → s.rrp.state = 1 → ms.length < 256 →
    rtoOf s m.retries ≤ s.elapsed - m.sent →
    ∃ t, exec .rrpRetransmit s = .next t ∧
      t.rrp.unacked = (m :: ms).map (fun x => { x with retries := x.retries + 1, sent := s.elapsed }) ∧
      t.rrp.state = (if m.retries + 1 < 16 then 1 else 2) ∧ regsKept s t [0xC004028] ∧
      regGet t 0xC004028 = min (regGet s 0xC004028 + (ms.length + 1)) (2 ^ 32 - 1) ∧
      (m.retries + 1 < 16 → t.log = s.log) ∧ (16 ≤ m.retries + 1 → logged t 0x0215 1) ∧ t.mem = s.mem))

/-- 15 R481 to R483, 09 R314: a whole OPEN that is accepted takes the device over: the session is open with its
numbers begun, what the old session still waited for is dropped, the log says how many works of the remote pairs were
dropped, and OPEN_OK is the first message sent; where there is nothing of an old session to drop, nothing else
changes. One that fails is counted and logged with the condition it fails, and the session stays; fragments that stay
incomplete 100 ms are forgotten. Completes: OPEN, OPEN_FRAGMENT_TIMEOUT. -/
def Obligations.OpenTakesTheDeviceOver : Prop :=
  (∀ (sigOk : Bool) (s : State), fragsWhole s = true → resetting s = false → openFail s (openBody s) sigOk = none →
    ∃ t, exec (.open_ sigOk) s = .next t ∧ t.rrp.state = 1 ∧ t.rrp.session = s.rrp.fragSession ∧
      t.rrp.rxSeq = s.rrp.fragCount ∧ t.rrp.txSeq = 1 ∧ t.rrp.reads = [] ∧ t.rrp.frags = [] ∧ t.rrp.heldMsgs = [] ∧
      (∃ m, t.rrp.unacked = [m] ∧ m.seq = 0 ∧ m.type = 0x02 ∧ m.payload = leBytes 4 s.rrp.fragSession) ∧
      (remoteWorks s = [] → (∀ p, p < 64 → pairRemote s p = false) → s.boot.topoLeft = 0 → rrpUnbound s = false →
        logged t 0x0216 0 ∧ (∀ a, regGet t a = regGet s a) ∧ t.mem = s.mem ∧ t.works = s.works ∧ t.pairs = s.pairs)) ∧
  (∀ (sigOk : Bool) (k : Nat) (s : State), fragsWhole s = true → resetting s = false →
    openFail s (openBody s) sigOk = some k →
    ∃ t, exec (.open_ sigOk) s = .next t ∧ t.rrp.state = s.rrp.state ∧ t.rrp.session = s.rrp.session ∧ t.rrp.frags = [] ∧
      f (regGet t 0xE000070) 15 0 = min (f (regGet s 0xE000070) 15 0 + 1) 65535 ∧ regsKept s t [0xE000070] ∧
      logged t 0x0604 (k % 2 ^ 32) ∧ t.sec = s.sec ∧ t.works = s.works ∧ t.mem = s.mem) ∧
  (∀ s : State, fragsPartial s = true → 100000000 ≤ s.elapsed - s.rrp.fragTime →
    exec .openFragmentTimeout s =
      .next { s with rrp := { s.rrp with fragSession := 0, fragCount := 0, frags := [], fragTime := 0 } })

/-- Each run of a DMA moves one unit, which ends at a 4 KiB boundary of the destination or with its segment of a compressed row
(from 09 R292, R306): between addresses of the device it puts the part that the unit covers of the result, which for a plain
copy is its source byte for byte, at its place, and nothing else in memory changes; to or from the host it sends the messages that carry or ask for the bytes, and no
byte of memory changes. Once every unit is written and answered its completion follows (from 09 R292, R315). Completes: DMA,
DMA_DONE. -/
def Obligations.DmaCopiesAndCompletes : Prop :=
  (∀ (wid : Nat) (w : Work) (x : DmaDesc) (u : DmaUnit) (s : State), workGet s wid = some w → w.pair.isSome = true →
    leAt w.desc 0 1 = 0x02 → w.phase = .fetched ∨ w.phase = .running → w.buf = [] → w.op = none → w.cancelled = false →
    x = decDma w.desc → dmaUnit x w.aux = some u → 0 < u.n → dmaRoom s x = true → ddrLineWaiting s = false → pairLost s = false →
    (w.stream = 0 ∨ (streamGet s w.stream).spilled = []) →
    (∀ e ∈ s.works, e.1 ≠ wid → (e.2.phase ≠ .running ∧ e.2.phase ≠ .fetched) ∨ leAt e.2.desc 0 1 ≠ 0x02) →
    (w.phase = .running ∨ ∀ e ∈ s.wins, e.2.kind ≠ 6) →
    (∀ z b dst, x.srcSpace = 0 → x.dstSpace = 0 → dmaResult x u (streamReader s w.stream wid) = .ok z →
      b = (z.drop u.lo).take (u.hi - u.lo) → dst = movedAddr (streamGet s w.stream) (u.to_ + u.lo) → checkRange s (writeBy w.stream wid) dst b.length = none →
      poisonPartial s dst b.length = none → Memory.wf s.mem = true →
      ∃ t, exec (.dma wid ⟨[], [], 0⟩) s = .next t ∧ memGetN t.mem dst b.length = b ∧ bytesKeptOutside s t dst b.length ∧
        (x.compress = false → x.decompress = false →
          b = memGetN s.mem (movedAddr (streamGet s w.stream) u.from_) u.n) ∧
        workGet t wid = some { w with phase := .running, aux := w.aux + 1 } ∧ worksKept s t wid ∧
        (∀ a, regGet t a = regGet s a) ∧ t.wins = s.wins ∧ t.streams = s.streams ∧ t.pairs = s.pairs ∧ t.log = s.log) ∧
    (∀ z, x.srcSpace = 0 → x.dstSpace = 2 → dmaResult x u (streamReader s w.stream wid) = .ok z →
      ∃ t, exec (.dma wid ⟨[], [], 0⟩) s = .next t ∧
        t.rrp = (hostWrite s (u.to_ + u.lo) ((z.drop u.lo).take (u.hi - u.lo))).rrp ∧ t.mem = s.mem ∧
        workGet t wid = some { w with phase := .running, aux := w.aux + 1 } ∧ worksKept s t wid) ∧
    (x.srcSpace = 2 → x.decompress = false → openReads s wid = 0 →
      s.rrp.reads.length + ceilDiv u.n 1024 ≤ 64 →
      ∃ t, exec (.dma wid ⟨[], [], 0⟩) s = .next t ∧ t.rrp = (hostReads s 1 wid (hostPieces u.from_ u.n)).rrp ∧
        t.mem = s.mem ∧ workGet t wid = some { w with phase := .running } ∧ worksKept s t wid)) ∧
  (∀ (wid : Nat) (w : Work) (s : State), workGet s wid = some w → w.pair.isSome = true → leAt w.desc 0 1 = 0x02 →
    w.phase = .running → w.cancelled = false → dmaUnit (decDma w.desc) w.aux = none → openReads s wid = 0 →
    exec (.dmaDone wid) s = .next (complete s wid 0 0))

/-- START makes an admitted stream RUNNING from band 0, or BYPASS where admission could not place it again, with the next
line of each camera as its first, the lines stored before it given back, its channels' coefficient tables loaded and its
group joined; the change is logged and its completion follows (from 06 R193, R194, R198, 07 R252). RESUME of a halted stream
goes on at the band its position record holds, of a line-locked one at the first later band whose lines are all to be had,
in BYPASS only where it was in it and step 4 still holds; RESUME of an admitted deferrable stream goes on from the saved
record that it names (from 06 R213, R214). Completes: START, RESUME. -/
def Obligations.StartAndResumeRunTheStream : Prop :=
  (∀ (wid n : Nat) (sched : Sched) (x : Stream) (w : Work) (s : State), startedAs s wid 0x05 = some w → n = w.stream →
    x = streamGet s n → sched = x.sched.getD Sched.none → x.state = .admitted → x.ring.isSome = true →
    chanUnset s n = false → reserveShort s n sched = false →
    (∀ c ∈ bitsOf 16 x.rsmpMask, checkRange s (readBy n 0) (reg64 s (0x7001018 + c * 0x100)) 4096 = none ∧
      poisonIn s (reg64 s (0x7001018 + c * 0x100)) 4096 = none) →
    (sched.group = 0 ∨ (groupGet s sched.group).isSome = true) →
    ∃ u, exec (.start wid ⟨[], [], 0⟩) s = .next (complete u wid 0 0) ∧
      (streamGet u n).state = (if x.bypass47 then .bypass else .running) ∧ (streamGet u n).sched = x.sched ∧
      (streamGet u n).band = 0 ∧ (streamGet u n).kept = 0 ∧ (streamGet u n).bypassed = [] ∧ (streamGet u n).record = false ∧
      (streamGet u n).camBase = (bitsOf 16 x.camMask).map (fun p => (p, (camGet s p).seq)) ∧
      (∀ p ∈ bitsOf 16 x.camMask, (camGet u p).lines = [] ∧ (camGet u p).seq = (camGet s p).seq) ∧
      (∀ c ∈ bitsOf 16 x.rsmpMask, ∃ y, tget u.chans c = some y ∧ y.lines = [] ∧ y.next = none ∧
        y.coef = memGetN s.mem (reg64 s (0x7001018 + c * 0x100)) 4096) ∧
      (∀ y, sched.group ≠ 0 → groupGet s sched.group = some y →
        groupGet u sched.group = some { y with streams := y.streams ++ [n] }) ∧
      streamsKept s u n ∧ (∀ a, regGet u a = regGet s a) ∧ u.works = s.works ∧ u.wins = s.wins ∧ u.parts = s.parts ∧
      logged u 0x0402 ((n + 2 ^ 8 * (if x.bypass47 then 3 else 2) + 2 ^ 12) % 2 ^ 32) ∧
      ((∀ e ∈ s.parts, e.2.stream ≠ n) → bytesKept s u)) ∧
  (∀ (wid n first r : Nat) (x : Stream) (w : Work) (s : State), startedAs s wid 0x06 = some w → n = w.stream →
    x = streamGet s n → x.state = .halted → x.record = true → first = (x.pos.getD 1 0).toNat →
    r = (if x.cls = .lineLocked then resumeBand s x first else first) →
    ∃ u, exec (.resume wid ⟨[], [], 0⟩) s = .next (complete u wid 0 0) ∧
      (streamGet u n).state = (if x.bypass47 || (x.wasBypass && x.step == 4) then .bypass else .running) ∧
      (streamGet u n).band = r ∧ (streamGet u n).kept = r ∧ streamsKept s u n ∧ (∀ a, regGet u a = regGet s a) ∧
      u.works = s.works ∧ u.wins = s.wins ∧ u.parts = s.parts ∧ ((∀ e ∈ s.parts, e.2.stream ≠ n) → bytesKept s u)) ∧
  (∀ (wid n : Nat) (b : List Byte) (x : Stream) (w : Work) (s : State), startedAs s wid 0x06 = some w → n = w.stream →
    x = streamGet s n → x.state = .admitted → x.cls = .deferrable → leAt w.desc 8 8 ≠ 0 →
    devRead s (readBy 0 wid) (leAt w.desc 8 8) 32 = .ok b → leAt b 0 2 = n → bitOf (leAt b 3 1) 0 = true →
    leAt b 2 1 = 0x09 → (x.sched.getD Sched.none).group = 0 →
    ∃ u, exec (.resume wid ⟨[], [], 0⟩) s = .next (complete u wid 0 0) ∧
      (streamGet u n).state = (if x.bypass47 then .bypass else .running) ∧ (streamGet u n).band = leAt b 4 4 ∧
      (streamGet u n).kept = leAt b 4 4 ∧ streamsKept s u n ∧ u.works = s.works ∧ u.wins = s.wins ∧ u.parts = s.parts)

/-- A fault, or HALT, marks a stream that runs as halting from that moment and discards its prefetched blocks; the work that
it struck waits, and nothing else changes (from 06 R210, R213, 09 R307). Once nothing the stream asked for is under way, the
position record is made, the stream is HALTED and the log says so; a fault gives an event and its work a fault completion,
HALT its own completion and no event (from 06 R211, R213, 09 R296, R307). Completes: STREAM_FAULT, HALT, HALT_RECORD. -/
def Obligations.FaultsAndHaltStopAStream : Prop :=
  (∀ (n : Nat) (fi : FaultInfo) (s : State), (streamGet s n).state ∈ [StState.running, .bypass, .shed] →
    (streamGet s n).faulting = none →
    (fi.wid = none →
      ∃ t, exec (.streamFault n fi) s = .next t ∧ t = { s with streams := t.streams, staging := t.staging, cons := t.cons } ∧
        streamGet t n = { streamGet s n with faulting := some (fi, s.time), prefStop := false } ∧
        t.staging = s.staging.filter (fun g => g.stream != n) ∧ streamsKept s t n) ∧
    (∀ k v, fi.wid = some k → workGet s k = some v → v.stream = n → v.pair.isSome = true →
      ∃ t, exec (.streamFault n fi) s = .next t ∧
        t = { s with streams := t.streams, staging := t.staging, cons := t.cons, works := t.works } ∧
        streamGet t n = { streamGet s n with faulting := some (fi, s.time), prefStop := false } ∧
        workGet t k = some { v with phase := .waiting } ∧ worksKept s t k ∧
        t.staging = s.staging.filter (fun g => g.stream != n) ∧ streamsKept s t n)) ∧
  (∀ (wid : Nat) (w : Work) (s : State), startedAs s wid 0x07 = some w →
    (streamGet s w.stream).state ∈ [StState.running, .bypass, .shed] → (streamGet s w.stream).faulting = none →
    ∃ t, exec (.halt wid) s = .next t ∧
      t = { s with streams := t.streams, works := t.works, staging := t.staging, cons := t.cons } ∧
      streamGet t w.stream = { streamGet s w.stream with
        faulting := some ({ plainFault 0x0A with wid := some wid }, s.time), prefStop := false } ∧
      workGet t wid = some { w with phase := .waiting } ∧ worksKept s t wid ∧ streamsKept s t w.stream) ∧
  (∀ (n : Nat) (fi : FaultInfo) (at_ : Nat) (s : State), (streamGet s n).faulting = some (fi, at_) → readsOpen s n = false →
    ∃ u v, v = (if fi.cause = 0x0A then u else streamEvent u n 0x40 (5 + 2 ^ 8 * fi.cause)) ∧
      exec (.haltRecord n) s = .next (match fi.wid with
        | none => v
        | some k => if fi.cause = 0x0A then complete v k 0 0 else complete v k 4 (fi.cause + 2 ^ 8 * fi.window)) ∧
      (streamGet u n).state = .halted ∧ (streamGet u n).record = true ∧ (streamGet u n).cause = fi.cause ∧
      (streamGet u n).pos = positionRecord n (streamGet s n) fi (recordTime s n at_) ∧ (streamGet u n).faulting = none ∧
      (streamGet u n).band = (streamGet s n).kept ∧ (streamGet u n).wasBypass = ((streamGet s n).state == .bypass) ∧
      logged u 0x0401 ((n + 2 ^ 8 * fi.cause) % 2 ^ 32) ∧ streamsKept s u n ∧
      (∀ a, regGet u a = regGet s a) ∧ u.mem = s.mem ∧ u.wins = s.wins ∧ u.parts = s.parts)

/-- RELEASE of any stream that is neither free nor releasing leaves it releasing, its schedule's works ended and its
prefetched blocks discarded, and waits; where no operation of the stream is in flight the stream is FREE at once, its windows
and partitions returned, and its completion follows; a stream that was left releasing is freed when its last operation has
ended (from 05 R176, 06 R193). CANCEL by stream, by pair or by tag strikes every ring-issued operation that it selects, drops
what was prefetched for them and waits; one that has not run ends as cancelled, with status 3; those posted behind it are
marked, and each is counted; its own completion, which carries the count, follows once every target has ended (from 09 R306,
06 R204). Completes: RELEASE, STREAM_DRAINED, CANCEL, CANCEL_DRAINED. -/
def Obligations.ReleaseAndCancelReturnWork : Prop :=
  (∀ (wid : Nat) (w : Work) (s : State), startedAs s wid 0x04 = some w → (streamGet s w.stream).state ≠ .free →
    (streamGet s w.stream).state ≠ .releasing →
    ∃ v, exec (.release wid) s = .next (drainStream v w.stream) ∧ (streamGet v w.stream).state = .releasing ∧
      workGet v wid = some { w with phase := .waiting } ∧ (∀ g ∈ v.staging, g.stream ≠ w.stream)) ∧
  (∀ (wid : Nat) (w : Work) (s : State), startedAs s wid 0x04 = some w → w.cancelled = false →
    (∀ e ∈ s.works, e.2.stream = w.stream → e = (wid, w)) →
    (streamGet s w.stream).state ∈ [StState.admitted, .running, .bypass, .shed, .halted] →
    (streamGet s w.stream).faulting = none → groupGet s (groupOf (streamGet s w.stream)) = none →
    (streamGet s w.stream).dets = [] →
    ∃ u, exec (.release wid) s = .next (complete u wid 0 0) ∧ (streamGet u w.stream).state = .free ∧
      u.wins = s.wins.filter (fun e => !(e.2.owner == w.stream || e.2.holder == w.stream)) ∧
      u.parts = s.parts.filter (fun e => e.2.stream != w.stream) ∧ u.mem = s.mem ∧
      u.staging = s.staging.filter (fun g => g.stream != w.stream)) ∧
  (∀ (n : Nat) (s : State), (streamGet s n).state = .releasing →
    (∀ e ∈ s.works, e.2.stream = n → workGet s e.1 = some e.2 ∧ e.2.pair.isSome = true ∧
      isManagement (leAt e.2.desc 0 1) = true ∧ e.2.cancelled = false) →
    ∃ u, exec (.streamDrained n) s = .next (match s.works.find? fun e => e.2.stream == n && leAt e.2.desc 0 1 == 0x04 &&
        e.2.phase == .waiting with
        | some e => complete u e.1 0 0
        | none => u) ∧ (streamGet u n).state = .free ∧
      u.wins = s.wins.filter (fun e => !(e.2.owner == n || e.2.holder == n)) ∧
      u.parts = s.parts.filter (fun e => e.2.stream != n) ∧ u.mem = s.mem ∧ u.works = s.works) ∧
  (∀ (n : Nat) (s : State), (streamGet s n).state ≠ .releasing → 
    (∀ e ∈ s.works, e.2.stream = n → workGet s e.1 = some e.2 ∧ e.2.cancelled = false) → exec (.streamDrained n) s = .next s) ∧
  (∀ (wid scope : Nat) (sel : List Byte → Bool) (w : Work) (s : State), startedAs s wid 0x08 = some w →
    scope = leAt w.desc 8 1 →
    sel = (fun d => if scope = 1 then leAt d 2 1 == w.stream else scope == 2 || leAt d 4 4 == leAt w.desc 12 4) →
    (∃ t l k, exec (.cancel wid) s = .next t ∧
      workGet t wid = some { w with phase := .waiting, aux := k + (postedOps s (w.pair.getD 64) sel).length, targets := l,
                                    posted := postedOps s (w.pair.getD 64) sel } ∧
      (∀ g ∈ t.staging, ∀ e ∈ s.works, e.2.pair.isSome = true → e.1 ≠ wid →
        (scope = 1 ∧ e.2.stream = w.stream) ∨ (scope ≠ 1 ∧ e.2.pair = w.pair ∧
          (scope = 2 ∨ leAt e.2.desc 4 4 = leAt w.desc 12 4)) → g.wid ≠ e.1)) ∧
    (∀ l, l = ringWorks s (fun k v => k != wid && (if scope = 1 then v.stream == w.stream
        else v.pair == w.pair && (scope == 2 || leAt v.desc 4 4 == leAt w.desc 12 4))) →
      (∀ k ∈ l, ∀ e ∈ s.works, e.1 = k → e.2.pair.isSome = true ∧ leAt e.2.desc 0 1 ≠ 0x08 ∧
        isManagement (leAt e.2.desc 0 1) = false ∧ (e.2.phase = .fetched ∨ e.2.phase = .heldOff)) →
      (∀ k ∈ l, l.count k = 1) → postedOps s (w.pair.getD 64) sel = [] →
      exec (.cancel wid) s = .next (workPut (l.foldl (fun s k => complete s k 3 0) (l.foldl dropWorkBlocks s)) wid
        { w with phase := .waiting, aux := l.length, targets := [], posted := [] }))) ∧
  (∀ (wid : Nat) (w : Work) (s : State), workGet s wid = some w → w.pair.isSome = true → leAt w.desc 0 1 = 0x08 →
    w.phase = .waiting → (∀ k ∈ w.targets, workGet s k = none) →
    (∀ i ∈ w.posted, i ∉ (pairGet s (w.pair.getD 64)).cancels) →
    exec (.cancelDrained wid) s = .next (complete s wid 0 (min w.aux 0xFFFF)))

/-- An ARRAY_OP of a running stream, fetched or held off before, whose structures pass is issued and runs; one with an empty
extent completes with status 1 and is counted, one beyond its run-time bound with status 2, one with an error with its
subcode, and one of a shed or halted stream is held off; in another state it completes with status 6 (from 09 R293, 04 R111,
05 R157). While fewer than 88 pods are left it completes with a fault of cause 0x0C (from 02 R48). Completes: ARRAY_OP. -/
def Obligations.ArrayOpIsIssuedOrHeldOff : Prop :=
  ∀ (wid : Nat) (w : Work) (i : Issue) (s : State), workGet s wid = some w → leAt w.desc 0 1 = 0x01 →
    w.pair.isSome = true → w.phase = .fetched ∨ w.phase = .heldOff → w.cancelled = false →
    i = issueOp s w.stream wid Place.ring (leAt w.desc 8 8) [leAt w.desc 16 8] →
    (s.pods.below = true → exec (.arrayOp wid) s = .next (complete s wid 4 0xFF0C)) ∧
    (s.pods.below = false → (streamGet s w.stream).state = .running →
      (∀ op, i = .ready op →
        ∃ t, exec (.arrayOp wid) s = .next t ∧ workGet t wid = some { w with phase := .running, op := some op } ∧
          worksKept s t wid ∧ t = { s with works := t.works, pools := t.pools }) ∧
      (i = .bound → exec (.arrayOp wid) s = .next (complete s wid 2 0)) ∧
      (i = .empty → exec (.arrayOp wid) s = .next (complete (bump s 0x1001030) wid 1 0)) ∧
      (∀ m, i = .denied m → exec (.arrayOp wid) s = .next (completeErr (noteStop s w.stream m) wid 0x08)) ∧
      (∀ c, i = .err c → exec (.arrayOp wid) s = .next (completeErr s wid c))) ∧
    (s.pods.below = false → (streamGet s w.stream).state = .shed ∨ (streamGet s w.stream).state = .halted →
      ∃ t, exec (.arrayOp wid) s = .next t ∧ workGet t wid = some { w with phase := .heldOff } ∧ worksKept s t wid ∧
        t = { s with works := t.works }) ∧
    (s.pods.below = false → (streamGet s w.stream).state ∉ [StState.running, .shed, .halted] →
      exec (.arrayOp wid) s = .next (complete s wid 6 (streamGet s w.stream).state.code))

/-- Each of the twelve operations, issued, and next in line for the array, whose evaluation and writes all pass and whose
LPDDR requests the window serves, writes exactly the bytes that its evaluation gives, at the addresses its stream's moves give
them; it is then computed, its work cursors stand in its partition's header, and nothing else changes but the log's note of a
saturated element, its LPDDR account, the device's return from Idle to Active (from 14 R452), held writes that the end of a band inside it lets take effect and, for an operation of
a schedule, the band counters of logical indices that own no tile (from 04 R108, R111, 05 R145, R161, R166, 06 R208, 00 R20, 02
R27).
Completes: CONV, CONV_DW, MATMUL, WINO3, S2D, D2S, POOL, ARGMAX_C, ELTW, CONVERT, COPY, MEASURE (the rows of `arrayRow`). -/
def Obligations.ArrayOperationsWriteTheirOutputs : Prop :=
  ∀ (k wid : Nat) (c : Instr) (w : Work) (op : Op) (r : RunOut) (l : List (Nat × Nat × List Byte)) (u s : State),
    arrayRow wid ⟨[], [], 0⟩ k = some c → workGet s wid = some w → w.op = some op → (decOp op.block).opcode = k →
    mayCompute s wid w = true → s.pods.below = false → op.run s w.stream wid w.pair.isSome = .ok (.done r) →
    ddrPending (requestOp s wid w op r.writes) w.stream = false →
    applyWrites (requestOp s wid w op r.writes) w.stream wid r.writes = .ok u →
    l = r.writes.map (fun x => (x.1, movedAddr (streamGet s w.stream) x.2.1, x.2.2)) →
    ∃ t, exec c s = .next t ∧ (∀ a, ¬ writtenBy l a → memGet u.mem a = memGet s.mem a) ∧
      (partBase s (decMap op.map).part w.stream = none → t.mem = u.mem) ∧
      (∀ b, partBase s (decMap op.map).part w.stream = some b →
        (∀ a, a < b ∨ b + 0x600 ≤ a ∨ (w.pair.isSome = true ∧ a < b + 0x300) → memGet t.mem a = memGet u.mem a) ∧
        (Memory.wf s.mem = true → memGetN t.mem (b + 0x300) 0x300 =
          ((List.range 96).map (tilesOf s op)).zipIdx.flatMap fun x => cursorBytes op x.2 x.1)) ∧
      (∃ fb, workGet t wid = some { w with phase := .computed, op := some (Op.withRun { op with asked := true } r fb) }) ∧
      worksKept s t wid ∧
      (∀ a, opRegs w.stream a = false → a ≠ 0xD000000 ∨ s.power.mode ≠ 1 → regGet t a = regGet s a) ∧
      (s.power.mode = 1 → f (regGet t 0xD000000) 31 30 = 0) ∧
      t.power = { s.power with mode := if s.power.mode = 1 then 0 else s.power.mode, lastArray := s.elapsed } ∧
      t = { s with mem := t.mem, poison := t.poison, works := t.works, log := t.log, logHead := t.logHead, ddr := t.ddr,
                   regs := t.regs, shadow := t.shadow, power := t.power } ∧
      (r.tally.sat = false → t.log = s.log)

/-- What some pods' tiles of the step read of a block, within the prefetch depth and the LPDDR allowance, comes into its slot,
for those pods, and is noted as fetched (from 06 R202, R203, 05 R152, 04 R113). A member whose input buffer has room accepts
the block, and the last one returns the slot (from 05 R152, 06 R203). Rows of a schedule's operation whose tiles are kept are published in
the logical index's counter, where pods poll it, and a counter never goes back (from 06 R198 to R200). A deferrable
operation gives up the array, with its tiles and blocks as they are, while work of a higher rank is ready and its pods stand at
their preemption points (from 06 R196, 09 R305). Completes: PREFETCH_BLOCK, MULTICAST_SLOT_RELEASE, BAND_COUNTER_WAKE, PREEMPT. -/
def Obligations.PrefetchCountersAndPreemption : Prop :=
  (∀ (wid addr dst step : Nat) (w : Work) (op : Op) (x : Stream) (u : Nat × Option Nat) (members : List Nat)
    (l : List (Nat × Nat)) (b : List (Nat × List Byte)) (s : State), workGet s wid = some w → w.op = some op → w.open = true → w.cancelled = false →
    x = streamGet s w.stream → x.active = true → x.faulting = none → x.prefStop = false → u = fetchUnit op addr →
    members = multicastGroup s op step u.1 (unitLen u) → members ≠ [] → l = unitRanges s op step u members →
    stepsAhead s op step ≤ prefetchDepth s w.stream (!(decMap op.map).frame) → slotOk s w.stream dst = true →
    stillToCome s w.stream wid l = false → ddrWaits s w.stream 0 (movedAddr x u.1) = false →
    ddrHeldBack s w.stream = false ∨ region (movedAddr x u.1) ≠ .lpddr →
    fetchUnitBytes (bandReader s w.stream wid op.band op.opIdx) u l = .ok b →
    ∃ t v, exec (.prefetchBlock w.stream wid addr dst step ⟨[], [], 0⟩) s = .next t ∧
      t.mem = b.foldl (fun m p => memPutN m (dst + (p.1 - u.1)) p.2) s.mem ∧ t.staging = s.staging ++ [⟨w.stream, wid, step, u.1, dst, members⟩] ∧
      workGet t wid = some { w with op := some v } ∧ v.fetched = op.fetched ++ [⟨step, u.1, u.2, members, b⟩] ∧ v.kept = op.kept ∧
      worksKept s t wid ∧
      t = { s with mem := t.mem, poison := t.poison, staging := t.staging, works := t.works, cons := t.cons, ddr := t.ddr }) ∧
  (∀ (dst member : Nat) (g : Staging) (s : State), (s.staging.find? fun g => g.dst == dst) = some g → g.members ≠ [] →
    ddrPending s g.stream = false → (∀ w op, workGet s g.wid = some w → w.op = some op → hasRoom s op g member = true) →
    (g.members.filter (· != member) = [] →
      ∃ t, exec (.multicastSlotRelease dst member) s = .next t ∧ t = { s with staging := t.staging, cons := t.cons } ∧
        t.staging = s.staging.filter fun g => g.dst != dst) ∧
    (g.members.filter (· != member) ≠ [] →
      ∃ t, exec (.multicastSlotRelease dst member) s = .next t ∧ t = { s with staging := t.staging } ∧
        t.staging = s.staging.map fun h =>
          if h.dst = dst then { h with members := g.members.filter (· != member) } else h)) ∧
  (∀ (n lidx band op rows k b : Nat) (w : Work) (p : Op) (s : State), (k, w) ∈ s.works → w.stream = n → w.pair = none →
    w.phase = .computed → w.op = some p → p.band = band → p.opIdx = op →
    (∀ e ∈ s.works, ∀ q, e.2.stream = n → e.2.pair = none → e.2.phase = .computed → e.2.op = some q → q.band = band →
      q.opIdx = op → e = (k, w)) →
    (∀ t ∈ tilesOf s p lidx, rows ≤ t.y ∨ (lidx, t.num) ∈ p.kept) →
    partBase s (decMap p.map).part n = some b → Memory.wf s.mem = true →
    (counterAfter (band, op, rows) (counterAt s (decMap p.map).part n lidx) = true →
      ∃ t, exec (.bandCounterWake n lidx band op rows) s = .next t ∧
        memGetN t.mem (b + lidx * 8) 8 = leBytes 4 band ++ leBytes 2 op ++ leBytes 2 rows ∧
        bytesKeptOutside s t (b + lidx * 8) 8 ∧ t = { s with mem := t.mem, poison := t.poison }) ∧
    (counterAfter (band, op, rows) (counterAt s (decMap p.map).part n lidx) = false →
      exec (.bandCounterWake n lidx band op rows) s = .next s)) ∧
  (∀ (wid : Nat) (w : Work) (op : Op) (s : State), workGet s wid = some w → w.op = some op → higherReady s w.stream = true →
    (w.phase = .running →
      ∃ t, exec (.preempt wid) s = .next t ∧ t = { s with works := t.works } ∧
        workGet t wid = some { w with phase := .yielded } ∧ worksKept s t wid) ∧
    (w.phase = .computed → opKept s op = false → (∀ l, l < 96 → allKept s op l = true ∨ l ∈ op.stopped) →
      ∃ t, exec (.preempt wid) s = .next t ∧ t = { s with works := t.works } ∧
        workGet t wid = some { w with phase := .parked } ∧ worksKept s t wid))

/-- The combiner sums the partials as they are carried exactly and saturates the sum once, whatever their order (from 08
R264), and a partial's bytes give the value it is carried as (from 08 R262, R263). Where the reduction is not divided no
partial crosses, and Fast and Exact mode give the same element (from 08 R265). The combiner of a reduction that crosses
devices writes its own blocks and waits; PARTIAL_COMBINE then gives the operation's outputs from the blocks of all (from 08
R261 to R264). Completes: PARTIAL_COMBINE. -/
def Obligations.CombinerSumsExactly : Prop :=
  (∀ (exact : Bool) (ps qs : List Int),
    (combine true exact ps).v = clamp (-(2 ^ 47)) (2 ^ 47 - 1) (ps.map fun p => (carried exact p).1).sum ∧
    (ps.Perm qs → combine true exact ps = combine true exact qs)) ∧
  (∀ (exact : Bool) (p : Int), -(2 ^ 47) ≤ p → p < 2 ^ 47 →
    partialValue exact (partialBytes exact p) = (carried exact p).1 ∧ (partialBytes exact p).length = if exact then 6 else 3) ∧
  (∀ groups : List (List Red), productElem groups 1 true = productElem groups 1 false) ∧
  (∀ (wid : Nat) (w : Work) (op : Op) (c : CrossOp) (ws : List (Nat × Nat × List Byte)) (ovf : Nat) (u s : State),
    workGet s wid = some w → w.op = some op → op.cross = some c → c.combiner = true → mayCompute s wid w = true →
    s.pods.below = false → op.run s w.stream wid w.pair.isSome = .ok (.partials ws ovf) →
    ddrPending (requestOp s wid w op ws) w.stream = false → applyWrites (requestOp s wid w op ws) w.stream wid ws = .ok u → ∀ row, arrayRow wid ⟨[], [], 0⟩ (decOp op.block).opcode = some row →
    ∃ t fb, exec row s = .next t ∧ t.mem = u.mem ∧ worksKept s t wid ∧
      workGet t wid = some { w with phase := .partials, op := some { op with
        asked := true, counts := [0, 0, 0, ovf, 0, 0, fb], satLogged := op.satLogged || decide (0 < ovf) } } ∧
      t = { s with mem := t.mem, poison := t.poison, works := t.works, log := t.log, logHead := t.logHead, ddr := t.ddr,
                   regs := t.regs, power := { s.power with mode := if s.power.mode = 1 then 0 else s.power.mode, lastArray := s.elapsed } } ∧
      ∀ a, a ≠ 0xD000000 ∨ s.power.mode ≠ 1 → regGet t a = regGet s a) ∧
  (∀ (wid : Nat) (w : Work) (op : Op) (c : CrossOp) (d : Tensor) (env all : Env) (r : RunOut) (u s : State),
    workGet s wid = some w → (s.works.find? fun k => k.2.combines w.stream op.band op.opIdx) = some (wid, w) →
    w.op = some op → op.cross = some c → w.cancelled = false →
    (streamGet s w.stream).active = true → (streamGet s w.stream).faulting = none → (decOp op.block).d = some d →
    env = op.env s w.stream wid →
    all = { env with blocks := some (readBlocks env.rd d env.split env.exact (c.own :: c.others)) } →
    op.outputs s all all false = .ok r →
    applyWrites s w.stream wid r.writes = .ok u →
    ∃ t fb, exec (.partialCombine w.stream op.band op.opIdx ⟨[], [], 0⟩) s = .next t ∧
      workGet t wid = some { w with phase := .computed, op := some (op.withRun r fb) } ∧ worksKept s t wid ∧
      (partBase s (decMap op.map).part w.stream = none → t.mem = u.mem) ∧
      (∀ b, partBase s (decMap op.map).part w.stream = some b →
        ∀ a, a < b ∨ b + 0x600 ≤ a → memGet t.mem a = memGet u.mem a) ∧
      (∀ a, opRegs w.stream a = false → regGet t a = regGet s a) ∧
      t = { s with mem := t.mem, poison := t.poison, works := t.works, log := t.log, logHead := t.logHead, ddr := t.ddr,
                   regs := t.regs, shadow := t.shadow })

/-- A band that is ready takes the band boundary first: held registers of the stream and the array take their values, and a
line-locked stream enters BYPASS in step 4 and leaves it below (from 00 R20, 06 R221, R223). A running stream then issues
the band's operations, each as a work of its schedule, with the schedule's other steps between them, and goes on to the next
band unless a structure stopped it; in BYPASS the band is bypassed (from 06 R194, R197, 10 R333). A band whose operations
have completed, whose critical heads are compared and whose adaptation records can be written is kept: their counts are added,
and their works and slots return (from 06 R199, 03 R88, R92, 04 R142, 08 R277). Completes: BAND_READY, BAND_KEPT. -/
def Obligations.BandsAreIssuedAndKept : Prop :=
  (∀ (n : Nat) (s : State), s.shadow = [] →
    ((streamGet s n).cls = .deferrable → bandBoundary s n = s) ∧
    ((streamGet s n).cls = .lineLocked → (streamGet s n).state = .running → (streamGet s n).step ≠ 4 →
      bandBoundary s n = s) ∧
    ((streamGet s n).cls = .lineLocked → (streamGet s n).state = .running → (streamGet s n).step = 4 →
      (streamGet (bandBoundary s n) n).state = .bypass)) ∧
  (∀ (n : Nat) (ops : List SchedOp) (steps : List SchedStep) (x : Stream) (s u : State), (streamGet s n).faulting = none →
    spools (streamGet s n) = false → bandStored s n = true → u = bandBoundary s n → x = streamGet u n →
    (x.state = .running → u.pods.below = false → x.wants = none → x.spilled = [] →
      slotsFor u n (bandSlots ops steps) = true →
      ∃ v t, v = issueBand u n x.band steps ops.zipIdx ∧ exec (.bandReady n ops steps) s = .next t ∧
        ((streamGet v n).faulting = none → (streamGet t n).band = x.band + 1 ∧ x.band + 1 ≤ (streamGet t n).front) ∧
        ((streamGet v n).faulting ≠ none → t = v)) ∧
    (∀ o op, ops = [o] → steps = [] → x.state = .running → u.pods.below = false → x.faulting = none → x.wants = none →
      x.spilled = [] → slotsFor u n 1 = true → (∃ k, k < 1024 ∧ tget u.slots k = none) → bandWorks u n x.band = [] →
      issueOp u n u.nextWid ⟨x.band, 0, schedPass o, o.crit.map (·.1), o.cross, o.waits⟩ o.opBlock o.mappings = .ready op →
      ∃ t w, exec (.bandReady n ops steps) s = .next t ∧ (streamGet t n).band = x.band + 1 ∧
        workGet t u.nextWid = some w ∧ w.pair = none ∧ w.stream = n ∧ w.phase = .running ∧
        w.op = some { op with last := true } ∧ worksKept u t u.nextWid ∧ streamsKept u t n ∧
        t.nextWid = u.nextWid + 1 ∧ t.mem = u.mem ∧ (∀ a, regGet t a = regGet u a) ∧ t.log = u.log) ∧
    (x.state = .bypass → ∃ t, exec (.bandReady n ops steps) s = .next t ∧ (streamGet t n).band = x.band + 1 ∧
      (groupGet u (groupOf x) = none → x.dets = [] →
        x.band ∈ (streamGet t n).bypassed ∧ t.works = u.works ∧ t.mem = u.mem ∧ streamsKept u t n))) ∧
  (∀ (n : Nat) (heads : List HeadResult) (x : Stream) (s : State), x = streamGet s n → x.active = true ∨ x.state = .shed →
    x.faulting = none → x.stalled = false → x.kept < x.band → critOpen s n x.kept = false → unsent s n = false →
    (∀ e ∈ bandWorks s n x.kept, e.2.phase = .waiting ∧ ∀ op a b, e.2.op = some op → op.adapt = some (a, b) →
      checkRange s (writeBy n e.1) a b.length = none ∧ poisonPartial s a b.length = none) →
    ∃ t, exec (.bandKept n heads) s = .next t ∧ x.kept < (streamGet t n).kept ∧ (streamGet t n).critDone = [] ∧
      (Tab.wf s.works = true → ∀ e ∈ bandWorks s n x.kept, workGet t e.1 = none)) ∧
  (∀ (n k : Nat) (w : Work) (op : Op) (x : Stream) (s : State), x = streamGet s n →
    x.active = true ∨ x.state = .shed → x.faulting = none → x.stalled = false → x.kept < x.band →
    critOpen s n x.kept = false → unsent s n = false → x.critDone = [] → x.bypassed = [] → x.camMask = 0 → x.dets = [] →
    groupGet s (groupOf x) = none → bandWorks s n x.kept = [(k, w)] → w.phase = .waiting → w.op = some op →
    op.adapt = none → Tab.wf s.works = true →
    ∃ t, exec (.bandKept n []) s = .next t ∧ (streamGet t n).kept = x.kept + 1 ∧ workGet t k = none ∧ worksKept s t k ∧
      regsKept s t [0x1001010, 0x1001014, 0x1001018, 0x100101C, 0x1001020, 0x1001028, 0x100102C, 0x1001030] ∧
      reg64 t 0x1001010 = min (reg64 s 0x1001010 + op.counts.getD 0 0) (2 ^ 64 - 1) ∧
      regGet t 0x1001018 = min (regGet s 0x1001018 + op.counts.getD 1 0) (2 ^ 32 - 1) ∧
      regGet t 0x1001020 = min (regGet s 0x1001020 + op.counts.getD 3 0) (2 ^ 32 - 1) ∧
      regGet t 0x1001030 = min (regGet s 0x1001030 + (x.empties.filter (· == x.kept)).length) (2 ^ 32 - 1) ∧
      t.mem = s.mem ∧ t.log = s.log ∧ streamsKept s t n)

/-- A header is stamped with the time base plus the port's delay, a row of an area frame with its image's first stamp, an
image beginning where the number changes or the line numbers start over (log entry 26), and
one that says it was triggered answers the oldest trigger sent (from 06 R185, 07 R248). The line that follows it, of a port
whose stream is admitted and whose ring has the row free, is written with its header in device memory, takes the next
sequence number and a line token, and one that is short or bad repeats the line before and is counted; with no row free the
line is lost and counted, and the loss is remembered for the next line (from 06 R186 to R190, 02 R49). Completes:
LINE_HEADER, LINE_ARRIVAL. -/
def Obligations.LinesAreStoredWithTheirHeaders : Prop :=
  (∀ (p image line : Nat) (area gap trg : Bool) (c : Camera) (now first : Nat) (s : State), camUp s p = true →
    c = camGet s p → now = ((s.time : Int) + sx 32 (regGet s (0x6001008 + p * 0x40))).toNat →
    first = (match c.image with | some (i, t, l) => if i ≠ image ∨ line ≤ l then now else t | none => now) →
    ∃ t, exec (.lineHeader p image line area gap trg) s = .next t ∧ t = { s with cams := t.cams } ∧
      camGet t p = { c with
        hdr := some ⟨if area then first else now, image, line, area, gap, trg && !c.trigs.isEmpty, c.trigs.headD 0⟩,
        image := some (image, first, line),
        skip := (match c.image with | some (i, _, l) => if i ≠ image ∨ line ≤ l then none else c.skip | none => none),
        trigs := if trg then c.trigs.drop 1 else c.trigs } ∧
      ∀ q, q ≠ p → camGet t q = camGet s q) ∧
  (∀ (p : Nat) (pixels : List Nat) (bad : Bool) (h : LineHdr) (place : CamPlace) (s : State),
    (camGet s p).hdr = some h → camPlace (streamGet s (camHolder s p)) p = some place → camUp s p = true →
    (streamGet s (camHolder s p)).ingests = true →
    (rowFree place (camGet s p) = true → ∀ (replaced : Bool) (width ch : Nat) (u : State),
      width = f (camCfg s p) 15 0 → ch = camChannels (f (camCfg s p) 23 20) →
      replaced = (bad || decide (pixels.length / ch < width)) →
      putAll s (camHolder s p) (lineWrites place (f (camCfg s p) 23 20) (camGet s p).seq width
        (if replaced then (camGet s p).lastPixels.getD (List.replicate (width * ch) 0) else pixels.take (width * ch))
        (lineHeaderBytes h (camGet s p).seq (pixels.length / ch) replaced (camGet s p).afterLoss)) = .ok u →
      ∃ t, exec (.lineArrival p pixels bad) s = .next t ∧ t.mem = u.mem ∧
        (camGet t p).seq = ((camGet s p).seq + 1) % 2 ^ 32 ∧ (camGet t p).hdr = none ∧ (camGet t p).afterLoss = false ∧
        (∃ l, (camGet t p).lines.head? = some l ∧ l.seq = (camGet s p).seq ∧ l.time = h.time ∧ l.replaced = replaced ∧
          l.missed = (camGet s p).missed) ∧
        (∀ q, q ≠ p → camGet t q = camGet s q) ∧
        (replaced = true → counted s t (0x6001010 + p * 0x40) 1) ∧ (replaced = false → t.regs = s.regs) ∧
        t = { s with mem := t.mem, poison := t.poison, cams := t.cams, regs := t.regs, cons := t.cons, ddr := t.ddr }) ∧
    (rowFree place (camGet s p) = false →
      ∃ t, exec (.lineArrival p pixels bad) s = .next t ∧ t = { s with cams := t.cams, regs := t.regs } ∧
        camGet t p = { camGet s p with hdr := none, missed := true } ∧ (∀ q, q ≠ p → camGet t q = camGet s q) ∧
        counted s t (0x600100C + p * 0x40) 1))

/-- 06 R182, R191, 09 R298, R299: a link within the port's configuration comes up with its lanes and rate in the
status; a heartbeat is noted; a camera that has been silent 200 ms, or whose link is down, is lost, counted and logged; an event packet goes
into its slot of the event ring and is announced to the event pair. 09 R290, R291, R296: CAM_CTRL sends its transfer
to the camera and waits; a port that the stream does not hold is an error; the camera's acknowledgment completes the
transfer, with the data a read brought in device memory, and any other code or a second of silence ends it as a camera
error. Completes: CAMERA_LINK_UP, CAMERA_HEARTBEAT, CAMERA_LOSS, CAMERA_EVENT_PACKET, CAM_CTRL, CAMERA_ACK,
CAM_CTRL_TIMEOUT. -/
def Obligations.CameraLinksControlAndEvents : Prop :=
  ((∀ (p lanes rate : Nat) (s : State), camEnabled s p = true → camUp s p = false → f (camCfg s p) 29 28 = lanes →
    rate ≤ f (camCfg s p) 27 24 →
    ∃ t, exec (.cameraLinkUp p lanes rate) s = .next t ∧ t = { s with regs := t.regs, cams := t.cams } ∧
      regGet t (0x6001004 + p * 0x40) = 2 ^ 31 + lanes * 2 ^ 28 + rate * 2 ^ 24 ∧ regsKept s t [0x6001004 + p * 0x40] ∧
      camUp t p = true ∧ camGet t p = { camGet s p with heartbeat := some s.elapsed }) ∧
  (∀ (p : Nat) (s : State), camUp s p = true →
    ∃ t, exec (.cameraHeartbeat p) s = .next t ∧ t = { s with regs := t.regs, cams := t.cams } ∧
      regsKept s t [0x6001004 + p * 0x40] ∧ bitOf (camStatus t p) 30 = true ∧
      (∀ k, k ≠ 30 → bitOf (camStatus t p) k = bitOf (camStatus s p) k) ∧
      camGet t p = { camGet s p with heartbeat := some s.elapsed }) ∧
  (∀ (p x : Nat) (s : State), camUp s p = true → (camGet s p).heartbeat = some x → 200000000 ≤ s.elapsed - x →
    (camGet s p).lost = false ∨ bitOf (camStatus s p) 30 = true →
    ∃ t, exec (.cameraLoss p false) s = .next t ∧
      t = { s with regs := t.regs, cams := t.cams, log := t.log, logHead := t.logHead } ∧
      camGet t p = { camGet s p with hdr := none, lost := true, afterLoss := true, image := none, trigs := [] } ∧
      regsKept s t [0x6001004 + p * 0x40, 0x6001014 + p * 0x40] ∧ bitOf (camStatus t p) 30 = false ∧
      regGet t (0x6001014 + p * 0x40) = min (regGet s (0x6001014 + p * 0x40) + 1) (2 ^ 32 - 1) ∧
      logged t 0x020B (p % 2 ^ 32)) ∧
  (∀ (p : Nat) (s : State), camUp s p = true →
    ∃ t, exec (.cameraLoss p true) s = .next t ∧
      t = { s with regs := t.regs, cams := t.cams, log := t.log, logHead := t.logHead } ∧ camUp t p = false ∧
      camGet t p = { camGet s p with hdr := none, lost := true, afterLoss := true, image := none, trigs := [] } ∧
      regsKept s t [0x6001004 + p * 0x40, 0x6001014 + p * 0x40] ∧ regGet t (0x6001004 + p * 0x40) = 0 ∧
      regGet t (0x6001014 + p * 0x40) = min (regGet s (0x6001014 + p * 0x40) + 1) (2 ^ 32 - 1) ∧
      logged t 0x020B ((p + 2 ^ 8) % 2 ^ 32)) ∧
  (∀ (p : Nat) (data : List Byte) (s u : State), camUp s p = true →
    devWrite s (writeBy 0 0) (reg64 s 0x5000008 + (p * 16 + (camGet s p).evSeq % 16) * 256)
      (leBytes 4 (camGet s p).evSeq ++ leBytes 2 (min data.length 248) ++ [0, 0] ++ data.take 248) = .ok u →
    ∃ v, exec (.cameraEventPacket p data) s =
        .next (eventAdd v 0x42 (p + 2 ^ 4 * ((camGet s p).evSeq % 16) + 2 ^ 8 * ((camGet s p).evSeq % 256))) ∧
      v = { s with mem := u.mem, poison := u.poison, ddr := u.ddr, cams := v.cams } ∧
      camGet v p = { camGet s p with evSeq := ((camGet s p).evSeq + 1) % 2 ^ 32 })) ∧
  ((∀ (wid : Nat) (w : Work) (s : State), workGet s wid = some w → w.pair.isSome = true → leAt w.desc 0 1 = 0x09 →
    w.phase = .fetched → w.cancelled = false →
    (w.stream ≠ 0 → w.stream ≠ camHolder s (leAt w.desc 8 1) →
      exec (.camCtrl wid) s = .next (completeErr s wid 0x01)) ∧
    (w.stream = 0 ∨ w.stream = camHolder s (leAt w.desc 8 1) → ∀ b,
      (if leAt w.desc 9 1 = 0 then b = [] else
        devRead s (readBy w.stream wid) (leAt w.desc 16 8) (leAt w.desc 10 2) = .ok b) →
      ∃ t, exec (.camCtrl wid) s = .next t ∧
        t.out = .camera (leAt w.desc 8 1) (leAt w.desc 9 1) (leAt w.desc 12 4) (leAt w.desc 10 2) b :: s.out ∧
        workGet t wid = some { w with phase := .waiting, aux := s.elapsed } ∧ t = { s with out := t.out, works := t.works })) ∧
  (∀ (wid : Nat) (w : Work) (s : State), camPending s wid = some w →
    (∀ code data, code ≠ 0 → exec (.cameraAck wid code data) s = .next (complete s wid 8 code)) ∧
    (∀ data, leAt w.desc 9 1 = 1 → exec (.cameraAck wid 0 data) s = .next (complete s wid 0 0)) ∧
    (∀ data u, leAt w.desc 9 1 ≠ 1 →
      devWrite s (writeBy w.stream wid) (leAt w.desc 16 8) (data.take (leAt w.desc 10 2)) = .ok u →
      exec (.cameraAck wid 0 data) s = .next (complete u wid 0 (min (leAt w.desc 10 2) data.length))) ∧
    (1000000000 ≤ s.elapsed - w.aux → exec (.camCtrlTimeout wid) s = .next (complete s wid 8 0xFF))))

/-- Every edge of an enabled encoder counts one up or down by its direction bit; where the encoder drives the odometry, the
position follows the distance, with a correction of at most the slew part of it taken out of what remains; an illegal
transition counts no distance and is counted, and in mode 3 one of encoder 0 gives the odometry to encoder 1, which encoder
0 takes back one quiet second after the last difference (from 07 R226 to R228, R230). A deferred trigger is sent when the
interval allows (from 07 R248). A position message taken waits for its time, in the order of their times; one older than 10
ms is only counted; its correction is the difference, as a serial number, between its position and the odometry's at its
time, and is logged and counted where it exceeds the step limit (from 07 R229, R230). Completes: ENCODER_EDGE,
ODO_SOURCE_RETURN, TRIGGER_DEFERRED, POSITION_MESSAGE, CORRECTION_START. -/
def Obligations.OdometryFollowsEncodersAndMessages : Prop :=
  ((∀ (e : Nat) (q : Quad) (s : State), s.power.mode ≠ 2 → bitOf (encCfg s e) 31 = true → q ≠ .both →
    ∃ t, exec (.encoderEdge e q) s = .next t ∧
      (encGet t e).count = (encGet s e).count + (if (q = .fwd) ↔ bitOf (encCfg s e) 30 = false then 1 else -1) ∧
      ∀ g, g ≠ e → encGet t g = encGet s g) ∧
  (∀ (e : Nat) (q : Quad) (s : State), s.power.mode ≠ 2 → bitOf (encCfg s e) 31 = true → q ≠ .both → e < 2 → odoMode s = e → s.chans = [] →
    ∃ t adj, exec (.encoderEdge e q) s = .next t ∧
      (encGet t e).count = (encGet s e).count + (if (q = .fwd) ↔ bitOf (encCfg s e) 30 = false then 1 else -1) ∧
      (∀ g, g ≠ e → encGet t g = encGet s g) ∧
      t.odo.lastDist = (encGet t e).count * (encScale s e : Nat) ∧
      t.odo.pos = s.odo.pos + (t.odo.lastDist - s.odo.lastDist) + adj ∧ t.odo.remaining = s.odo.remaining - adj ∧
      adj.natAbs ≤ (t.odo.lastDist - s.odo.lastDist).natAbs * f (regGet s 0x7000040) 15 8 / 1000 ∧
      adj.natAbs ≤ s.odo.remaining.natAbs ∧ regsKept s t [0x7000008 + e * 0x20] ∧
      t = { s with encs := t.encs, odo := t.odo, regs := t.regs }) ∧
  (∀ (e : Nat) (s : State), s.power.mode ≠ 2 → bitOf (encCfg s e) 31 = true → odoMode s ≠ 3 →
    ∃ t, exec (.encoderEdge e .both) s = .next t ∧ (encGet t e).count = (encGet s e).count ∧
      t = { s with encs := t.encs, regs := t.regs } ∧ regsKept s t [0x7000008 + e * 0x20] ∧
      f (regGet t (0x7000008 + e * 0x20)) 15 0 = min (f (regGet s (0x7000008 + e * 0x20)) 15 0 + 1) 65535) ∧
  (∀ s : State, s.power.mode ≠ 2 → bitOf (encCfg s 0) 31 = true → odoMode s = 3 → s.odo.using1 = false →
    ∃ t, exec (.encoderEdge 0 .both) s = .next t ∧ t.odo.using1 = true ∧ t.odo.diffAt = some s.elapsed ∧
      t.odo.pos = s.odo.pos ∧ logged t 0x020D 1 ∧ (encGet t 0).count = (encGet s 0).count ∧
      t = { s with odo := t.odo, regs := t.regs, log := t.log, logHead := t.logHead }) ∧
  (∀ s : State, odoMode s = 3 → s.odo.using1 = true → (∀ x, s.odo.diffAt = some x → 1000000000 ≤ s.elapsed - x) →
    ∃ t, exec .odoSourceReturn s = .next t ∧
      t.odo = { s.odo with using1 := false, lastDist := encDist s 0, means := [] } ∧
      t = { s with odo := t.odo, log := t.log, logHead := t.logHead } ∧ logged t 0x020D 0) ∧
  (∀ (c p : Nat) (x : Chan) (s : State), tget s.chans c = some x → x.trigHeld = some p → trigAllowed s c = true →
    ∃ t, exec (.triggerDeferred c) s = .next t ∧ t.out = .trigger (f (chanCfg s c) 27 24) p :: s.out ∧
      tget t.chans c = some { x with trigLast := some s.elapsed, trigHeld := none } ∧
      (camGet t (f (chanCfg s c) 27 24)).trigs = (camGet s (f (chanCfg s c) 27 24)).trigs ++ [p] ∧
      t = { s with chans := t.chans, cams := t.cams, out := t.out })) ∧
  ((∀ (b : List Byte) (s : State), posMsgTaken s b = true →
    (s.time ≤ leAt b 8 8 + 10000000 →
      exec (.positionMessage b) s = .next { s with odo := { s.odo with
        lastSeq := some (leAt b 4 4),
        pending := insertBy (fun x y => decide (x.1 < y.1)) (leAt b 8 8, leAt b 16 6) s.odo.pending } }) ∧
    (leAt b 8 8 + 10000000 < s.time →
      ∃ t, exec (.positionMessage b) s = .next t ∧ t = { s with regs := t.regs } ∧ regsKept s t [0x7000058] ∧
        f (regGet t 0x7000058) 31 16 = min (f (regGet s 0x7000058) 31 16 + 1) 65535 ∧
        f (regGet t 0x7000058) 15 0 = f (regGet s 0x7000058) 15 0)) ∧
  (∀ (t0 p : Nat) (rest : List (Nat × Nat)) (s : State), s.odo.pending = (t0, p) :: rest → t0 + 10000000 ≤ s.time →
    ∃ t, exec .correctionStart s = .next t ∧
      t.odo = { s.odo with pending := rest, remaining := serialDiff 48 p (odoAt s t0) * 256 } ∧
      regsKept s t [0x7000058] ∧ t = { s with odo := t.odo, regs := t.regs, log := t.log, logHead := t.logHead } ∧
      (f (regGet s 0x7000040) 31 16 * 65536 ≥ (serialDiff 48 p (odoAt s t0)).natAbs → t.log = s.log ∧ t.regs = s.regs) ∧
      (0 < f (regGet s 0x7000040) 31 16 → f (regGet s 0x7000040) 31 16 * 65536 < (serialDiff 48 p (odoAt s t0)).natAbs →
        logged t 0x020E (min ((serialDiff 48 p (odoAt s t0)).natAbs / 65536) (2 ^ 32 - 1)) ∧
        f (regGet t 0x7000058) 15 0 = min (f (regGet s 0x7000058) 15 0 + 1) 65535)))

/-- A stored line gets its position once the time base has passed its time by 100 µs, oldest first, and the first one gives
the grid its start (from 07 R233, R234). A planned output line is written, and the grid goes on by one pitch in the lines'
direction, or, once that direction's lines are all produced, to the next one (from 07 R234, R242). The track stands still
after stop_time (from 07 R241). An owed area frame is made; a display's latch at standstill, or without odometry, repeats the last frame; a frame
made is kept for that, and the grid goes on, or the oldest latch is answered (from 07 R249, R250). The oldest held line is
released after the reserve time (from 02 R37). Completes: LINE_POSITION_EVAL, OUTPUT_LINE, STANDSTILL, AREA_FRAME,
LINE_RESERVE_RELEASE. -/
def Obligations.OutputLinesFollowTheTrack : Prop :=
  (∀ (c : Nat) (x : Chan) (l : LineRec) (ls : List LineRec) (s : State), tget s.chans c = some x →
    ls = (camGet s (f (chanCfg s c) 27 24)).lines →
    (ls.reverse.find? fun l => x.lines.all fun p => p.line.seq != l.seq) = some l → l.time + 100000 < s.time →
    ∃ t z, exec (.linePositionEval c) s = .next t ∧ t = { s with chans := t.chans } ∧
      z = { x with
        lines := (⟨l, trackAt s c l.time⟩ :: x.lines).take (max 16 ls.length),
        next := some (x.next.getD (gridAhead x.back (chanPitch s c) (trackAt s c l.time))),
        lineBack := if x.next = none then x.back else x.lineBack } ∧
      tget t.chans c = some (turnLines (bitOf (chanCfg s c) 31) x.legs z) ∧ (x.legs = [] → tget t.chans c = some z) ∧
      ∀ k, k ≠ c → tget t.chans k = tget s.chans k) ∧
  (∀ (c n g : Nat) (p : LinePlan) (row : FrameRow) (x y : Chan) (u s : State), bitOf (chanCfg s c) 31 = false →
    n = chanHolder s c → (streamGet s n).outputs = true → slotsFor s n 1 = true → tget s.chans c = some x →
    planLine s c n .normal = some (g, p) → writeLine s c n g (passTime s c x.lineBack g) p = (some row, u) →
    tget u.chans c = some y →
    ∃ t, exec (.outputLine c) s = .next t ∧ t = { u with chans := t.chans, cams := t.cams, cons := t.cons } ∧ row.pos = g ∧
      tget t.chans c = some (turnLines (bitOf (chanCfg u c) 31) y.legs
        { y with next := some (gridNext y.lineBack (chanPitch u c) g) }) ∧
      (y.legs = [] → tget t.chans c = some { y with next := some (gridNext y.lineBack (chanPitch u c) g) }) ∧
      ∀ k, k ≠ c → tget t.chans k = tget u.chans k) ∧
  (∀ (c : Nat) (x : Chan) (s : State), tget s.chans c = some x → f (chanCfg s c) 15 0 * 1000000 ≤ s.elapsed - x.lastMove →
    ∃ t, exec (.standstill c) s = .next t ∧ t = { s with chans := t.chans } ∧
      tget t.chans c = some { x with motion := 3, stopAt := some (x.stopAt.getD x.extreme) } ∧
      ∀ k, k ≠ c → tget t.chans k = tget s.chans k) ∧
  (∀ (c : Nat) (x : Chan) (s : State), tget s.chans c = some x → bitOf (chanCfg s c) 31 = true →
    (streamGet s (chanHolder s c)).outputs = true → slotsFor s (chanHolder s c) 1 = true →
    (x.motion = 3 ∨ hasOdo s = false → f (chanCfg s c) 30 29 ≠ 0 → ∀ T rest, x.latches = T :: rest →
      (chanPlace (streamGet s (chanHolder s c)) c).isSome = true →
      ∃ t y, exec (.areaFrame c) s = .next t ∧ tget t.chans c = some y ∧ y.latches = rest ∧
        ∀ k, k ≠ c → tget t.chans k = tget s.chans k) ∧
    ((x.motion ≠ 3 ∧ hasOdo s = true) ∨ f (chanCfg s c) 30 29 = 0 → ∀ g step u, frameOwed s c x = some (g, step) →
      makeFrame s c false x g step = some u → exec (.areaFrame c) s = .next u)) ∧
  (∀ (c g : Nat) (rows : List FrameRow) (y : Chan) (s : State), tget s.chans c = some y →
    (f (chanCfg s c) 30 29 = 0 → tget (nextFrame s c g rows).chans c =
      some (turnLines (bitOf (chanCfg s c) 31) y.legs { y with lastFrame := rows, next := some (gridNext y.lineBack (chanPitch s c) g) })) ∧
    (f (chanCfg s c) 30 29 ≠ 0 → tget (nextFrame s c g rows).chans c =
      some { y with latches := y.latches.drop 1, lastOut := g, lastFrame := rows })) ∧
  (∀ (c : Nat) (x : Chan) (o : OutRec) (rest : List OutRec) (s : State), tget s.chans c = some x → x.held = o :: rest →
    o.ready + (streamGet s (chanHolder s c)).reserve * 1000 ≤ s.time →
    ∃ t, exec (.lineReserveRelease c) s = .next t ∧ t = { s with chans := t.chans } ∧
      tget t.chans c = some { x with held := rest, released := x.released + 1 } ∧
      ∀ k, k ≠ c → tget t.chans k = tget s.chans k)

/-- As a line-locked stream's margin falls below 75, 50 and 25 percent, its steps 2, 3 and 4 follow, each only after the one
before; step 3 sheds the lowest-ranked running deferrable stream, and one more each band period while the margin still falls
(from 06 R221). A line within 50 microseconds of its due time is made after the steps that were not yet taken (from 06
R222). With the margin at 90 percent throughout a step's hold the steps are undone in the opposite order, shed streams
returning one by one (from 06 R223). Completes: DEGRADE_STEP, SHED_STEP, LINE_DUE_DEADLINE, RETURN_STEP. -/
def Obligations.DegradationTakesItsStepsInOrder : Prop :=
  (∀ (n : Nat) (x : Stream) (s : State), x = streamGet s n → inOrder x = true →
    (x.step ≤ 1 → lowMargin s n 75 = true →
      ∃ t, exec (.degradeStep n) s = .next t ∧ t = { s with streams := t.streams } ∧
        streamGet t n = { x with step := 2, hold2 := x.hold2.take s.elapsed, highSince := none } ∧ streamsKept s t n) ∧
    (x.step = 2 → lowMargin s n 50 = true → (govCap s).1 ≤ arrayMv s →
      ∃ u, u = { s with streams := u.streams, hold3 := s.hold3.take s.elapsed } ∧ streamsKept s u n ∧
        streamGet u n = { x with step := 3, highSince := none, shedMargin := marginOf s n } ∧
        exec (.degradeStep n) s = .next (if shedPaced s n then shedOne u else u)) ∧
    (x.step = 3 → lowMargin s n 25 = true → deferrables s .running = [] →
      ∃ t, exec (.degradeStep n) s = .next t ∧ t = { s with streams := t.streams } ∧
        streamGet t n = { x with step := 4, hold4 := x.hold4.take s.elapsed, highSince := none } ∧ streamsKept s t n) ∧
    (lowMargin s n 75 = false → exec (.degradeStep n) s = .next s)) ∧
  (∀ (m : Nat) (s : State), lowestRank s (deferrables s .running) = some m →
    ∃ u, shedOne s = { streamEvent u m 0x40 StState.shed.code with shedAt := some s.elapsed } ∧
      streamGet u m = { streamGet s m with state := .shed } ∧ streamsKept s u m ∧
      u = { s with streams := u.streams, log := u.log, logHead := u.logHead }) ∧
  (∀ (n : Nat) (s : State), (lineLockedIds s).filter (shedDue s) = [n] → deferrables s .running ≠ [] →
    ∃ u, exec .shedStep s = .next (shedOne u) ∧ streamsKept s u n ∧
      u = { s with streams := u.streams, hold3 := if s.hold3.undone.isSome then s.hold3.take s.elapsed else s.hold3 } ∧
      streamGet u n = { streamGet s n with
        shedMargin := marginOf s n, highSince := if s.hold3.undone.isSome then none else (streamGet s n).highSince }) ∧
  (∀ (l : List Nat) (s : State), l = (lineLockedIds s).filter (shedDue s) → l ≠ [] → deferrables s .running ≠ [] →
    ∃ u, exec .shedStep s = .next (shedOne u) ∧
      u = { s with streams := u.streams, hold3 := if s.hold3.undone.isSome then s.hold3.take s.elapsed else s.hold3 } ∧
      (∀ n, n ∉ l → streamGet u n = streamGet s n) ∧ ∀ n ∈ l, (streamGet u n).shedMargin = marginOf s n) ∧
  (∀ (c n due : Nat) (s : State), n = chanHolder s c → (streamGet s n).cls = .lineLocked → (streamGet s n).outputs = true →
    lineReady s c n = false → nextDue s c n = some due → due ≤ s.time + 50000 →
    ∃ u, exec (.lineDueDeadline c) s =
        .next (if bitOf (chanCfg u c) 31 then (areaStep u c true).getD u else produceLine u c .deadline) ∧
      (inOrder (streamGet s n) = false → u = s) ∧
      (inOrder (streamGet s n) = true → (streamGet s n).step ≤ 4 → (streamGet u n).step = 4)) ∧
  (∀ (n : Nat) (x : Stream) (s : State), x = streamGet s n → x.cls = .lineLocked → x.outputs = true → x.bypass47 = false →
    lowMargin s n 90 = false →
    (x.step = 4 → holdEnded s x x.hold4 = true →
      ∃ t, exec (.returnStep n) s = .next t ∧ t = { s with streams := t.streams } ∧
        streamGet t n = { x with step := 3, lastUndo := some s.elapsed, hold4 := x.hold4.undo s.elapsed } ∧
        streamsKept s t n) ∧
    (∀ m, x.step = 3 → restorable s n = true → deferrables s .shed = [m] → n ∈ lineLockedIds s →
      ∃ t, exec (.returnStep n) s = .next t ∧ (streamGet t m).state = .running ∧ (streamGet t n).step = 2 ∧
        t.restoredAt = some s.elapsed ∧ t.hold3 = s.hold3.undo s.elapsed) ∧
    (x.step = 3 → restorable s n = true → deferrables s .shed ≠ [] → n ∈ lineLockedIds s →
      ∃ t m, exec (.returnStep n) s = .next t ∧ m ∈ deferrables s .shed ∧ (streamGet t m).state = .running ∧
        t.restoredAt = some s.elapsed ∧ t.hold3 = s.hold3.undo s.elapsed ∧ (streamGet t n).lastUndo = some s.elapsed) ∧
    (x.step = 2 → deferrables s .shed = [] → holdEnded s x x.hold2 = true →
      ∃ t, exec (.returnStep n) s = .next t ∧ t = { s with streams := t.streams } ∧
        streamGet t n = { x with step := 0, lastUndo := some s.elapsed, hold2 := x.hold2.undo s.elapsed } ∧
        streamsKept s t n)) ∧
  (∀ (n : Nat) (s : State), (streamGet s n).cls = .deferrable → (streamGet s n).state = .shed → n ∈ deferrables s .shed →
    lineLockedIds s = [] → ∃ t m, exec (.returnStep n) s = .next t ∧ m ∈ deferrables s .shed ∧
      (streamGet t m).state = .running ∧ streamsKept s t m) ∧
  (∀ (n : Nat) (s : State), (streamGet s n).cls = .deferrable → deferrables s .shed = [n] → lineLockedIds s = [] →
    (streamGet s n).state = .shed →
    ∃ u, exec (.returnStep n) s = .next (streamEvent u n 0x40 StState.running.code) ∧
      streamGet u n = { streamGet s n with state := .running } ∧ streamsKept s u n ∧
      u = { s with streams := u.streams, log := u.log, logHead := u.logHead })

/-- A detection goes into its stream's ring and leaves it in order: one of a critical head waits until its runs are compared,
and goes where its run is the one released (08 R277, R278); one for another home stays while the outstanding table is full (12
R391). One whose home this device is waits for its place in the order (07 R253, R256); one before the applied point gives
a record alone, as one of an invalid class does (07 R257, R259); one whose home is another device goes to it and counts. A
watermark raises its source's mark and the applied point follows the least (07 R254); a source silent for the group's
timeout, while others advance, is no longer awaited, logged and reported (07 R255). Requests for a home act the same way or
are refused with their reason (12 R388, R390). FLUSH_TRACKS takes the closed tracks of the group (07 R259). Completes:
DETECTION, WATERMARK, SOURCE_TIMEOUT, ASSOC, WMARK, FLUSH_TRACKS. -/
def Obligations.DetectionsReachTheirHome : Prop :=
  (∀ (n : Nat) (d : DetIn) (y : Stream) (x : Group) (q : DetIn × Nat) (s v : State), y = streamGet s n →
    groupGet s (groupOf y) = some x → x.streams.contains n = true → q = (d, bandStart s n (detTime d.bytes)) →
    v = streamPut s n { y with dets := y.dets ++ [q] } →
    (∀ e, (y.dets ++ [q]).head? = some e → detReleased y e.1 = none →
      ∃ t, exec (.detection n d) s = .next t ∧ t = { s with streams := t.streams } ∧ streamsKept s t n ∧
        streamGet t n = { y with dets := y.dets ++ [q] }) ∧
    (y.dets = [] → detReleased y d = some false →
      exec (.detection n d) s = .next (streamPut v n { streamGet v n with dets := [] })) ∧
    (∀ b home, y.dets = [] → detReleased y d = some true → b = d.bytes → home = homeOf x.record (detPos b) →
      ((grpClass x.record (detClass b)).valid = false → ∀ u, u = aloneRecord v (groupOf y) x n b 4 →
        exec (.detection n d) s = .next (streamPut u n { streamGet u n with dets := [] })) ∧
      ((grpClass x.record (detClass b)).valid = true → home ≠ ownNode s → tableRoom s 1 = false →
        ∃ t, exec (.detection n d) s = .next t ∧ t = { s with streams := t.streams } ∧ streamsKept s t n ∧
          streamGet t n = { y with dets := [q] }) ∧
      ((grpClass x.record (detClass b)).valid = true → home ≠ ownNode s → tableRoom s 1 = true →
        ∃ u w, exec (.detection n d) s = .next (streamPut w n { streamGet w n with dets := [] }) ∧
          w = requestKept u 0x06 home n (groupOf y + 2 ^ 8 * x.nextIndex) b ∧
          u = { v with groups := u.groups, regs := u.regs } ∧ counted v u 0x800020C 1 ∧
          groupGet u (groupOf y) = some { x with nextIndex := (x.nextIndex + 1) % 2 ^ 32 }) ∧
      ((grpClass x.record (detClass b)).valid = true → home = ownNode s →
        (∀ k ∈ x.seen, k ≠ (detTime b, ownNode s, detCam b, x.nextIndex)) →
        ∃ t w z, exec (.detection n d) s = .next (streamPut w n { streamGet w n with dets := [] }) ∧
          t = { v with groups := t.groups } ∧ (∀ k, k ≠ groupOf y → groupGet t k = groupGet s k) ∧
          z = { x with nextIndex := (x.nextIndex + 1) % 2 ^ 32,
                       seen := x.seen ++ [(detTime b, ownNode s, detCam b, x.nextIndex)] } ∧
          (detTime b < x.applied → groupGet t (groupOf y) = some z ∧ w = aloneRecord t (groupOf y) z n b 5) ∧
          (x.applied ≤ detTime b → w = t ∧ groupGet t (groupOf y) = some { z with
            queue := x.queue ++ [⟨detTime b, ownNode s, detCam b, x.nextIndex, n, b⟩] })))) ∧
  (∀ (g src time : Nat) (x : Group) (s : State), groupGet s g = some x → (grpMembers x.record).contains src = true →
    x.queue = [] → x.tracks = [] →
    ∃ t y, exec (.watermark g src time) s = .next t ∧ t = { s with groups := t.groups } ∧ groupGet t g = some y ∧
      tget y.marks src = some (max ((tget x.marks src).getD 0) time) ∧ y.applied = max x.applied (leastMark y) ∧
      (∀ m, m ≠ src → tget y.marks m = tget x.marks m) ∧ y.tracks = [] ∧ y.queue = [] ∧ y.record = x.record ∧
      ∀ k, k ≠ g → groupGet t k = groupGet s k) ∧
  (∀ (g src time : Nat) (x y : Group) (s : State), groupGet s g = some x → (grpMembers x.record).contains src = true →
    y.marks = tset x.marks src (max ((tget x.marks src).getD 0) time) → y = { x with
      marks := y.marks,
      stalls := if (tget x.marks src).getD 0 < time then tset x.stalls src s.elapsed else x.stalls,
      notAwaited := if (tget x.marks src).getD 0 < time ∧ x.applied ≤ time then x.notAwaited.filter (· != src) else x.notAwaited } →
    exec (.watermark g src time) s = .next (applyGroup (groupPut s g y) g)) ∧
  (∀ (g src : Nat) (x : Group) (s : State), g < 256 → groupGet s g = some x → (grpMembers x.record).contains src = true →
    x.notAwaited.contains src = false →
    (x.stalls.any fun e => e.1 != src && decide ((tget x.stalls src).getD 0 < e.2)) = true →
    grpTimeout x.record * 1000000 ≤ s.elapsed - (tget x.stalls src).getD 0 →
    ∃ u, exec (.sourceTimeout g src) s = .next (applyGroup (eventAdd u 0x44 g) g) ∧
      groupGet u g = some { x with notAwaited := x.notAwaited ++ [src] } ∧ logged u 0x0213 (g + 2 ^ 16 * (src % 2 ^ 16)) ∧
      u = { s with groups := u.groups, log := u.log, logHead := u.logHead }) ∧
  (∀ (p : Packet) (x : Group) (s : State), reaches s p 0x06 = true → resetting s = false → p.data.length = 32 →
    (groupGet s (p.addr % 256) = none → exec (.assoc p) s = .next (refuseTo s p 9)) ∧
    (groupGet s (p.addr % 256) = some x →
      (∀ k ∈ x.seen, k ≠ (detTime p.data, p.src, detCam p.data, p.addr / 2 ^ 8)) → x.applied ≤ detTime p.data →
      ∃ u, exec (.assoc p) s = .next (respond u p 0x04 0 []) ∧ u = { s with groups := u.groups } ∧
        groupGet u (p.addr % 256) = some { x with
          seen := x.seen ++ [(detTime p.data, p.src, detCam p.data, p.addr / 2 ^ 8)],
          queue := x.queue ++ [⟨detTime p.data, p.src, detCam p.data, p.addr / 2 ^ 8, p.stream, p.data⟩] })) ∧
  (∀ (p : Packet) (s : State), reaches s p 0x07 = true → resetting s = false →
    (p.data.length ≠ 16 → exec (.wmark p) s = .next (refuseTo s p 8)) ∧
    (p.data.length = 16 → groupGet s (p.addr % 256) = none → exec (.wmark p) s = .next (refuseTo s p 9)) ∧
    (p.data.length = 16 → (groupGet s (p.addr % 256)).isSome = true → ∀ u,
      exec (.watermark (p.addr % 256) p.src (leAt p.data 0 8)) s = .next u →
      exec (.wmark p) s = .next (respond u p 0x04 0 []))) ∧
  (∀ (wid : Nat) (w : Work) (x : Group) (s : State), startedAs s wid 0x0A = some w → w.cancelled = false →
    groupGet s (leAt w.desc 8 1) = some x →
    ∃ u, exec (.flushTracks wid) s = .next (complete u wid 0 0) ∧
      groupGet u (leAt w.desc 8 1) = some { x with tracks := x.tracks.filter fun t => !t.closed } ∧
      regGet u 0x8000200 = min (regGet s 0x8000200 + (x.tracks.filter (·.closed)).length)
        (max (2 ^ 32 - 1) (regGet s 0x8000200)) ∧
      ∀ k, k ≠ leAt w.desc 8 1 → groupGet u k = groupGet s k)

/-- A PPS edge captures the time base and in mode 2 corrects it to the nearest whole second (07 R231, 12 R410, R411); a
write of TIME_SET steps the time base forwards and logs the step, or is refused where a line-locked stream is admitted (12
R410); a gPTP result sets role, status and correction, and a follower that has lost its port turns to the other (12 R411). A
frame that MACsec refuses, one not for this device, one that its stream filter drops and a duplicate count in their own
counter and do nothing else (12 R409, R412, R413); the numbers that a stream leaves out count as lost (by the vector recovery of
log entry 105), and a request for an address or an echo is answered; a
gate list takes effect at a cycle start; a link that comes up is logged. Completes: PPS_EDGE, TIME_SET, GPTP_MESSAGE,
SYNC_TIMEOUT, ETH_FRAME, QBV_CYCLE_START, ETHERNET_LINK_CHANGE. -/
def Obligations.TimeFramesAndEthernetLinks : Prop :=
  ((∀ s : State, timeRunning s = true → timeMode s ≠ 2 →
    ∃ t, exec .ppsEdge s = .next t ∧ t = { s with regs := t.regs } ∧ regsKept s t [0x7000050, 0x7000054] ∧
      reg64 t 0x7000050 = s.time % 2 ^ 64) ∧
  (∀ s : State, timeRunning s = true → timeMode s = 2 → s.eth.setAtPps = none → lineLockedAdmitted s = true →
    ∃ t, exec .ppsEdge s = .next t ∧ t = { s with regs := t.regs, eth := { s.eth with slew := t.eth.slew } } ∧
      t.eth.slew = ((s.time + 500000000) / 1000000000 * 1000000000 : Nat) - (s.time : Int) ∧
      reg64 t 0x7000050 = s.time % 2 ^ 64) ∧
  (∀ (w : Writer) (hi lo : Word) (s : State), mayWrite s w = true → timeMode s = 0 → tget s.held 0xC000808 = some lo →
    (lineLockedAdmitted s = false → s.time ≤ lo.toNat + 2 ^ 32 * hi.toNat →
      ∃ t, exec (.timeSet w hi) s = .next t ∧ t.time = lo.toNat + 2 ^ 32 * hi.toNat ∧ logged t 0x0107 1 ∧
        regsKept s t [0xC000808, 0xC00080C] ∧
        t = { s with time := t.time, regs := t.regs, eth := { s.eth with slew := 0 }, log := t.log, logHead := t.logHead,
                     resp := ⟨0, false⟩ }) ∧
    (lineLockedAdmitted s = true →
      ∃ t, exec (.timeSet w hi) s = .next t ∧ logged t 0x0501 0x0C00080C ∧
        t = { s with log := t.log, logHead := t.logHead, resp := ⟨0, false⟩ })) ∧
  (∀ (g : GptpIn) (s : State), gptpPort s g.port = true → timeMode s = 1 → g.role = 1 → lineLockedAdmitted s = true →
    ∃ t, exec (.gptpMessage g) s = .next t ∧ t.eth = { s.eth with follower := some g.port, slew := -g.offset } ∧
      t = { s with regs := t.regs, eth := t.eth } ∧ regsKept s t [0xC000814, 0xC000818] ∧
      regGet t 0xC000814 = (2 ^ 30 + 2 ^ 29 * b2n g.locked + 2 ^ 28 * g.port) % 2 ^ 32) ∧
  (∀ (g : GptpIn) (s : State), gptpPort s g.port = true → timeMode s ≠ 0 → g.role ≠ 1 →
    (g.role = 2 → bitOf (regGet s 0xC000810) 29 = true) →
    ∃ t, exec (.gptpMessage g) s = .next t ∧ t = { s with regs := t.regs, eth := { s.eth with follower := none } } ∧
      regsKept s t [0xC000814] ∧ f (regGet t 0xC000814) 31 30 = g.role % 4) ∧
  (∀ (q : Nat) (s : State), s.eth.follower = some q → gptpPort s (1 - q) = true →
    ∃ t, exec .syncTimeout s = .next t ∧ t = { s with regs := t.regs, eth := { s.eth with follower := some (1 - q) } } ∧
      regsKept s t [0xC000814] ∧ f (regGet t 0xC000814) 28 28 = (1 - q) % 2) ∧
  (∀ (q : Nat) (s : State), s.eth.follower = some q → gptpPort s (1 - q) = false →
    ∃ t, exec .syncTimeout s = .next t ∧ t.eth = { s.eth with follower := none } ∧ regGet t 0xC000814 = 0 ∧
      regsKept s t [0xC000814] ∧ t = { s with regs := t.regs, eth := t.eth })) ∧
  ((∀ (q : Nat) (fr : EthFrameIn) (s : State), ethUp s q = true →
    (secDrops s q fr = true →
      ∃ t, exec (.ethFrame q fr) s = .next t ∧ t = { s with regs := t.regs } ∧ counted s t (0xC000014 + q * 0x100) 1) ∧
    (secDrops s q fr = false → frameTaken s q fr = false →
      ∃ t, exec (.ethFrame q fr) s = .next t ∧ t = { s with regs := t.regs } ∧ counted s t (0xC000010 + q * 0x100) 1) ∧
    (secDrops s q fr = false → frameTaken s q fr = true → ∀ i, filterOf s fr = some i → (filterTake s i fr).1 = false →
      ∃ t, exec (.ethFrame q fr) s = .next t ∧ t = { s with regs := t.regs, eth := { s.eth with meters := t.eth.meters } } ∧
        counted s t (0xC00240C + 16 * i) 1) ∧
    (∀ u, secDrops s q fr = false → frameTaken s q fr = true →
      (filterOf s fr = none ∧ u = s) ∨ (∃ i, filterOf s fr = some i ∧ filterTake s i fr = (true, u)) →
      u = { s with eth := { s.eth with meters := u.eth.meters } } ∧
      (∀ k, (fr.proto, k) ∈ [(EthProto.arp, 0), (.ndp, 1), (.icmpEcho, 2)] → frerOf u fr = none ∨ fr.rtag = none →
        exec (.ethFrame q fr) s = .next { u with out := .ethReply q k :: u.out }) ∧
      (∀ i n a, frerOf u fr = some i → fr.rtag = some n → a = 0xC002000 + 16 * i →
        (∀ k, (fr.proto, k) ∈ [(EthProto.arp, 0), (.ndp, 1), (.icmpEcho, 2)] → tget u.eth.frer i = none →
          ∃ t, exec (.ethFrame q fr) s = .next t ∧
            t = { u with regs := t.regs, out := .ethReply q k :: u.out,
                         eth := { u.eth with frer := tset u.eth.frer i (n % 65536, 1, s.elapsed) } } ∧
            ∀ b, regGet t b = regGet s b) ∧
        (∀ x w t0 h d, tget u.eth.frer i = some (x, w, t0) → s.elapsed - t0 < f (regGet s a) 9 0 * 1000000 →
          h = f (regGet s a) 28 24 + 1 → d = serialDiff 16 (n % 65536) x →
          ((h : Int) ≤ d ∨ d ≤ -(h : Int) → exec (.ethFrame q fr) s = .next u) ∧
          (-(h : Int) < d → d ≤ 0 → bitOf w (-d).toNat = true →
            ∃ t, exec (.ethFrame q fr) s = .next t ∧ t = { u with regs := t.regs } ∧ regsKept s t [a + 12] ∧
              f (regGet t (a + 12)) 31 16 = min (f (regGet s (a + 12)) 31 16 + 1) 65535) ∧
          (∀ k, (fr.proto, k) ∈ [(EthProto.arp, 0), (.ndp, 1), (.icmpEcho, 2)] → 0 < d → d < h →
            ∃ t, exec (.ethFrame q fr) s = .next t ∧
              t = { u with regs := t.regs, out := .ethReply q k :: u.out, eth := { u.eth with
                frer := tset u.eth.frer i (n % 65536, (shiftSeen h d.toNat w).1 + 1, s.elapsed) } } ∧
              regsKept s t [a + 12] ∧ f (regGet t (a + 12)) 15 0 =
                min (f (regGet s (a + 12)) 15 0 + (shiftSeen h d.toNat w).2) 65535))))) ∧
  (∀ (q : Nat) (s : State), ethEnabled s q = true → s.eth.newList[q]? = some true → q < s.eth.gateLists.length →
    reg64 s (0xC000020 + q * 0x100) ≤ s.time →
    ∃ t, exec (.qbvCycleStart q) s = .next t ∧ t = { s with eth := { s.eth with gateLists := t.eth.gateLists, newList := t.eth.newList } } ∧
      t.eth.gateLists[q]? = some (gateRegs s q) ∧ t.eth.newList[q]? = some false ∧
      ∀ k, k ≠ q → t.eth.gateLists[k]? = s.eth.gateLists[k]? ∧ t.eth.newList[k]? = s.eth.newList[k]?) ∧
  (∀ (q : Nat) (s : State), q < 2 → powered s 2 = true → bitOf (regGet s (0xC00000C + q * 0x100)) 31 = false →
    ∃ t, exec (.ethernetLinkChange q true) s = .next t ∧ t = { s with regs := t.regs, log := t.log, logHead := t.logHead } ∧
      f (regGet t (0xC00000C + q * 0x100)) 31 30 = 3 ∧ regsKept s t [0xC00000C + q * 0x100] ∧ logged t 0x020A (q + 2 ^ 8)))

/-- 14 R448 to R450: after a tick of the governor the array voltage lies between v_min and its cap, at most one step
of 5 mV from where it lay within them; a thermal tick shows the hottest sensor with its level, and a trip powers
everything but the always-on domain down and latches. 14 R447, R455, 16 R504, R512: a supply beyond its absolute
limits is the one input to which the manual gives no effect; VDD_IO18 and VDD_IO33 out of range are logged and counted
(the model's choice, log entry 41), the array rail has its partial reset once it has been out of range for 100 µs (found at a
thermal tick, log entry 113), another rail has its class's reset; a rail back in range is noted; a clock that runs and
loses or regains its lock is logged, and the pair of LPDDR channels that has regained it is due for a check (10 R345). Completes: GOVERNOR_TICK, THERMAL_TICK, HARDWARE_TRIP, SUPPLY_FAULT,
SUPPLY_RESTORED, PLL_LOCK_LOSS, PLL_RELOCK. -/
def Obligations.GovernorHeatSuppliesAndClocks : Prop :=
  ((∀ (rates : List Nat) (power : Nat) (s : State), arrayOn s = true → gradeOk s.boot.nor.bytes = true →
    ∃ t, exec (.governorTick rates power true) s = .next t ∧ vMin s ≤ arrayMv t ∧ arrayMv t ≤ max (vMin s) (govCap t).1 ∧
      (govCap t).1 ≤ vMax s ∧
      (vMin s ≤ arrayMv s → arrayMv s ≤ (govCap t).1 → arrayMv s ≤ arrayMv t + 5 ∧ arrayMv t ≤ arrayMv s + 5) ∧
      regGet t 0xD000038 = power % 65536 ∧ (∀ p, p < 104 → podBacked s p = true → regGet t (0xD000100 + 4 * p) = rates.getD p 0 % 4096) ∧
      t = { s with regs := t.regs, power := t.power, log := t.log, logHead := t.logHead }) ∧
  (∀ (temps : List (Option Int)) (i : Nat) (x : Int) (s : State), hottest temps = some (i, x) → s.power.tripLatched = false → arrDue s = false →
    nextLevel s (thermLevel s) x = thermLevel s → thermLevel s < 4 →
    ∃ t, exec (.thermalTick temps) s = .next t ∧ regsKept s t [0xD00003C] ∧
      regGet t 0xD00003C = 2 ^ 24 * thermLevel s + 2 ^ 16 * (i % 32) + low x 16 ∧
      t = { s with regs := t.regs, power := { s.power with invalidSince := none } }) ∧
  (∀ (temps : List (Option Int)) (i n : Nat) (x : Int) (s : State), hottest temps = some (i, x) → s.power.tripLatched = false → arrDue s = false →
    n = nextLevel s (thermLevel s) x →
    (n < 4 → ∃ t, exec (.thermalTick temps) s = .next t ∧ thermLevel t = n ∧ t.power.invalidSince = none ∧
      f (regGet t 0xD00003C) 20 16 = i % 32 ∧ f (regGet t 0xD00003C) 15 0 = low x 16 ∧
      (n ≠ thermLevel s → logged t 0x0101 ((n + 2 ^ 8 * (i % 32) + 2 ^ 16 * low x 16) % 2 ^ 32))) ∧
    (4 ≤ n → ∃ u, exec (.thermalTick temps) s = .next (tripHard u) ∧ regsKept s u [0xD00003C] ∧
      u = { s with regs := u.regs, power := { s.power with invalidSince := none } })) ∧
  (∀ (temps : List (Option Int)) (s : State), hottest temps = none → s.power.invalidSince = none → arrDue s = false →
    exec (.thermalTick temps) s = .next { s with power := { s.power with invalidSince := some s.elapsed } }) ∧
  (∀ (temps : List (Option Int)) (t0 : Nat) (u s : State), s.power.arrOutAt = some t0 → t0 + 90000 ≤ s.elapsed →
    u = partialReset { s with power := { s.power with arrOutAt := none } } 1 9 false →
    exec (.thermalTick temps) s = exec (.thermalTick temps) u) ∧
  (∀ s : State, s.power.tripLatched = false →
    ∃ t, exec .hardwareTrip s = .next t ∧ t.power.tripLatched = true ∧ t.pins.thermTripN = false ∧ t.pins.arrEn = false ∧
      t.pins.lasers = false ∧ t.pins.ddrResetN = false ∧ regGet t 0xD000020 = 1 ∧ thermLevel t = 4 ∧
      t.works = [] ∧ t.pairs = [] ∧ t.poison = [] ∧ t.boot.step = 13 ∧ t.rrp = Rrp.reset ∧
      ∀ a, a < 0x2000000000 → memGet t.mem a = 0)) ∧
  ((∀ (r : Nat) (uv : Int) (s : State), r ≤ 10 →
    (exec (.supplyFault r uv) s = .fault .beyondAbsoluteLimits ↔ railMax r < uv ∨ uv < -300000)) ∧
  (∀ (r : Nat) (uv : Int) (s : State), r ≤ 10 → -300000 ≤ uv → uv ≤ railMax r → uv < (railRange s r).1 ∨ (railRange s r).2 < uv →
    s.pins.rails[r]? = some true →
    ∃ u, exec (.supplyFault r uv) s = .next (railAction u r) ∧ u.pins.rails[r]? = some false ∧
      u = { s with pins := { s.pins with rails := u.pins.rails }, regs := u.regs, log := u.log, logHead := u.logHead } ∧
      regsKept s u [0xD000044] ∧ f (regGet u 0xD000044) 23 16 = min (f (regGet s 0xD000044) 23 16 + 1) 255 ∧
      logged u 0x0102 (r + 2 ^ 8 * b2n (decide ((railRange s r).2 < uv))) ∧ (r = 3 ∨ r = 4 → railAction u r = u) ∧
      (r = 0 → railAction u r = { u with power := { u.power with arrOutAt := some s.elapsed } })) ∧
  (∀ (r : Nat) (s : State), s.boot.step ≠ 0 →
    ∃ t, exec (.supplyRestored r) s = .next t ∧
      t = { s with pins := { s.pins with rails := t.pins.rails },
                   power := { s.power with arrOutAt := if r = 0 then none else s.power.arrOutAt } } ∧
      ∀ k b, s.pins.rails[k]? = some b → t.pins.rails[k]? = some (b || k == r)) ∧
  (∀ (k i : Nat) (s : State), i < 256 → s.power.unlocked.contains (k, i) = false → clockRuns s k i = true →
    ∃ u, exec (.pllLockLoss k i) s = .next (clockLost u k i) ∧ logged u 0x020C (k + 2 ^ 8 * i) ∧
      u = { s with power := { s.power with unlocked := s.power.unlocked ++ [(k, i)] }, log := u.log, logHead := u.logHead }) ∧
  (∀ (k i : Nat) (s : State), k ≤ 11 → i < 256 → s.power.unlocked.contains (k, i) = true →
    ∃ t, exec (.pllRelock k i) s = .next t ∧ (k, i) ∉ t.power.unlocked ∧ logged t 0x020C (k + 2 ^ 8 * i + 2 ^ 16) ∧
      t = { s with power := { s.power with unlocked := t.power.unlocked }, log := t.log, logHead := t.logHead, ddr := t.ddr } ∧
      (k ≠ 9 → t.ddr = s.ddr) ∧ (k = 9 → t.ddr = { s.ddr with wckAt := t.ddr.wckAt } ∧
        tget t.ddr.wckAt (2 * i) = some s.elapsed ∧ tget t.ddr.wckAt (2 * i + 1) = some s.elapsed) ∧
      ∀ x, x ≠ (k, i) → (x ∈ t.power.unlocked ↔ x ∈ s.power.unlocked)))

/-- 14 R452 to R454: the device enters Idle when its array has rested; a request for Dormant that some condition
refuses is logged with the first reason, and one that none refuses saves the tables and leaves only the always-on
domain and the retained halves powered; there the last 16 edges of each encoder are kept, and 16 of one encoder within 1 s
are a source; an enabled source wakes the device into step 4 of its start. Completes:
IDLE_ENTRY, DORMANT_REQUEST, WAKE. -/
def Obligations.PowerStatesAreEntered : Prop :=
  (∀ s : State, s.boot.step = 12 → s.power.mode = 0 → lineLockedAdmitted s = false → arrayBusy s = false →
    1000000 ≤ s.elapsed - s.power.lastArray →
    ∃ t, exec .idleEntry s = .next t ∧ t.power = { s.power with mode := 1 } ∧ f (regGet t 0xD000000) 31 30 = 1 ∧
      regsKept s t [0xD000000] ∧ t = { s with regs := t.regs, power := t.power }) ∧
  (∀ (w : Writer) (v : Word) (s : State), mayWrite s w = true → v.toNat % 16 = 2 → s.power.mode < 2 →
    (dormantReason s ≠ 0 →
      ∃ t, exec (.dormantRequest w v) s = .next t ∧ f (regGet t 0xD000000) 27 24 = dormantReason s ∧
        regsKept s t [0xD000000] ∧ logged t 0x0104 (dormantReason s) ∧
        t = { s with regs := t.regs, log := t.log, logHead := t.logHead, resp := ⟨0, false⟩ }) ∧
    (dormantReason s = 0 →
      ∃ t, exec (.dormantRequest w v) s = .next t ∧ t.power.mode = 2 ∧ f (regGet t 0xD000000) 31 30 = 2 ∧
        t.power.saved = some (s.wins, s.resident, s.parts) ∧ t.wins = [] ∧ t.resident = [] ∧ t.parts = [] ∧
        t.boot.step = 0 ∧ t.boot.cores = false ∧ t.pins.lasers = false ∧ t.rrp = Rrp.reset ∧
        powered t 0 = true ∧ (∀ d, d < 32 → d ≠ 0 → d ≠ 9 → d ≠ 10 → powered t d = false) ∧
        powered t 9 = (bitOf (regGet s 0x2000204) 0 && s.leekUp.getD 0 false) ∧
        powered t 10 = (bitOf (regGet s 0x2000204) 1 && s.leekUp.getD 1 false) ∧
        logged t 0x0105 (regGet s 0x2000204 % 4))) ∧
  (∀ (e : Nat) (q : Quad) (s : State), s.power.mode = 2 → e < 2 → q ≠ .both →
    ∃ t, exec (.encoderEdge e q) s = .next t ∧ t = { s with power := { s.power with wakeEdges := t.power.wakeEdges } } ∧
      (∀ l, tget s.power.wakeEdges e = some l → tget t.power.wakeEdges e = some ((s.elapsed :: l).take 16)) ∧
      ∀ k, k ≠ e → tget t.power.wakeEdges k = tget s.power.wakeEdges k) ∧
  (∀ (l : List Nat) (s : State), bitOf (regGet s 0xD000004) 2 = true → (tget s.power.wakeEdges 0 = some l ∨ tget s.power.wakeEdges 1 = some l) →
    l.length = 16 → (∀ x ∈ l, l.headD 0 ≤ x + 1000000000) → wakeHolds s 2 = true) ∧
  (∀ (src : Nat) (ok : Bool) (s : State), s.power.mode = 2 → wakeHolds s src = true → src < 3 →
    ∃ u, exec (.wake src ok) s = .next (portsChanged u) ∧ u.power.mode = 3 ∧ u.boot.step = 4 ∧ u.boot.kind = 2 ∧
      u.boot.digestOk = ok ∧ u.pins.lasers = true ∧ powered u 1 = true ∧ powered u 2 = true ∧
      f (regGet u 0xD000000) 15 8 = 2 ^ src ∧ f (regGet u 0xD000000) 31 30 = 3 ∧ u.mem = s.mem ∧ u.wins = s.wins)

/-- 02 R52, 14 R455, R458, R464: the check of the conserved pools reports each pool whose counts disagree, and changes
nothing where all agree; a capture copies all counts at one instant; a silent Sprout or Supervisor is counted and
logged. 14 R459: a spare choice, a token grant and a voltage command with which the Supervisor disagrees take no
effect; the mismatch is logged and reported, and the Sprout restarts. 14 R460, R461: a start request that nothing
conflicts with takes its token and is answered accepted; one that conflicts is answered with the holder; a stop
request for a running activity lets it end at its next unit; the end of the last unit returns the token; the periodic
start of an activity that is due takes a free token the same way, and the activity is due again after its period. Completes: CONSERVATION_CHECK, CONS_SNAP, SPROUT_HEARTBEAT_TIMEOUT,
SUPERVISOR_HEARTBEAT_TIMEOUT, POD_FAILURE, MAINT_START, GOVERNOR_TICK, MAINT_STOP, MAINT_PERIODIC_START,
MAINT_UNIT_DONE. -/
def Obligations.SupervisorChecksAndMaintenance : Prop :=
  ((∀ s : State, s.cons.length = 39 → (∀ c ∈ s.cons, c.ok = true) → exec .conservationCheck s = .next s) ∧
  (∀ s : State, s.cons.length = 39 → ∃ t, exec .conservationCheck s = .next t ∧ t.works = s.works ∧ t.streams = s.streams ∧
    ∀ (i : Nat) (c : Cons), s.cons[i]? = some c →
      ∃ d : Cons, t.cons[i]? = some d ∧ d.failed = if c.ok then c.failed else min (c.failed + 1) (2 ^ 32 - 1)) ∧
  (∀ (i : Nat) (c : Cons) (s : State), s.cons.length = 39 → s.cons[i]? = some c → c.ok = false →
    (∀ k d, k ≠ i → s.cons[k]? = some d → d.ok = true) →
    ∃ u, exec .conservationCheck s = .next (eventAdd u 0x43 (s.logHead % 65536)) ∧ logged u 0x0F01 i ∧
      u = { s with cons := u.cons, log := u.log, logHead := u.logHead } ∧
      u.cons[i]? = some { c with failed := min (c.failed + 1) (2 ^ 32 - 1) } ∧ ∀ k, k ≠ i → u.cons[k]? = s.cons[k]?) ∧
  (∀ (w : Writer) (v : Word) (s : State), mayWrite s w = true →
    (v.toNat % 2 = 1 → exec (.consSnap w v) s = .next { s with snap := s.cons, resp := ⟨0, false⟩ }) ∧
    (v.toNat % 2 = 0 → exec (.consSnap w v) s = .next { s with resp := ⟨0, false⟩ })) ∧
  (∀ s : State, s.sec.mgmt.isSome = true →
    (∃ t, exec .sproutHeartbeatTimeout s = .next t ∧ logged t 0x020F 1 ∧ regsKept s t [0xD000044] ∧
      f (regGet t 0xD000044) 15 8 = min (f (regGet s 0xD000044) 15 8 + 1) 255 ∧
      t = { s with regs := t.regs, log := t.log, logHead := t.logHead }) ∧
    (∃ t, exec .supervisorHeartbeatTimeout s = .next t ∧ logged t 0x0210 0 ∧ regsKept s t [0xD000044] ∧
      f (regGet t 0xD000044) 7 0 = min (f (regGet s 0xD000044) 7 0 + 1) 255 ∧
      t = { s with regs := t.regs, log := t.log, logHead := t.logHead })) ∧
  (∀ (d : Nat) (s : State), d < 5 →
    (∃ u, decisionMismatch s d = sproutRestart (eventAdd u 0x43 (s.logHead % 65536)) 2 ∧ logged u 0x0F02 d ∧
      u = { s with log := u.log, logHead := u.logHead }) ∧
    (decisionMismatch s d).works = s.works ∧ (decisionMismatch s d).streams = s.streams ∧ (decisionMismatch s d).pods = s.pods ∧
    (decisionMismatch s d).tokens = s.tokens ∧ logged (decisionMismatch s d) 0x020F 2) ∧
  (∀ (pod : Nat) (s : State), choosesSpare s pod = true → exec (.podFailure pod false) s = .next (decisionMismatch s 3)) ∧
  (∀ (w : Writer) (v : Word) (act tgt : Nat) (s : State), mayWrite s w = true → f v.toNat 23 20 = act → f v.toNat 15 0 = tgt →
    f v.toNat 19 16 = 1 → act ∈ [1, 2, 3, 6] → maintTarget s act tgt = true → maintAllowed s act tgt = true →
    tokenConflict s act tgt = none → tget s.tokens (tokenOf act tgt) = none →
    exec (.maintStart w v false) s = .next (answer (decisionMismatch s 2) 0 false)) ∧
  (∀ (rates : List Nat) (power : Nat) (s : State), arrayOn s = true → arrayBusy s = false →
    ∃ u, exec (.governorTick rates power false) s = .next (decisionMismatch u 4) ∧ arrayMv u = arrayMv s ∧
      u = { s with regs := u.regs } ∧ regGet u 0xD000038 = power % 65536)) ∧
  ((∀ (w : Writer) (v : Word) (act tgt : Nat) (s : State), mayWrite s w = true → f v.toNat 23 20 = act → f v.toNat 15 0 = tgt →
    1 ≤ act → act ≤ 7 → maintTarget s act tgt = true → maintAllowed s act tgt = true → ¬ (act = 4 ∧ substPending s = true) →
    (f v.toNat 19 16 = 1 → act ≠ 5 → tokenConflict s act tgt = none →
      ∃ t, exec (.maintStart w v true) s = .next t ∧ tget t.tokens (tokenOf act tgt) = some ⟨act, tgt, false⟩ ∧
        regGet t 0xD000304 = 2 ^ 24 * f v.toNat 31 24 + 2 ^ 20 ∧ logged t 0x0301 (act + 2 ^ 8 * tokenOf act tgt) ∧
        regsKept s t [0xD000304] ∧
        t = { s with tokens := t.tokens, cons := t.cons, regs := t.regs, log := t.log, logHead := t.logHead, resp := ⟨0, false⟩,
                     pods := if act = 4 then { s.pods with selfTest := some tgt } else s.pods }) ∧
    (f v.toNat 19 16 = 1 → act = 5 → tokenConflict s act tgt = none →
      ∃ t, exec (.maintStart w v true) s = .next t ∧ tget t.tokens (tokenOf act tgt) = some ⟨act, tgt, false⟩ ∧
        regGet t 0xD000304 = 2 ^ 24 * f v.toNat 31 24 + 2 ^ 20 ∧ logged t 0x0301 (act + 2 ^ 8 * tokenOf act tgt) ∧
        fabState t tgt = 1 ∧ regsKept s t [0xD000304, 0xB001004 + tgt * 0x40]) ∧
    (f v.toNat 19 16 = 1 → ∀ h, tokenConflict s act tgt = some h →
      ∃ t, exec (.maintStart w v true) s = .next t ∧ t.tokens = s.tokens ∧ regsKept s t [0xD000304] ∧
        regGet t 0xD000304 = (2 ^ 24 * f v.toNat 31 24 + 2 ^ 21 + 2 ^ 16 * h.activity + h.target) % 2 ^ 32 ∧
        t = { s with regs := t.regs, log := t.log, logHead := t.logHead, resp := ⟨0, false⟩ }) ∧
    (f v.toNat 19 16 = 2 → ∀ h, tget s.tokens (tokenOf act tgt) = some h → h.activity = act → h.target = tgt →
      ∃ t, exec (.maintStop w v) s = .next t ∧ tget t.tokens (tokenOf act tgt) = some { h with stop := true } ∧
        regGet t 0xD000304 = 2 ^ 24 * f v.toNat 31 24 + 2 ^ 22 ∧ regsKept s t [0xD000304] ∧
        t = { s with tokens := t.tokens, regs := t.regs, resp := ⟨0, false⟩ })) ∧
  (∀ (act tgt : Nat) (s : State), act ∈ [1, 3, 4, 6] → s.boot.step = 12 → maintTarget s act tgt = true →
    maintAllowed s act tgt = true → maintDue s act tgt = true → ¬ (act = 4 ∧ substPending s = true) →
    tokenConflict s act tgt = none →
    ∃ t, exec (.maintPeriodicStart act tgt) s = .next t ∧ tget t.tokens (tokenOf act tgt) = some ⟨act, tgt, false⟩ ∧
      logged t 0x0301 (act + 2 ^ 8 * tokenOf act tgt) ∧ maintDue t act tgt = decide (maintPeriod s act = 0 ∧ act ≠ 4) ∧
      t = { s with tokens := t.tokens, cons := t.cons, log := t.log, logHead := t.logHead,
                   power := { s.power with maintAt := tset s.power.maintAt (tokenOf act tgt) s.elapsed },
                   pods := if act = 4 then { s.pods with selfTest := some tgt, lastTest := some tgt } else s.pods }) ∧
  (∀ (k : Nat) (h : Token) (s : State), tget s.tokens k = some h → h.activity = 2 ∨ h.activity = 7 → k < 19 →
    (∃ t, exec (.maintUnitDone k true false ⟨[], [], 0⟩) s = .next t ∧ t.tokens = tdel s.tokens k ∧
      logged t 0x0302 (h.activity + 2 ^ 8 * k) ∧
      t = { s with tokens := t.tokens, cons := t.cons, log := t.log, logHead := t.logHead }) ∧
    (h.stop = false → exec (.maintUnitDone k false false ⟨[], [], 0⟩) s = .next s)))

/-- A write of a window's CTRL makes the entry that its staged fields say, frees it, or is refused and logged where the device
has locked the entry (10 R320 to R323); a write of the residency registers sets or clears exactly the bits of its range (10
R329, R330); a stream halted at a non-resident unit of a refilled window gets the unit from its backing window, its bit set,
and resumes (10 R331). A read of ALLOC gives the lowest buffer that is neither held nor pending, and holds it, or answers 0;
a free returns a held buffer; one still referenced waits as pending, and a free of a buffer not held changes no buffer: both
are counted and logged (10 R332 to R336). Completes: WINDOW_CTRL_WRITE, RES_SET, RES_CLR, AUTO_REFILL, POOL_ALLOC,
POOL_FREE. -/
def Obligations.WindowsResidencyAndPoolsChange : Prop :=
  ((∀ (w : Writer) (n : Nat) (v : Word) (s : State), n < 256 → mayWrite s w = true →
    (∀ x, tget s.wins n = some x → x.lock = true →
      ∃ t, exec (.windowCtrlWrite w n v) s = .next t ∧ logged t 0x0501 (0x0400000C + n * 0x20) ∧
        t = { s with log := t.log, logHead := t.logHead, resp := ⟨0, false⟩ }) ∧
    (∀ m, m = v.toNat &&& 0xDFC07F7F → tget s.wins n = none → f m 31 30 = 2 → f m 28 26 ∈ [0, 3, 4, 5, 6] →
      winLegal s n 0 (winOf s n m 0) = true →
      ∃ t, exec (.windowCtrlWrite w n v) s = .next t ∧ tget t.wins n = some (winOf s n m 0) ∧
        (∀ k, k ≠ n → tget t.wins k = tget s.wins k) ∧
        t = { s with wins := t.wins, regs := t.regs, shadow := t.shadow, cons := t.cons, resp := ⟨0, false⟩ } ∧
        ∀ a, a < winBase n ∨ winBase n + 0x20 ≤ a → regGet t a = regGet s a) ∧
    (∀ x, tget s.wins n = some x → x.lock = false → x.holder = 0 → editable s x.owner = true → v = 0 →
      Tab.wf s.wins = true →
      ∃ t, exec (.windowCtrlWrite w n v) s = .next t ∧ tget t.wins n = none ∧ ∀ k, k ≠ n → tget t.wins k = tget s.wins k)) ∧
  (∀ (w : Writer) (v : Word) (s : State), mayWrite s w = true →
    (f v.toNat 17 0 + f v.toNat 31 18 + 1 ≤ 262144 →
      (∃ t, exec (.resSet w v) s = .next t ∧ t = { s with resident := t.resident, resp := ⟨0, false⟩ } ∧
        ∀ i, residentBit t.resident i =
          (decide (f v.toNat 17 0 ≤ i ∧ i ≤ f v.toNat 17 0 + f v.toNat 31 18) || residentBit s.resident i)) ∧
      (∃ t, exec (.resClr w v) s = .next t ∧ t = { s with resident := t.resident, resp := ⟨0, false⟩ } ∧
        ∀ i, residentBit t.resident i =
          (!decide (f v.toNat 17 0 ≤ i ∧ i ≤ f v.toNat 17 0 + f v.toNat 31 18) && residentBit s.resident i))) ∧
    (262144 < f v.toNat 17 0 + f v.toNat 31 18 + 1 →
      ∃ t, exec (.resSet w v) s = .next t ∧ t = { s with log := t.log, logHead := t.logHead, resp := ⟨0, false⟩ } ∧
        logged t 0x0501 0x04002000)) ∧
  (∀ (n a u : Nat) (pos : List Byte) (w b : Window) (s : State), (streamGet s n).state = .halted →
    (streamGet s n).record = true →
    pos = ((streamGet s n).pos.flatMap fun v => leBytes 4 v.toNat) → leAt pos 2 1 = 0x01 → a = leAt pos 16 5 →
    tget s.wins (leAt pos 21 1) = some w → backingOf s w = some b → w.covers a = true → w.tracked = true →
    u = (a - w.base) / 65536 → poisonIn s (b.base + u * 65536) 65536 = none → Memory.wf s.mem = true →
    ∃ t, exec (.autoRefill n) s = .next (resumeAt t n
        (if (streamGet s n).cls = .lineLocked then resumeBand t (streamGet t n) (leAt pos 4 4) else leAt pos 4 4) false) ∧
      memGetN t.mem (w.base + u * 65536) 65536 = memGetN s.mem (b.base + u * 65536) 65536 ∧
      bytesKeptOutside s t (w.base + u * 65536) 65536 ∧ residentBit t.resident (w.resFirst + u) = true ∧
      t = { s with mem := t.mem, poison := t.poison, resident := t.resident })) ∧
  ((∀ (w : Writer) (p : Nat) (s : State), p < 8 → mayRead s w (0x4003004 + p * 0x20) = true →
    (∀ b, b < poolCount s p → b ∉ (poolGet s p).held → b ∉ (poolGet s p).pending →
      (∀ k, k < b → k ∈ (poolGet s p).held ∨ k ∈ (poolGet s p).pending) →
      ∃ t, exec (.poolAlloc w p) s = .next t ∧ t.resp = ⟨2 ^ 31 + b, false⟩ ∧
        (∀ k, k ∈ (poolGet t p).held ↔ k = b ∨ k ∈ (poolGet s p).held) ∧ (poolGet t p).pending = (poolGet s p).pending ∧
        (∀ q, q ≠ p → poolGet t q = poolGet s q) ∧ t = { s with pools := t.pools, cons := t.cons, resp := t.resp }) ∧
    ((∀ b, b < poolCount s p → b ∈ (poolGet s p).held ∨ b ∈ (poolGet s p).pending) →
      exec (.poolAlloc w p) s = .next { s with resp := ⟨0, false⟩ })) ∧
  (∀ (w : Writer) (p b : Nat) (v : Word) (s : State), p < 8 → mayWrite s w = true → b = v.toNat % 4096 → b < poolCount s p →
    (b ∈ (poolGet s p).held → (∀ r ∈ (poolGet s p).refs, r.1 ≠ b) →
      ∃ t, exec (.poolFree w p v) s = .next t ∧ (poolGet t p).held = (poolGet s p).held.filter (· != b) ∧
        (poolGet t p).pending = (poolGet s p).pending ∧ (∀ q, q ≠ p → poolGet t q = poolGet s q) ∧
        t = { s with pools := t.pools, cons := t.cons, resp := ⟨0, false⟩ }) ∧
    (b ∈ (poolGet s p).held → (∃ r ∈ (poolGet s p).refs, r.1 = b) →
      ∃ t, exec (.poolFree w p v) s = .next t ∧ (poolGet t p).held = (poolGet s p).held.filter (· != b) ∧
        (∀ k, k ∈ (poolGet t p).pending ↔ k = b ∨ k ∈ (poolGet s p).pending) ∧ counted s t (0x4003010 + p * 0x20) 1 ∧ logged t 0x0408 (p + 2 ^ 16 * b)) ∧
    (b ∉ (poolGet s p).held →
      ∃ t, exec (.poolFree w p v) s = .next t ∧ counted s t (0x4003014 + p * 0x20) 1 ∧
        logged t 0x0408 (p + 2 ^ 8 + 2 ^ 16 * b) ∧
        t = { s with regs := t.regs, log := t.log, logHead := t.logHead, resp := ⟨0, false⟩ })))

/-- A write of DDR.SHARE acts at once, or is held while a line-locked stream is admitted (06 R207); an enforcement window
renews the allowances, and the requests that waited for it are served within them or wait on (06 R208); channel pairs enter and leave self refresh (10 R346); link checks and refreshes change no
result (10 R341, R345, 06 R209); a write of a bound set's W3 applies its held words (05 R158). Completes: DDR_SHARE_WRITE,
ENFORCEMENT_WINDOW, SELF_REFRESH_ENTRY, SELF_REFRESH_EXIT, WCK_DQ_CHECK, PER_BANK_REFRESH, RTB_W3_WRITE. -/
def Obligations.MemorySharesAndUpkeep : Prop :=
  (∀ (w : Writer) (v : Word) (m : Nat) (s : State), mayWrite s w = true → m = v.toNat % 2 ^ 24 →
    f m 23 16 + f m 15 8 + f m 7 0 = 100 → 5 ≤ f m 23 16 → 5 ≤ f m 15 8 → 5 ≤ f m 7 0 →
    (lineLockedAdmitted s = true →
      exec (.ddrShareWrite w v) s = .next { s with ddr := { s.ddr with heldShare := some (BitVec.ofNat 32 m) }, resp := ⟨0, false⟩ }) ∧
    (lineLockedAdmitted s = false →
      ∃ t, exec (.ddrShareWrite w v) s = .next t ∧ t = { s with regs := t.regs, resp := ⟨0, false⟩ } ∧
        regGet t 0x3000400 = m ∧ regGet t 0x3000404 = m ∧ regsKept s t [0x3000400, 0x3000404])) ∧
  (∀ s : State, s.ddr.window < s.time / 1000 * 1000 →
    ∃ t, exec .enforcementWindow s = .next t ∧ t = { s with ddr := { s.ddr with
        window := s.time / 1000 * 1000, refreshTaken := 0, used := t.ddr.used, queued := t.ddr.queued } } ∧
      (∀ n c, ddrUsed t n c ≤ allowance (streamGet s n) c) ∧ (∀ c, ddrClassUsed t c ≤ ddrQuota s c) ∧
      (s.ddr.queued = [] → t.ddr.used = [] ∧ t.ddr.queued = [])) ∧
  (∀ s : State, s.time / 1000 * 1000 ≤ s.ddr.window → exec .enforcementWindow s = .next s) ∧
  (∀ (p : Nat) (s : State), p < 8 → pairIdle s p = true → tolerant s = true → powered s 11 = true → capacity s ≠ 0 → p ∉ s.ddr.selfRefresh →
    ∃ t, exec (.selfRefreshEntry p) s = .next t ∧ t = { s with ddr := { s.ddr with selfRefresh := t.ddr.selfRefresh } } ∧
      ∀ k, k ∈ t.ddr.selfRefresh ↔ k = p ∨ k ∈ s.ddr.selfRefresh) ∧
  (∀ (p : Nat) (s : State),
    ∃ t, exec (.selfRefreshExit p) s = .next t ∧ t = { s with ddr := { s.ddr with selfRefresh := t.ddr.selfRefresh } } ∧
      ∀ k, k ∈ t.ddr.selfRefresh ↔ k ≠ p ∧ k ∈ s.ddr.selfRefresh) ∧
  (∀ (ch n : Nat) (s : State), ch < 16 →
    (∃ t, exec (.wckDqCheck ch) s = .next t ∧ t = { s with ddr := { s.ddr with wckAt := t.ddr.wckAt } }) ∧
    exec (.perBankRefresh ch n) s = .next { s with ddr := { s.ddr with refreshTaken := s.ddr.refreshTaken + n } }) ∧
  (∀ (w : Writer) (n : Nat) (v : Word) (s : State), 1 ≤ n → n ≤ 15 → mayWrite s w = true → Tab.wf s.shadow = true →
    ∃ t, exec (.rtbW3Write w n v) s = .next t ∧ t = { s with regs := t.regs, shadow := t.shadow, resp := ⟨0, false⟩ } ∧
      regsKept s t [0x2000100 + n * 0x10, 0x2000104 + n * 0x10] ∧
      ∀ a, a ∈ [0x2000100 + n * 0x10, 0x2000104 + n * 0x10] →
        regGet t a = (match tget s.shadow a with | some x => x.toNat | none => regGet s a) ∧ tget t.shadow a = none)

/-- A deferrable stream takes free spool buffers or waits for them, and gives them back (06 R216); when every holder is stuck
and none is free, the lowest-ranked holder's buffers are copied to its overflow window and freed, or it faults (06 R217); the
contents return to the buffers they came from when all of these are free (06 R218). A half of Leek space that nothing uses is
powered down and loses its contents; a held one is refused and logged (10 R348). Completes: SPOOL_BUFFER_REQUEST,
SPOOL_DEADLOCK_CHECK, SPILL_RESTORE, LEEK_HALF_POWER_DOWN. -/
def Obligations.SpoolBuffersAndLeekHalves : Prop :=
  (∀ (n k : Nat) (s : State), (streamGet s n).cls = .deferrable → (streamGet s n).state = .running →
    (streamGet s n).faulting = none →
    (k ≤ poolSize s → (streamGet s n).wants = none → (streamGet s n).spilled = [] →
      (k ≤ (poolFreeBufs s).length →
        ∃ t, exec (.spoolBufferRequest n (.take k)) s = .next t ∧ t = { s with spool := t.spool, cons := t.cons } ∧
          ∀ i, tget t.spool i = if i ∈ (poolFreeBufs s).take k then some n else tget s.spool i) ∧
      ((poolFreeBufs s).length < k →
        ∃ t, exec (.spoolBufferRequest n (.take k)) s = .next t ∧ t = { s with streams := t.streams } ∧
          streamGet t n = { streamGet s n with wants := some (k, s.elapsed) } ∧ streamsKept s t n)) ∧
    (poolSize s < k → exec (.spoolBufferRequest n (.take k)) s = .next (raiseFault s n (plainFault 0x07))) ∧
    (Tab.wf s.spool = true →
      ∃ u, exec (.spoolBufferRequest n (.give k)) s = .next (serveWaits u) ∧ u = { s with spool := u.spool, cons := u.cons } ∧
        ∀ i, tget u.spool i = if i ∈ (poolHeld s n).take k then none else tget s.spool i)) ∧
  (∀ (n m k t0 : Nat) (x : Stream) (s : State), (m, x) ∈ s.streams → x.wants = some (k, t0) → x.cls = .deferrable →
    f (regGet s 0x3F00) 16 0 * 1000 < s.elapsed - t0 → poolFreeBufs s = [] →
    (∀ h ∈ admittedIds s, poolHeld s h ≠ [] →
      (streamGet s h).wants.isSome = true ∨ (streamGet s h).state = .halted ∨ (streamGet s h).faulting.isSome = true) →
    lowestRank s ((admittedIds s).filter fun h => !(poolHeld s h).isEmpty) = some n → n < 128 → Tab.wf s.spool = true →
    (∀ w c, spillWindow s n = some w → ddrLineWaiting s = false → pairLost s = false →
      spillCopies s n ((spillPlan s n w).map fun p => (spoolAddr s p.1, p.2)) = .ok c →
      ∃ u, exec .spoolDeadlockCheck s = .next (serveWaits u) ∧ logged u 0x0407 n ∧ u.mem = c.mem ∧
        streamGet u n = { streamGet c n with spilled := spillPlan s n w } ∧ streamsKept c u n ∧
        ∀ i, tget u.spool i = if i ∈ poolHeld s n then none else tget s.spool i) ∧
    (spillWindow s n = none →
      ∃ u r, exec .spoolDeadlockCheck s = .next (serveWaits (poolGive r n (poolHeld s n).length)) ∧
        logged u 0x0407 (n + 2 ^ 8) ∧ u = { s with log := u.log, logHead := u.logHead } ∧
        r = streamPut (raiseFault u n (plainFault 0x07)) n
          { streamGet (raiseFault u n (plainFault 0x07)) n with wants := none })) ∧
  (∀ (n : Nat) (s : State), (streamGet s n).spilled ≠ [] → ddrLineWaiting s = false → pairLost s = false →
    (∀ p ∈ (streamGet s n).spilled, p.1 ∈ poolFreeBufs s) →
    ∃ u, u = { s with streams := u.streams, spool := u.spool, cons := u.cons } ∧ streamsKept s u n ∧
      streamGet u n = { streamGet s n with spilled := [] } ∧
      (∀ j, tget u.spool j = if j ∈ (streamGet s n).spilled.map (·.1) then some n else tget s.spool j) ∧
      ∀ c, spillCopies u n ((streamGet s n).spilled.map fun p => (p.2, spoolAddr s p.1)) = .ok c →
        exec (.spillRestore n) s = .next c) ∧
  (∀ (h : Nat) (s : State), h < 2 →
    ((∀ e ∈ s.parts, e.2.half = h → e.2.stream = 0) →
      (spoolUnits s h = 0 → s.leekUp[h]? = some true →
        ∃ t, exec (.leekHalfPowerDown h) s = .next t ∧ t.leekUp[h]? = some false ∧ powered t (9 + h) = false ∧
          (∀ d, d < 32 → d ≠ 9 + h → powered t d = powered s d) ∧ regsKept s t [0xD000020, 0x2000100] ∧
          f (regGet t 0x2000100) (8 + 16 * h) (16 * h) = 0 ∧
          (∀ a, memGet t.mem a = if region a = .leek h then 0 else memGet s.mem a) ∧
          t = { s with leekUp := t.leekUp, mem := t.mem, poison := t.poison, regs := t.regs }) ∧
      (spoolUnits s h ≠ 0 →
        ∃ t, exec (.leekHalfPowerDown h) s = .next t ∧ logged t 0x0108 h ∧
          t = { s with log := t.log, logHead := t.logHead })) ∧
    (∀ e ∈ s.parts, e.2.half = h → e.2.stream ≠ 0 →
      ∃ t, exec (.leekHalfPowerDown h) s = .next t ∧ logged t 0x0108 (h + 2 ^ 8) ∧
        t = { s with log := t.log, logHead := t.logHead }))

/-- A core's store writes exactly its bytes, its load reads them, and its atomic OR or addition answers the old value and leaves
the new one (02 R32, 05 R168); an access that reaches a byte which nothing answers, or an uncorrectable unit, gets an error
response and changes nothing else in memory (02 R35, 10 R344); one to the register region is an access to a register, which takes
no atomics (the model's choice, log entry 93); cores held in reset do nothing (09 R317). Completes: CORE_MEMORY_ACCESS. -/
def Obligations.CoresReachMemoryAndRegisters : Prop :=
  (∀ (x : CoreAccess) (e : MemErrs) (s : State), s.boot.cores = false → exec (.coreMemoryAccess x e) s = .next s) ∧
  (∀ (a : Nat) (b : List Byte) (e : MemErrs) (s : State), s.boot.cores = true → regOffset a = none → Memory.wf s.mem = true →
    (coreReach s a b.length = true → poisonPartial s a b.length = none →
      ∃ t, exec (.coreMemoryAccess (.store a b) e) s = .next t ∧ memGetN t.mem a b.length = b ∧
        bytesKeptOutside s t a b.length ∧
        t = { s with mem := t.mem, poison := t.poison, ddr := { s.ddr with touched := t.ddr.touched }, resp := ⟨0, false⟩ }) ∧
    (coreReach s a b.length = false ∨ (poisonPartial s a b.length).isSome = true →
      exec (.coreMemoryAccess (.store a b) e) s = .next { s with resp := ⟨0, true⟩ })) ∧
  (∀ (a n : Nat) (e : MemErrs) (u s : State), s.boot.cores = true → regOffset a = none → u = memErrors s e false →
    (coreReach s a n = true →
      ∃ t, exec (.coreMemoryAccess (.load a n) e) s = .next t ∧
        t.resp = (if (poisonIn u a n).isSome then ⟨0, true⟩ else ⟨leNat (memGetN s.mem a n), false⟩) ∧
        t = { u with ddr := { u.ddr with touched := t.ddr.touched }, resp := t.resp }) ∧
    (coreReach s a n = false → exec (.coreMemoryAccess (.load a n) e) s = .next { s with resp := ⟨0, true⟩ })) ∧
  (∀ (a v : Nat) (b : List Byte) (c : CoreAccess) (s : State), s.boot.cores = true → regOffset a = none → Memory.wf s.mem = true →
    (c = .atomicOr a b ∧ v = leNat (memGetN s.mem a b.length) ||| leNat b) ∨
      (c = .atomicAdd a b ∧ v = (leNat (memGetN s.mem a b.length) + leNat b) % 2 ^ (8 * b.length)) →
    (coreReach s a b.length = true → poisonIn s a b.length = none →
      ∃ t, exec (.coreMemoryAccess c ⟨[], [], 0⟩) s = .next t ∧ leNat (memGetN t.mem a b.length) = v ∧
        bytesKeptOutside s t a b.length ∧
        t = { s with mem := t.mem, poison := t.poison, ddr := { s.ddr with touched := t.ddr.touched }, resp := ⟨leNat (memGetN s.mem a b.length), false⟩ }) ∧
    (coreReach s a b.length = false →
      exec (.coreMemoryAccess c ⟨[], [], 0⟩) s = .next { s with resp := ⟨0, true⟩ })) ∧
  (∀ (a n : Nat) (b : List Byte) (e : MemErrs) (s : State), s.boot.cores = true → (regOffset a).isSome = true →
    exec (.coreMemoryAccess (.load a n) e) s = exec (.loReadCapture .core a n) s ∧
    exec (.coreMemoryAccess (.store a b) e) s = exec (.registerWrite .core a b.length (BitVec.ofNat 32 (leNat b))) s ∧
    exec (.coreMemoryAccess (.atomicOr a b) e) s = .next { s with resp := ⟨0, true⟩ } ∧
    exec (.coreMemoryAccess (.atomicAdd a b) e) s = .next { s with resp := ⟨0, true⟩ })

/-- A started ADMIT whose request cannot be read, or is malformed, completes with its error. Where the request is granted and well
formed, the result record is written, the outcome is logged and the descriptor completes with it (05 R170 to R178); where the
request does not fit, is refused, or asks only for the verdict, nothing else is reserved or changed; where it fits, the stream is
admitted with the cost of the variant taken, and no other stream changes; where the Supervisor disagrees with the result, none
takes effect (14 R459). Completes: ADMIT. -/
def Obligations.AdmissionIsAllOrNothing : Prop :=
  ∀ (wid : Nat) (w : Work) (agree : Bool) (scheds : List Sched) (e : MemErrs) (s0 s : State),
    startedAs s0 wid 0x03 = some w → s = applyErrs s0 w.stream e →
    (∀ m, devRead s (readBy 0 wid) (leAt w.desc 8 8) 64 = .error m →
      exec (.admit_ wid ⟨agree, scheds, e⟩) s0 = .next (completeErr (noteStop s 0 m) wid 0x08)) ∧
    (∀ b c, devRead s (readBy 0 wid) (leAt w.desc 8 8) 64 = .ok b → requestErr b w.stream = some c →
      exec (.admit_ wid ⟨agree, scheds, e⟩) s0 = .next (completeErr s wid c)) ∧
    (∀ b q m, devRead s (readBy 0 wid) (leAt w.desc 8 8) 64 = .ok b → requestErr b w.stream = none → q = decRequest b →
      checkRange s (writeBy 0 wid) q.result 128 = some m ∨
        (checkRange s (writeBy 0 wid) q.result 128 = none ∧ readPackage s wid q = .error m) →
      exec (.admit_ wid ⟨agree, scheds, e⟩) s0 = .next (completeErr (noteStop s 0 m) wid 0x08)) ∧
    (∀ b r q pkg stop vd u, devRead s (readBy 0 wid) (leAt w.desc 8 8) 64 = .ok b → requestErr b w.stream = none →
      q = decRequest b → checkRange s (writeBy 0 wid) q.result 128 = none → readPackage s wid q = .ok (pkg, stop) →
      u = noteStopOf s 0 stop → decideRequest u q pkg = vd → Memory.wf s.mem = true →
      (agree = true → (∀ v c, vd = .fits v c → q.dry = true) → r = resultBytes u u q vd → r.length = 128 →
        poisonPartial s q.result 128 = none →
        ∃ t, exec (.admit_ wid ⟨agree, scheds, e⟩) s0 = .next (complete t wid 0 (leAt r 0 1 + 2 ^ 8 * leAt r 1 1)) ∧
          memGetN t.mem q.result 128 = r ∧ bytesKeptOutside s t q.result 128 ∧
          logged t 0x0403 (q.stream + 2 ^ 8 * leAt r 0 1 + 2 ^ 16 * leAt r 1 1 + 2 ^ 24 * leAt r 2 1) ∧
          t = { u with mem := t.mem, poison := t.poison, ddr := { u.ddr with touched := t.ddr.touched }, log := t.log, logHead := t.logHead }) ∧
      (∀ v c x y, agree = true → vd = .fits v c → q.dry = false → x = reserve u q v c (w.pair.getD 0) →
        y = holdUnits x q.stream (scheds.getD v Sched.none) →
        (∃ t, devWrite y (writeBy 0 wid) q.result (resultBytes u y q vd) = .ok t) →
        ∃ t d, exec (.admit_ wid ⟨agree, scheds, e⟩) s0 = .next (complete t wid 0 d) ∧
          streamGet t q.stream = { streamGet x q.stream with sched := some (scheds.getD v Sched.none) } ∧
          (streamGet t q.stream).state = .admitted ∧ (streamGet t q.stream).cost = c ∧
          (streamGet t q.stream).variant = v ∧ (streamGet t q.stream).order = s.admitSeq ∧
          (streamGet t q.stream).cls = q.cls ∧ t.admitSeq = s.admitSeq + 1 ∧ streamsKept s t q.stream) ∧
      (agree = false → exec (.admit_ wid ⟨agree, scheds, e⟩) s0 = .next (decisionMismatch u 1)))

/-- A step with a command waiting takes that one command from the queue and no other, and adds none: no command's effect
reaches the queue. -/
def Obligations.EveryStepTakesOneCommand : Prop :=
  ∀ (c : Instr) (rest : List Instr) (s t : State), s.pending = c :: rest → step s = .next t → t.pending = rest

/-- Every step, of any command from any sound state, leaves a sound state: memory in its canonical form, a log of at
most its 16,384 entries (14 R465), its count within 32 bits. -/
def Obligations.EveryStepKeepsMemoryAndLogSound : Prop :=
  ∀ s t : State, soundState s → step s = .next t → soundState t

/-- What reset leaves (00 R19, 13 R415, 14 R465): a sound state with an empty queue and log, every register at the reset
value of its table, the start not begun and no stream admitted. That memory reads 0 is the model's choice (log entry 2). -/
def Obligations.ResetLeavesASoundEmptyState : Prop :=
  soundState State.reset ∧ State.reset.pending = [] ∧ State.reset.log = [] ∧ State.reset.logHead = 0 ∧
    (∀ a, regGet State.reset a = (regReset a).toNat) ∧ (∀ a, memGet State.reset.mem a = 0) ∧ State.reset.boot.step = 0 ∧
    State.reset.streams = [] ∧ State.reset.wins = [] ∧ State.reset.works = [] ∧ State.reset.pairs = [] ∧
    State.reset.sec.keyReady = false ∧ (∀ d, d < 32 → powered State.reset d = (d == 0))

/-- Every command has an effect in every state: only a supply beyond the absolute limits of 16 R512 does not, and no
command is refused. -/
def Obligations.EveryCommandAnswers : Prop :=
  ∀ (c : Instr) (s : State), (∀ r uv, c = .supplyFault r uv → r ≤ 10 → uv ≤ railMax r ∧ -300000 ≤ uv) → ∃ t, exec c s = .next t

/-- 04 R120, R122: for any weights and any patches, of any number of channels, the WINO3 form of a tile gives exactly the
sums of products of the direct 3x3 form: no bit is lost in its transforms or its division by four. -/
def Obligations.WinogradTilesEqualTheDirectForm : Prop :=
  ∀ chans : List ((Nat → Nat → Int) × (Nat → Nat → Int)),
    winoTile (chans.map fun c => (grid 3 3 c.1, grid 4 4 c.2)) =
      grid 2 2 fun i j => (chans.map fun c => ((List.range 3).map fun y => ((List.range 3).map fun x =>
        c.1 y x * c.2 (i + y) (j + x)).sum).sum).sum

/-- 02 R31, 10 R342: the bank of a Leek address is half × 32 + bits [16:12], so that consecutive blocks of 4 KiB of a half
lie in consecutive banks; and no two blocks of LPDDR memory share a byte of their channel, with data or with check
bytes. -/
def Obligations.MemoryBlocksHaveTheirOwnPlaces : Prop :=
  (∀ a h : Nat, region a = .leek h → leekBank a = h * 32 + a / 4096 % 32) ∧
  (∀ a h : Nat, region a = .leek h → region (a + 4096) = .leek h → leekBank (a + 4096) = h * 32 + (a / 4096 + 1) % 32) ∧
  (∀ a b : Nat, a / 64 ≠ b / 64 → ddrChannel a = ddrChannel b →
    ((ddrPlace a).1 + 64 ≤ (ddrPlace b).1 ∨ (ddrPlace b).1 + 64 ≤ (ddrPlace a).1) ∧
    ((ddrPlace a).2 + 8 ≤ (ddrPlace b).2 ∨ (ddrPlace b).2 + 8 ≤ (ddrPlace a).2)) ∧
  (∀ a b : Nat, (ddrPlace a).1 + 64 ≤ (ddrPlace b).2 ∨ (ddrPlace b).2 + 8 ≤ (ddrPlace a).1) ∧
  ddrChannel 0x12340 = 13 ∧ ddrPlace 0x12340 = (0x1400, 0x1780)

/-- 03 R77, 00 R21: a group's total is aligned by sh = e_w + e_a − e_ref: shifted left exactly, or right to the nearest
value, a tie to the even one. -/
def Obligations.AlignmentRoundsToNearestEven : Prop :=
  (∀ (eref ew ea zA zB : Int) (av wv : List Int) (sa sb : Int), (mkRed eref ea ew zA zB av wv sa sb).sh = ew + ea - eref) ∧
  (∀ total sh : Int, 0 ≤ sh → alignTotal total sh = total * 2 ^ sh.toNat) ∧
  (∀ (total : Int) (k : Nat), 0 < k →
    2 * (alignTotal total (-(k : Int)) * 2 ^ k - total).natAbs ≤ 2 ^ k ∧
    (2 * (alignTotal total (-(k : Int)) * 2 ^ k - total).natAbs = 2 ^ k → alignTotal total (-(k : Int)) % 2 = 0))
end

