-- ==== Sys2Proof/Laws/Memory.lean ====
section
/-! SUPPORT. Laws of memory: read after write, what a write leaves alone, and the canonical form. -/
namespace Sys2Proof.Machine

/-! ### One byte -/

theorem memGet_cellSet (m : List Host.Cell) (a x : Nat) (b : Byte) :
    memGet (cellSet m a b) x = if x = a then b else memGet m x := by
  induction m with
  | nil => simp [cellSet, memGet, eq_comm]
  | cons e t ih =>
    obtain ⟨k, v⟩ := e
    simp only [cellSet]
    by_cases h1 : a < k
    · by_cases h : x = a
      · simp [h1, memGet, h]
      · simp [h1, memGet, h, Ne.symm h]
    · by_cases h2 : k = a
      · subst h2
        by_cases h : x = k
        · simp [memGet, h]
        · simp [memGet, h, Ne.symm h]
      · simp only [h1, h2, if_false, memGet, ih]
        by_cases h : x = a
        · simp [h, h2]
        · simp [h]

theorem memGet_cellDel_other (m : List Host.Cell) {a x : Nat} (h : x ≠ a) : memGet (cellDel m a) x = memGet m x := by
  induction m with
  | nil => rfl
  | cons e t ih =>
    obtain ⟨k, v⟩ := e
    simp only [cellDel]
    by_cases h2 : k = a
    · subst h2; simp [memGet, Ne.symm h]
    · simp [h2, memGet, ih]

/-- Writing a byte leaves every other byte. -/
theorem memGet_memPut_other (m : List Host.Cell) {a x : Nat} (b : Byte) (h : x ≠ a) :
    memGet (memPut m a b) x = memGet m x := by
  unfold memPut
  split
  · exact memGet_cellDel_other m h
  · simp [memGet_cellSet, h]

theorem memGet_above {k : Nat} {m : List Host.Cell} (h : cellsAbove k m = true) : memGet m k = 0 := by
  induction m with
  | nil => rfl
  | cons e t ih =>
    obtain ⟨j, v⟩ := e
    simp only [cellsAbove, List.all_cons, Bool.and_eq_true, decide_eq_true_eq] at h
    have : j ≠ k := Nat.ne_of_gt h.1
    simp [memGet, this, ih h.2]

theorem cellsAbove_mono {j k : Nat} {m : List Host.Cell} (h : cellsAbove k m = true) (hj : j ≤ k) :
    cellsAbove j m = true := by
  simp only [cellsAbove, List.all_eq_true, decide_eq_true_eq] at *
  intro e he
  exact Nat.lt_of_le_of_lt hj (h e he)

theorem memGet_cellDel_same {m : List Host.Cell} (a : Nat) (h : Memory.wf m = true) : memGet (cellDel m a) a = 0 := by
  induction m with
  | nil => rfl
  | cons e t ih =>
    obtain ⟨k, v⟩ := e
    simp only [Memory.wf, Bool.and_eq_true] at h
    simp only [cellDel]
    by_cases h2 : k = a
    · subst h2; simp [memGet_above h.1.2]
    · simp [h2, memGet, ih h.2]

/-- A written byte is read back. -/
theorem memGet_memPut_same {m : List Host.Cell} (a : Nat) (b : Byte) (h : Memory.wf m = true) :
    memGet (memPut m a b) a = b := by
  unfold memPut
  split
  · rename_i hb; rw [memGet_cellDel_same a h, hb]
  · simp [memGet_cellSet]

/-! ### The canonical form -/

theorem cellsAbove_cellSet {j : Nat} {m : List Host.Cell} {a : Nat} {b : Byte} (h : cellsAbove j m = true)
    (ha : j < a) : cellsAbove j (cellSet m a b) = true := by
  induction m with
  | nil => simp [cellSet, cellsAbove, ha]
  | cons e t ih =>
    obtain ⟨k, v⟩ := e
    have hk : j < k ∧ cellsAbove j t = true := by simpa [cellsAbove] using h
    simp only [cellSet]
    split
    · simp only [cellsAbove, List.all_cons, Bool.and_eq_true, decide_eq_true_eq]
      exact ⟨ha, hk.1, hk.2⟩
    · split
      · simp only [cellsAbove, List.all_cons, Bool.and_eq_true, decide_eq_true_eq]
        exact ⟨ha, hk.2⟩
      · simp only [cellsAbove, List.all_cons, Bool.and_eq_true, decide_eq_true_eq]
        exact ⟨hk.1, ih hk.2⟩

theorem wf_cellSet {m : List Host.Cell} {a : Nat} {b : Byte} (h : Memory.wf m = true) (hb : b ≠ 0) :
    Memory.wf (cellSet m a b) = true := by
  induction m with
  | nil => simpa [cellSet, Memory.wf, cellsAbove] using hb
  | cons e t ih =>
    obtain ⟨k, v⟩ := e
    simp only [Memory.wf, Bool.and_eq_true, decide_eq_true_eq] at h
    obtain ⟨⟨hv, hk⟩, ht⟩ := h
    simp only [cellSet]
    split
    · rename_i hlt
      simp only [Memory.wf, Bool.and_eq_true, decide_eq_true_eq]
      refine ⟨⟨hb, ?_⟩, ⟨hv, hk⟩, ht⟩
      simp only [cellsAbove, List.all_cons, Bool.and_eq_true, decide_eq_true_eq]
      exact ⟨hlt, cellsAbove_mono hk (Nat.le_of_lt hlt)⟩
    · split
      · rename_i _ he
        subst he
        simp only [Memory.wf, Bool.and_eq_true, decide_eq_true_eq]
        exact ⟨⟨hb, hk⟩, ht⟩
      · simp only [Memory.wf, Bool.and_eq_true, decide_eq_true_eq]
        refine ⟨⟨hv, cellsAbove_cellSet hk ?_⟩, ih ht⟩
        omega

theorem cellsAbove_cellDel {j : Nat} {m : List Host.Cell} {a : Nat} (h : cellsAbove j m = true) :
    cellsAbove j (cellDel m a) = true := by
  induction m with
  | nil => rfl
  | cons e t ih =>
    obtain ⟨k, v⟩ := e
    simp only [cellsAbove, List.all_cons, Bool.and_eq_true, decide_eq_true_eq] at h
    simp only [cellDel]
    split
    · exact h.2
    · simp only [cellsAbove, List.all_cons, Bool.and_eq_true, decide_eq_true_eq]
      exact ⟨h.1, ih h.2⟩

theorem wf_cellDel {m : List Host.Cell} (a : Nat) (h : Memory.wf m = true) : Memory.wf (cellDel m a) = true := by
  induction m with
  | nil => rfl
  | cons e t ih =>
    obtain ⟨k, v⟩ := e
    simp only [Memory.wf, Bool.and_eq_true] at h
    simp only [cellDel]
    split
    · exact h.2
    · simp only [Memory.wf, Bool.and_eq_true]
      exact ⟨⟨h.1.1, cellsAbove_cellDel h.1.2⟩, ih h.2⟩

/-- A write of one byte keeps the canonical form. -/
theorem wf_memPut {m : List Host.Cell} (a : Nat) (b : Byte) (h : Memory.wf m = true) : Memory.wf (memPut m a b) = true := by
  unfold memPut
  split
  · exact wf_cellDel a h
  · exact wf_cellSet h ‹_›

/-- A write of bytes keeps the canonical form. -/
theorem wf_memPutN {m : List Host.Cell} (a : Nat) (b : List Byte) (h : Memory.wf m = true) :
    Memory.wf (memPutN m a b) = true := by
  induction b generalizing m a with
  | nil => exact h
  | cons x xs ih => exact ih _ (wf_memPut a x h)

/-- Losing contents keeps the canonical form. -/
theorem wf_memLose {m : List Host.Cell} (p : Nat → Bool) (h : Memory.wf m = true) : Memory.wf (memLose m p) = true := by
  induction m with
  | nil => rfl
  | cons e t ih =>
    obtain ⟨k, v⟩ := e
    simp only [Memory.wf, Bool.and_eq_true, decide_eq_true_eq] at h
    obtain ⟨⟨hv, hk⟩, ht⟩ := h
    have := ih ht
    simp only [memLose, List.filter_cons] at *
    split
    · simp only [Memory.wf, Bool.and_eq_true, decide_eq_true_eq]
      refine ⟨⟨hv, ?_⟩, this⟩
      simp only [cellsAbove, List.all_eq_true, decide_eq_true_eq, List.mem_filter] at *
      exact fun e he => hk e he.1
    · exact this

/-! ### Runs of bytes -/

/-- A write of bytes leaves every byte outside them. -/
theorem memGet_memPutN_other {m : List Host.Cell} {a x : Nat} (b : List Byte) (h : x < a ∨ a + b.length ≤ x) :
    memGet (memPutN m a b) x = memGet m x := by
  induction b generalizing m a with
  | nil => rfl
  | cons y ys ih =>
    simp only [memPutN, List.length_cons] at *
    rw [ih (by omega), memGet_memPut_other _ _ (by omega)]

/-- The bytes written are read back. -/
theorem memGet_memPutN_in {m : List Host.Cell} (a : Nat) (b : List Byte) (h : Memory.wf m = true) (i : Nat)
    (hi : i < b.length) : memGet (memPutN m a b) (a + i) = b[i] := by
  induction b generalizing m a i with
  | nil => simp at hi
  | cons y ys ih =>
    simp only [memPutN]
    cases i with
    | zero =>
      simp only [Nat.add_zero]
      rw [memGet_memPutN_other ys (by omega), memGet_memPut_same a y h]; rfl
    | succ i =>
      have := ih (a := a + 1) (i := i) (wf_memPut a y h) (by simpa using hi)
      simpa [Nat.add_assoc, Nat.add_comm 1 i] using this

/-- A run of bytes written is read back whole. -/
theorem memGetN_memPutN {m : List Host.Cell} (a : Nat) (b : List Byte) (h : Memory.wf m = true) :
    memGetN (memPutN m a b) a b.length = b := by
  apply List.ext_getElem
  · simp [memGetN]
  · intro i h1 h2
    simp [memGetN, memGet_memPutN_in a b h i h2]

/-- A run that does not meet the bytes written reads as before. -/
theorem memGetN_memPutN_other {m : List Host.Cell} {a x n : Nat} (b : List Byte) (h : x + n ≤ a ∨ a + b.length ≤ x) :
    memGetN (memPutN m a b) x n = memGetN m x n := by
  apply List.map_congr_left
  intro i hi
  have := List.mem_range.1 hi
  exact memGet_memPutN_other b (by omega)

end Sys2Proof.Machine
end

