-- ==== Sys2Proof/Laws/State.lean ====
section
/-! SUPPORT. What each shared update leaves: one lemma for each field of the state that it does not touch, and the field
that it does. -/
namespace Sys2Proof.Machine

@[simp] theorem regPut_pending (s : State) (a v : Nat) : (regPut s a v).pending = s.pending := rfl
@[simp] theorem regPut_time (s : State) (a v : Nat) : (regPut s a v).time = s.time := rfl
@[simp] theorem regPut_elapsed (s : State) (a v : Nat) : (regPut s a v).elapsed = s.elapsed := rfl
@[simp] theorem regPut_held (s : State) (a v : Nat) : (regPut s a v).held = s.held := rfl
@[simp] theorem regPut_capture (s : State) (a v : Nat) : (regPut s a v).capture = s.capture := rfl
@[simp] theorem regPut_shadow (s : State) (a v : Nat) : (regPut s a v).shadow = s.shadow := rfl
@[simp] theorem regPut_resp (s : State) (a v : Nat) : (regPut s a v).resp = s.resp := rfl
@[simp] theorem regPut_mem (s : State) (a v : Nat) : (regPut s a v).mem = s.mem := rfl
@[simp] theorem regPut_poison (s : State) (a v : Nat) : (regPut s a v).poison = s.poison := rfl
@[simp] theorem regPut_log (s : State) (a v : Nat) : (regPut s a v).log = s.log := rfl
@[simp] theorem regPut_logHead (s : State) (a v : Nat) : (regPut s a v).logHead = s.logHead := rfl
@[simp] theorem regPut_wins (s : State) (a v : Nat) : (regPut s a v).wins = s.wins := rfl
@[simp] theorem regPut_resident (s : State) (a v : Nat) : (regPut s a v).resident = s.resident := rfl
@[simp] theorem regPut_pools (s : State) (a v : Nat) : (regPut s a v).pools = s.pools := rfl
@[simp] theorem regPut_parts (s : State) (a v : Nat) : (regPut s a v).parts = s.parts := rfl
@[simp] theorem regPut_leekUp (s : State) (a v : Nat) : (regPut s a v).leekUp = s.leekUp := rfl
@[simp] theorem regPut_streams (s : State) (a v : Nat) : (regPut s a v).streams = s.streams := rfl
@[simp] theorem regPut_admitSeq (s : State) (a v : Nat) : (regPut s a v).admitSeq = s.admitSeq := rfl
@[simp] theorem regPut_spool (s : State) (a v : Nat) : (regPut s a v).spool = s.spool := rfl
@[simp] theorem regPut_pairs (s : State) (a v : Nat) : (regPut s a v).pairs = s.pairs := rfl
@[simp] theorem regPut_lastPair (s : State) (a v : Nat) : (regPut s a v).lastPair = s.lastPair := rfl
@[simp] theorem regPut_works (s : State) (a v : Nat) : (regPut s a v).works = s.works := rfl
@[simp] theorem regPut_nextWid (s : State) (a v : Nat) : (regPut s a v).nextWid = s.nextWid := rfl
@[simp] theorem regPut_slots (s : State) (a v : Nat) : (regPut s a v).slots = s.slots := rfl
@[simp] theorem regPut_staging (s : State) (a v : Nat) : (regPut s a v).staging = s.staging := rfl
@[simp] theorem regPut_shedAt (s : State) (a v : Nat) : (regPut s a v).shedAt = s.shedAt := rfl
@[simp] theorem regPut_restoredAt (s : State) (a v : Nat) : (regPut s a v).restoredAt = s.restoredAt := rfl
@[simp] theorem regPut_hold3 (s : State) (a v : Nat) : (regPut s a v).hold3 = s.hold3 := rfl
@[simp] theorem regPut_endedOps (s : State) (a v : Nat) : (regPut s a v).endedOps = s.endedOps := rfl
@[simp] theorem regPut_cams (s : State) (a v : Nat) : (regPut s a v).cams = s.cams := rfl
@[simp] theorem regPut_encs (s : State) (a v : Nat) : (regPut s a v).encs = s.encs := rfl
@[simp] theorem regPut_odo (s : State) (a v : Nat) : (regPut s a v).odo = s.odo := rfl
@[simp] theorem regPut_chans (s : State) (a v : Nat) : (regPut s a v).chans = s.chans := rfl
@[simp] theorem regPut_groups (s : State) (a v : Nat) : (regPut s a v).groups = s.groups := rfl
@[simp] theorem regPut_trackSerial (s : State) (a v : Nat) : (regPut s a v).trackSerial = s.trackSerial := rfl
@[simp] theorem regPut_disps (s : State) (a v : Nat) : (regPut s a v).disps = s.disps := rfl
@[simp] theorem regPut_fab (s : State) (a v : Nat) : (regPut s a v).fab = s.fab := rfl
@[simp] theorem regPut_boot (s : State) (a v : Nat) : (regPut s a v).boot = s.boot := rfl
@[simp] theorem regPut_pods (s : State) (a v : Nat) : (regPut s a v).pods = s.pods := rfl
@[simp] theorem regPut_pins (s : State) (a v : Nat) : (regPut s a v).pins = s.pins := rfl
@[simp] theorem regPut_power (s : State) (a v : Nat) : (regPut s a v).power = s.power := rfl
@[simp] theorem regPut_cons (s : State) (a v : Nat) : (regPut s a v).cons = s.cons := rfl
@[simp] theorem regPut_snap (s : State) (a v : Nat) : (regPut s a v).snap = s.snap := rfl
@[simp] theorem regPut_tokens (s : State) (a v : Nat) : (regPut s a v).tokens = s.tokens := rfl
@[simp] theorem regPut_sec (s : State) (a v : Nat) : (regPut s a v).sec = s.sec := rfl
@[simp] theorem regPut_rrp (s : State) (a v : Nat) : (regPut s a v).rrp = s.rrp := rfl
@[simp] theorem regPut_eth (s : State) (a v : Nat) : (regPut s a v).eth = s.eth := rfl
@[simp] theorem regPut_ddr (s : State) (a v : Nat) : (regPut s a v).ddr = s.ddr := rfl
@[simp] theorem regPut_out (s : State) (a v : Nat) : (regPut s a v).out = s.out := rfl
@[simp] theorem regPut_freeNo (s : State) (a v : Nat) : (regPut s a v).freeNo = s.freeNo := rfl

@[simp] theorem regPut64_pending (s : State) (a v : Nat) : (regPut64 s a v).pending = s.pending := rfl
@[simp] theorem regPut64_time (s : State) (a v : Nat) : (regPut64 s a v).time = s.time := rfl
@[simp] theorem regPut64_elapsed (s : State) (a v : Nat) : (regPut64 s a v).elapsed = s.elapsed := rfl
@[simp] theorem regPut64_held (s : State) (a v : Nat) : (regPut64 s a v).held = s.held := rfl
@[simp] theorem regPut64_capture (s : State) (a v : Nat) : (regPut64 s a v).capture = s.capture := rfl
@[simp] theorem regPut64_shadow (s : State) (a v : Nat) : (regPut64 s a v).shadow = s.shadow := rfl
@[simp] theorem regPut64_resp (s : State) (a v : Nat) : (regPut64 s a v).resp = s.resp := rfl
@[simp] theorem regPut64_mem (s : State) (a v : Nat) : (regPut64 s a v).mem = s.mem := rfl
@[simp] theorem regPut64_poison (s : State) (a v : Nat) : (regPut64 s a v).poison = s.poison := rfl
@[simp] theorem regPut64_log (s : State) (a v : Nat) : (regPut64 s a v).log = s.log := rfl
@[simp] theorem regPut64_logHead (s : State) (a v : Nat) : (regPut64 s a v).logHead = s.logHead := rfl
@[simp] theorem regPut64_wins (s : State) (a v : Nat) : (regPut64 s a v).wins = s.wins := rfl
@[simp] theorem regPut64_resident (s : State) (a v : Nat) : (regPut64 s a v).resident = s.resident := rfl
@[simp] theorem regPut64_pools (s : State) (a v : Nat) : (regPut64 s a v).pools = s.pools := rfl
@[simp] theorem regPut64_parts (s : State) (a v : Nat) : (regPut64 s a v).parts = s.parts := rfl
@[simp] theorem regPut64_leekUp (s : State) (a v : Nat) : (regPut64 s a v).leekUp = s.leekUp := rfl
@[simp] theorem regPut64_streams (s : State) (a v : Nat) : (regPut64 s a v).streams = s.streams := rfl
@[simp] theorem regPut64_admitSeq (s : State) (a v : Nat) : (regPut64 s a v).admitSeq = s.admitSeq := rfl
@[simp] theorem regPut64_spool (s : State) (a v : Nat) : (regPut64 s a v).spool = s.spool := rfl
@[simp] theorem regPut64_pairs (s : State) (a v : Nat) : (regPut64 s a v).pairs = s.pairs := rfl
@[simp] theorem regPut64_lastPair (s : State) (a v : Nat) : (regPut64 s a v).lastPair = s.lastPair := rfl
@[simp] theorem regPut64_works (s : State) (a v : Nat) : (regPut64 s a v).works = s.works := rfl
@[simp] theorem regPut64_nextWid (s : State) (a v : Nat) : (regPut64 s a v).nextWid = s.nextWid := rfl
@[simp] theorem regPut64_slots (s : State) (a v : Nat) : (regPut64 s a v).slots = s.slots := rfl
@[simp] theorem regPut64_staging (s : State) (a v : Nat) : (regPut64 s a v).staging = s.staging := rfl
@[simp] theorem regPut64_shedAt (s : State) (a v : Nat) : (regPut64 s a v).shedAt = s.shedAt := rfl
@[simp] theorem regPut64_restoredAt (s : State) (a v : Nat) : (regPut64 s a v).restoredAt = s.restoredAt := rfl
@[simp] theorem regPut64_hold3 (s : State) (a v : Nat) : (regPut64 s a v).hold3 = s.hold3 := rfl
@[simp] theorem regPut64_endedOps (s : State) (a v : Nat) : (regPut64 s a v).endedOps = s.endedOps := rfl
@[simp] theorem regPut64_cams (s : State) (a v : Nat) : (regPut64 s a v).cams = s.cams := rfl
@[simp] theorem regPut64_encs (s : State) (a v : Nat) : (regPut64 s a v).encs = s.encs := rfl
@[simp] theorem regPut64_odo (s : State) (a v : Nat) : (regPut64 s a v).odo = s.odo := rfl
@[simp] theorem regPut64_chans (s : State) (a v : Nat) : (regPut64 s a v).chans = s.chans := rfl
@[simp] theorem regPut64_groups (s : State) (a v : Nat) : (regPut64 s a v).groups = s.groups := rfl
@[simp] theorem regPut64_trackSerial (s : State) (a v : Nat) : (regPut64 s a v).trackSerial = s.trackSerial := rfl
@[simp] theorem regPut64_disps (s : State) (a v : Nat) : (regPut64 s a v).disps = s.disps := rfl
@[simp] theorem regPut64_fab (s : State) (a v : Nat) : (regPut64 s a v).fab = s.fab := rfl
@[simp] theorem regPut64_boot (s : State) (a v : Nat) : (regPut64 s a v).boot = s.boot := rfl
@[simp] theorem regPut64_pods (s : State) (a v : Nat) : (regPut64 s a v).pods = s.pods := rfl
@[simp] theorem regPut64_pins (s : State) (a v : Nat) : (regPut64 s a v).pins = s.pins := rfl
@[simp] theorem regPut64_power (s : State) (a v : Nat) : (regPut64 s a v).power = s.power := rfl
@[simp] theorem regPut64_cons (s : State) (a v : Nat) : (regPut64 s a v).cons = s.cons := rfl
@[simp] theorem regPut64_snap (s : State) (a v : Nat) : (regPut64 s a v).snap = s.snap := rfl
@[simp] theorem regPut64_tokens (s : State) (a v : Nat) : (regPut64 s a v).tokens = s.tokens := rfl
@[simp] theorem regPut64_sec (s : State) (a v : Nat) : (regPut64 s a v).sec = s.sec := rfl
@[simp] theorem regPut64_rrp (s : State) (a v : Nat) : (regPut64 s a v).rrp = s.rrp := rfl
@[simp] theorem regPut64_eth (s : State) (a v : Nat) : (regPut64 s a v).eth = s.eth := rfl
@[simp] theorem regPut64_ddr (s : State) (a v : Nat) : (regPut64 s a v).ddr = s.ddr := rfl
@[simp] theorem regPut64_out (s : State) (a v : Nat) : (regPut64 s a v).out = s.out := rfl
@[simp] theorem regPut64_freeNo (s : State) (a v : Nat) : (regPut64 s a v).freeNo = s.freeNo := rfl

@[simp] theorem regSetF_pending (s : State) (a hi lo x : Nat) : (regSetF s a hi lo x).pending = s.pending := rfl
@[simp] theorem regSetF_time (s : State) (a hi lo x : Nat) : (regSetF s a hi lo x).time = s.time := rfl
@[simp] theorem regSetF_elapsed (s : State) (a hi lo x : Nat) : (regSetF s a hi lo x).elapsed = s.elapsed := rfl
@[simp] theorem regSetF_held (s : State) (a hi lo x : Nat) : (regSetF s a hi lo x).held = s.held := rfl
@[simp] theorem regSetF_capture (s : State) (a hi lo x : Nat) : (regSetF s a hi lo x).capture = s.capture := rfl
@[simp] theorem regSetF_shadow (s : State) (a hi lo x : Nat) : (regSetF s a hi lo x).shadow = s.shadow := rfl
@[simp] theorem regSetF_resp (s : State) (a hi lo x : Nat) : (regSetF s a hi lo x).resp = s.resp := rfl
@[simp] theorem regSetF_mem (s : State) (a hi lo x : Nat) : (regSetF s a hi lo x).mem = s.mem := rfl
@[simp] theorem regSetF_poison (s : State) (a hi lo x : Nat) : (regSetF s a hi lo x).poison = s.poison := rfl
@[simp] theorem regSetF_log (s : State) (a hi lo x : Nat) : (regSetF s a hi lo x).log = s.log := rfl
@[simp] theorem regSetF_logHead (s : State) (a hi lo x : Nat) : (regSetF s a hi lo x).logHead = s.logHead := rfl
@[simp] theorem regSetF_wins (s : State) (a hi lo x : Nat) : (regSetF s a hi lo x).wins = s.wins := rfl
@[simp] theorem regSetF_resident (s : State) (a hi lo x : Nat) : (regSetF s a hi lo x).resident = s.resident := rfl
@[simp] theorem regSetF_pools (s : State) (a hi lo x : Nat) : (regSetF s a hi lo x).pools = s.pools := rfl
@[simp] theorem regSetF_parts (s : State) (a hi lo x : Nat) : (regSetF s a hi lo x).parts = s.parts := rfl
@[simp] theorem regSetF_leekUp (s : State) (a hi lo x : Nat) : (regSetF s a hi lo x).leekUp = s.leekUp := rfl
@[simp] theorem regSetF_streams (s : State) (a hi lo x : Nat) : (regSetF s a hi lo x).streams = s.streams := rfl
@[simp] theorem regSetF_admitSeq (s : State) (a hi lo x : Nat) : (regSetF s a hi lo x).admitSeq = s.admitSeq := rfl
@[simp] theorem regSetF_spool (s : State) (a hi lo x : Nat) : (regSetF s a hi lo x).spool = s.spool := rfl
@[simp] theorem regSetF_pairs (s : State) (a hi lo x : Nat) : (regSetF s a hi lo x).pairs = s.pairs := rfl
@[simp] theorem regSetF_lastPair (s : State) (a hi lo x : Nat) : (regSetF s a hi lo x).lastPair = s.lastPair := rfl
@[simp] theorem regSetF_works (s : State) (a hi lo x : Nat) : (regSetF s a hi lo x).works = s.works := rfl
@[simp] theorem regSetF_nextWid (s : State) (a hi lo x : Nat) : (regSetF s a hi lo x).nextWid = s.nextWid := rfl
@[simp] theorem regSetF_slots (s : State) (a hi lo x : Nat) : (regSetF s a hi lo x).slots = s.slots := rfl
@[simp] theorem regSetF_staging (s : State) (a hi lo x : Nat) : (regSetF s a hi lo x).staging = s.staging := rfl
@[simp] theorem regSetF_shedAt (s : State) (a hi lo x : Nat) : (regSetF s a hi lo x).shedAt = s.shedAt := rfl
@[simp] theorem regSetF_restoredAt (s : State) (a hi lo x : Nat) : (regSetF s a hi lo x).restoredAt = s.restoredAt := rfl
@[simp] theorem regSetF_hold3 (s : State) (a hi lo x : Nat) : (regSetF s a hi lo x).hold3 = s.hold3 := rfl
@[simp] theorem regSetF_endedOps (s : State) (a hi lo x : Nat) : (regSetF s a hi lo x).endedOps = s.endedOps := rfl
@[simp] theorem regSetF_cams (s : State) (a hi lo x : Nat) : (regSetF s a hi lo x).cams = s.cams := rfl
@[simp] theorem regSetF_encs (s : State) (a hi lo x : Nat) : (regSetF s a hi lo x).encs = s.encs := rfl
@[simp] theorem regSetF_odo (s : State) (a hi lo x : Nat) : (regSetF s a hi lo x).odo = s.odo := rfl
@[simp] theorem regSetF_chans (s : State) (a hi lo x : Nat) : (regSetF s a hi lo x).chans = s.chans := rfl
@[simp] theorem regSetF_groups (s : State) (a hi lo x : Nat) : (regSetF s a hi lo x).groups = s.groups := rfl
@[simp] theorem regSetF_trackSerial (s : State) (a hi lo x : Nat) : (regSetF s a hi lo x).trackSerial = s.trackSerial := rfl
@[simp] theorem regSetF_disps (s : State) (a hi lo x : Nat) : (regSetF s a hi lo x).disps = s.disps := rfl
@[simp] theorem regSetF_fab (s : State) (a hi lo x : Nat) : (regSetF s a hi lo x).fab = s.fab := rfl
@[simp] theorem regSetF_boot (s : State) (a hi lo x : Nat) : (regSetF s a hi lo x).boot = s.boot := rfl
@[simp] theorem regSetF_pods (s : State) (a hi lo x : Nat) : (regSetF s a hi lo x).pods = s.pods := rfl
@[simp] theorem regSetF_pins (s : State) (a hi lo x : Nat) : (regSetF s a hi lo x).pins = s.pins := rfl
@[simp] theorem regSetF_power (s : State) (a hi lo x : Nat) : (regSetF s a hi lo x).power = s.power := rfl
@[simp] theorem regSetF_cons (s : State) (a hi lo x : Nat) : (regSetF s a hi lo x).cons = s.cons := rfl
@[simp] theorem regSetF_snap (s : State) (a hi lo x : Nat) : (regSetF s a hi lo x).snap = s.snap := rfl
@[simp] theorem regSetF_tokens (s : State) (a hi lo x : Nat) : (regSetF s a hi lo x).tokens = s.tokens := rfl
@[simp] theorem regSetF_sec (s : State) (a hi lo x : Nat) : (regSetF s a hi lo x).sec = s.sec := rfl
@[simp] theorem regSetF_rrp (s : State) (a hi lo x : Nat) : (regSetF s a hi lo x).rrp = s.rrp := rfl
@[simp] theorem regSetF_eth (s : State) (a hi lo x : Nat) : (regSetF s a hi lo x).eth = s.eth := rfl
@[simp] theorem regSetF_ddr (s : State) (a hi lo x : Nat) : (regSetF s a hi lo x).ddr = s.ddr := rfl
@[simp] theorem regSetF_out (s : State) (a hi lo x : Nat) : (regSetF s a hi lo x).out = s.out := rfl
@[simp] theorem regSetF_freeNo (s : State) (a hi lo x : Nat) : (regSetF s a hi lo x).freeNo = s.freeNo := rfl

@[simp] theorem bumpBy_pending (s : State) (a n : Nat) : (bumpBy s a n).pending = s.pending := by unfold bumpBy; split <;> rfl
@[simp] theorem bumpBy_time (s : State) (a n : Nat) : (bumpBy s a n).time = s.time := by unfold bumpBy; split <;> rfl
@[simp] theorem bumpBy_elapsed (s : State) (a n : Nat) : (bumpBy s a n).elapsed = s.elapsed := by unfold bumpBy; split <;> rfl
@[simp] theorem bumpBy_held (s : State) (a n : Nat) : (bumpBy s a n).held = s.held := by unfold bumpBy; split <;> rfl
@[simp] theorem bumpBy_capture (s : State) (a n : Nat) : (bumpBy s a n).capture = s.capture := by unfold bumpBy; split <;> rfl
@[simp] theorem bumpBy_shadow (s : State) (a n : Nat) : (bumpBy s a n).shadow = s.shadow := by unfold bumpBy; split <;> rfl
@[simp] theorem bumpBy_resp (s : State) (a n : Nat) : (bumpBy s a n).resp = s.resp := by unfold bumpBy; split <;> rfl
@[simp] theorem bumpBy_mem (s : State) (a n : Nat) : (bumpBy s a n).mem = s.mem := by unfold bumpBy; split <;> rfl
@[simp] theorem bumpBy_poison (s : State) (a n : Nat) : (bumpBy s a n).poison = s.poison := by unfold bumpBy; split <;> rfl
@[simp] theorem bumpBy_log (s : State) (a n : Nat) : (bumpBy s a n).log = s.log := by unfold bumpBy; split <;> rfl
@[simp] theorem bumpBy_logHead (s : State) (a n : Nat) : (bumpBy s a n).logHead = s.logHead := by unfold bumpBy; split <;> rfl
@[simp] theorem bumpBy_wins (s : State) (a n : Nat) : (bumpBy s a n).wins = s.wins := by unfold bumpBy; split <;> rfl
@[simp] theorem bumpBy_resident (s : State) (a n : Nat) : (bumpBy s a n).resident = s.resident := by unfold bumpBy; split <;> rfl
@[simp] theorem bumpBy_pools (s : State) (a n : Nat) : (bumpBy s a n).pools = s.pools := by unfold bumpBy; split <;> rfl
@[simp] theorem bumpBy_parts (s : State) (a n : Nat) : (bumpBy s a n).parts = s.parts := by unfold bumpBy; split <;> rfl
@[simp] theorem bumpBy_leekUp (s : State) (a n : Nat) : (bumpBy s a n).leekUp = s.leekUp := by unfold bumpBy; split <;> rfl
@[simp] theorem bumpBy_streams (s : State) (a n : Nat) : (bumpBy s a n).streams = s.streams := by unfold bumpBy; split <;> rfl
@[simp] theorem bumpBy_admitSeq (s : State) (a n : Nat) : (bumpBy s a n).admitSeq = s.admitSeq := by unfold bumpBy; split <;> rfl
@[simp] theorem bumpBy_spool (s : State) (a n : Nat) : (bumpBy s a n).spool = s.spool := by unfold bumpBy; split <;> rfl
@[simp] theorem bumpBy_pairs (s : State) (a n : Nat) : (bumpBy s a n).pairs = s.pairs := by unfold bumpBy; split <;> rfl
@[simp] theorem bumpBy_lastPair (s : State) (a n : Nat) : (bumpBy s a n).lastPair = s.lastPair := by unfold bumpBy; split <;> rfl
@[simp] theorem bumpBy_works (s : State) (a n : Nat) : (bumpBy s a n).works = s.works := by unfold bumpBy; split <;> rfl
@[simp] theorem bumpBy_nextWid (s : State) (a n : Nat) : (bumpBy s a n).nextWid = s.nextWid := by unfold bumpBy; split <;> rfl
@[simp] theorem bumpBy_slots (s : State) (a n : Nat) : (bumpBy s a n).slots = s.slots := by unfold bumpBy; split <;> rfl
@[simp] theorem bumpBy_staging (s : State) (a n : Nat) : (bumpBy s a n).staging = s.staging := by unfold bumpBy; split <;> rfl
@[simp] theorem bumpBy_shedAt (s : State) (a n : Nat) : (bumpBy s a n).shedAt = s.shedAt := by unfold bumpBy; split <;> rfl
@[simp] theorem bumpBy_restoredAt (s : State) (a n : Nat) : (bumpBy s a n).restoredAt = s.restoredAt := by unfold bumpBy; split <;> rfl
@[simp] theorem bumpBy_hold3 (s : State) (a n : Nat) : (bumpBy s a n).hold3 = s.hold3 := by unfold bumpBy; split <;> rfl
@[simp] theorem bumpBy_endedOps (s : State) (a n : Nat) : (bumpBy s a n).endedOps = s.endedOps := by unfold bumpBy; split <;> rfl
@[simp] theorem bumpBy_cams (s : State) (a n : Nat) : (bumpBy s a n).cams = s.cams := by unfold bumpBy; split <;> rfl
@[simp] theorem bumpBy_encs (s : State) (a n : Nat) : (bumpBy s a n).encs = s.encs := by unfold bumpBy; split <;> rfl
@[simp] theorem bumpBy_odo (s : State) (a n : Nat) : (bumpBy s a n).odo = s.odo := by unfold bumpBy; split <;> rfl
@[simp] theorem bumpBy_chans (s : State) (a n : Nat) : (bumpBy s a n).chans = s.chans := by unfold bumpBy; split <;> rfl
@[simp] theorem bumpBy_groups (s : State) (a n : Nat) : (bumpBy s a n).groups = s.groups := by unfold bumpBy; split <;> rfl
@[simp] theorem bumpBy_trackSerial (s : State) (a n : Nat) : (bumpBy s a n).trackSerial = s.trackSerial := by unfold bumpBy; split <;> rfl
@[simp] theorem bumpBy_disps (s : State) (a n : Nat) : (bumpBy s a n).disps = s.disps := by unfold bumpBy; split <;> rfl
@[simp] theorem bumpBy_fab (s : State) (a n : Nat) : (bumpBy s a n).fab = s.fab := by unfold bumpBy; split <;> rfl
@[simp] theorem bumpBy_boot (s : State) (a n : Nat) : (bumpBy s a n).boot = s.boot := by unfold bumpBy; split <;> rfl
@[simp] theorem bumpBy_pods (s : State) (a n : Nat) : (bumpBy s a n).pods = s.pods := by unfold bumpBy; split <;> rfl
@[simp] theorem bumpBy_pins (s : State) (a n : Nat) : (bumpBy s a n).pins = s.pins := by unfold bumpBy; split <;> rfl
@[simp] theorem bumpBy_power (s : State) (a n : Nat) : (bumpBy s a n).power = s.power := by unfold bumpBy; split <;> rfl
@[simp] theorem bumpBy_cons (s : State) (a n : Nat) : (bumpBy s a n).cons = s.cons := by unfold bumpBy; split <;> rfl
@[simp] theorem bumpBy_snap (s : State) (a n : Nat) : (bumpBy s a n).snap = s.snap := by unfold bumpBy; split <;> rfl
@[simp] theorem bumpBy_tokens (s : State) (a n : Nat) : (bumpBy s a n).tokens = s.tokens := by unfold bumpBy; split <;> rfl
@[simp] theorem bumpBy_sec (s : State) (a n : Nat) : (bumpBy s a n).sec = s.sec := by unfold bumpBy; split <;> rfl
@[simp] theorem bumpBy_rrp (s : State) (a n : Nat) : (bumpBy s a n).rrp = s.rrp := by unfold bumpBy; split <;> rfl
@[simp] theorem bumpBy_eth (s : State) (a n : Nat) : (bumpBy s a n).eth = s.eth := by unfold bumpBy; split <;> rfl
@[simp] theorem bumpBy_ddr (s : State) (a n : Nat) : (bumpBy s a n).ddr = s.ddr := by unfold bumpBy; split <;> rfl
@[simp] theorem bumpBy_out (s : State) (a n : Nat) : (bumpBy s a n).out = s.out := by unfold bumpBy; split <;> rfl
@[simp] theorem bumpBy_freeNo (s : State) (a n : Nat) : (bumpBy s a n).freeNo = s.freeNo := by unfold bumpBy; split <;> rfl

@[simp] theorem bump_pending (s : State) (a : Nat) : (bump s a).pending = s.pending := rfl
@[simp] theorem bump_time (s : State) (a : Nat) : (bump s a).time = s.time := rfl
@[simp] theorem bump_elapsed (s : State) (a : Nat) : (bump s a).elapsed = s.elapsed := rfl
@[simp] theorem bump_held (s : State) (a : Nat) : (bump s a).held = s.held := rfl
@[simp] theorem bump_capture (s : State) (a : Nat) : (bump s a).capture = s.capture := rfl
@[simp] theorem bump_shadow (s : State) (a : Nat) : (bump s a).shadow = s.shadow := rfl
@[simp] theorem bump_resp (s : State) (a : Nat) : (bump s a).resp = s.resp := rfl
@[simp] theorem bump_mem (s : State) (a : Nat) : (bump s a).mem = s.mem := rfl
@[simp] theorem bump_poison (s : State) (a : Nat) : (bump s a).poison = s.poison := rfl
@[simp] theorem bump_log (s : State) (a : Nat) : (bump s a).log = s.log := rfl
@[simp] theorem bump_logHead (s : State) (a : Nat) : (bump s a).logHead = s.logHead := rfl
@[simp] theorem bump_wins (s : State) (a : Nat) : (bump s a).wins = s.wins := rfl
@[simp] theorem bump_resident (s : State) (a : Nat) : (bump s a).resident = s.resident := rfl
@[simp] theorem bump_pools (s : State) (a : Nat) : (bump s a).pools = s.pools := rfl
@[simp] theorem bump_parts (s : State) (a : Nat) : (bump s a).parts = s.parts := rfl
@[simp] theorem bump_leekUp (s : State) (a : Nat) : (bump s a).leekUp = s.leekUp := rfl
@[simp] theorem bump_streams (s : State) (a : Nat) : (bump s a).streams = s.streams := rfl
@[simp] theorem bump_admitSeq (s : State) (a : Nat) : (bump s a).admitSeq = s.admitSeq := rfl
@[simp] theorem bump_spool (s : State) (a : Nat) : (bump s a).spool = s.spool := rfl
@[simp] theorem bump_pairs (s : State) (a : Nat) : (bump s a).pairs = s.pairs := rfl
@[simp] theorem bump_lastPair (s : State) (a : Nat) : (bump s a).lastPair = s.lastPair := rfl
@[simp] theorem bump_works (s : State) (a : Nat) : (bump s a).works = s.works := rfl
@[simp] theorem bump_nextWid (s : State) (a : Nat) : (bump s a).nextWid = s.nextWid := rfl
@[simp] theorem bump_slots (s : State) (a : Nat) : (bump s a).slots = s.slots := rfl
@[simp] theorem bump_staging (s : State) (a : Nat) : (bump s a).staging = s.staging := rfl
@[simp] theorem bump_shedAt (s : State) (a : Nat) : (bump s a).shedAt = s.shedAt := rfl
@[simp] theorem bump_restoredAt (s : State) (a : Nat) : (bump s a).restoredAt = s.restoredAt := rfl
@[simp] theorem bump_hold3 (s : State) (a : Nat) : (bump s a).hold3 = s.hold3 := rfl
@[simp] theorem bump_endedOps (s : State) (a : Nat) : (bump s a).endedOps = s.endedOps := rfl
@[simp] theorem bump_cams (s : State) (a : Nat) : (bump s a).cams = s.cams := rfl
@[simp] theorem bump_encs (s : State) (a : Nat) : (bump s a).encs = s.encs := rfl
@[simp] theorem bump_odo (s : State) (a : Nat) : (bump s a).odo = s.odo := rfl
@[simp] theorem bump_chans (s : State) (a : Nat) : (bump s a).chans = s.chans := rfl
@[simp] theorem bump_groups (s : State) (a : Nat) : (bump s a).groups = s.groups := rfl
@[simp] theorem bump_trackSerial (s : State) (a : Nat) : (bump s a).trackSerial = s.trackSerial := rfl
@[simp] theorem bump_disps (s : State) (a : Nat) : (bump s a).disps = s.disps := rfl
@[simp] theorem bump_fab (s : State) (a : Nat) : (bump s a).fab = s.fab := rfl
@[simp] theorem bump_boot (s : State) (a : Nat) : (bump s a).boot = s.boot := rfl
@[simp] theorem bump_pods (s : State) (a : Nat) : (bump s a).pods = s.pods := rfl
@[simp] theorem bump_pins (s : State) (a : Nat) : (bump s a).pins = s.pins := rfl
@[simp] theorem bump_power (s : State) (a : Nat) : (bump s a).power = s.power := rfl
@[simp] theorem bump_cons (s : State) (a : Nat) : (bump s a).cons = s.cons := rfl
@[simp] theorem bump_snap (s : State) (a : Nat) : (bump s a).snap = s.snap := rfl
@[simp] theorem bump_tokens (s : State) (a : Nat) : (bump s a).tokens = s.tokens := rfl
@[simp] theorem bump_sec (s : State) (a : Nat) : (bump s a).sec = s.sec := rfl
@[simp] theorem bump_rrp (s : State) (a : Nat) : (bump s a).rrp = s.rrp := rfl
@[simp] theorem bump_eth (s : State) (a : Nat) : (bump s a).eth = s.eth := rfl
@[simp] theorem bump_ddr (s : State) (a : Nat) : (bump s a).ddr = s.ddr := rfl
@[simp] theorem bump_out (s : State) (a : Nat) : (bump s a).out = s.out := rfl
@[simp] theorem bump_freeNo (s : State) (a : Nat) : (bump s a).freeNo = s.freeNo := rfl

@[simp] theorem bumpF_pending (s : State) (a hi lo : Nat) : (bumpF s a hi lo).pending = s.pending := rfl
@[simp] theorem bumpF_time (s : State) (a hi lo : Nat) : (bumpF s a hi lo).time = s.time := rfl
@[simp] theorem bumpF_elapsed (s : State) (a hi lo : Nat) : (bumpF s a hi lo).elapsed = s.elapsed := rfl
@[simp] theorem bumpF_held (s : State) (a hi lo : Nat) : (bumpF s a hi lo).held = s.held := rfl
@[simp] theorem bumpF_capture (s : State) (a hi lo : Nat) : (bumpF s a hi lo).capture = s.capture := rfl
@[simp] theorem bumpF_shadow (s : State) (a hi lo : Nat) : (bumpF s a hi lo).shadow = s.shadow := rfl
@[simp] theorem bumpF_resp (s : State) (a hi lo : Nat) : (bumpF s a hi lo).resp = s.resp := rfl
@[simp] theorem bumpF_mem (s : State) (a hi lo : Nat) : (bumpF s a hi lo).mem = s.mem := rfl
@[simp] theorem bumpF_poison (s : State) (a hi lo : Nat) : (bumpF s a hi lo).poison = s.poison := rfl
@[simp] theorem bumpF_log (s : State) (a hi lo : Nat) : (bumpF s a hi lo).log = s.log := rfl
@[simp] theorem bumpF_logHead (s : State) (a hi lo : Nat) : (bumpF s a hi lo).logHead = s.logHead := rfl
@[simp] theorem bumpF_wins (s : State) (a hi lo : Nat) : (bumpF s a hi lo).wins = s.wins := rfl
@[simp] theorem bumpF_resident (s : State) (a hi lo : Nat) : (bumpF s a hi lo).resident = s.resident := rfl
@[simp] theorem bumpF_pools (s : State) (a hi lo : Nat) : (bumpF s a hi lo).pools = s.pools := rfl
@[simp] theorem bumpF_parts (s : State) (a hi lo : Nat) : (bumpF s a hi lo).parts = s.parts := rfl
@[simp] theorem bumpF_leekUp (s : State) (a hi lo : Nat) : (bumpF s a hi lo).leekUp = s.leekUp := rfl
@[simp] theorem bumpF_streams (s : State) (a hi lo : Nat) : (bumpF s a hi lo).streams = s.streams := rfl
@[simp] theorem bumpF_admitSeq (s : State) (a hi lo : Nat) : (bumpF s a hi lo).admitSeq = s.admitSeq := rfl
@[simp] theorem bumpF_spool (s : State) (a hi lo : Nat) : (bumpF s a hi lo).spool = s.spool := rfl
@[simp] theorem bumpF_pairs (s : State) (a hi lo : Nat) : (bumpF s a hi lo).pairs = s.pairs := rfl
@[simp] theorem bumpF_lastPair (s : State) (a hi lo : Nat) : (bumpF s a hi lo).lastPair = s.lastPair := rfl
@[simp] theorem bumpF_works (s : State) (a hi lo : Nat) : (bumpF s a hi lo).works = s.works := rfl
@[simp] theorem bumpF_nextWid (s : State) (a hi lo : Nat) : (bumpF s a hi lo).nextWid = s.nextWid := rfl
@[simp] theorem bumpF_slots (s : State) (a hi lo : Nat) : (bumpF s a hi lo).slots = s.slots := rfl
@[simp] theorem bumpF_staging (s : State) (a hi lo : Nat) : (bumpF s a hi lo).staging = s.staging := rfl
@[simp] theorem bumpF_shedAt (s : State) (a hi lo : Nat) : (bumpF s a hi lo).shedAt = s.shedAt := rfl
@[simp] theorem bumpF_restoredAt (s : State) (a hi lo : Nat) : (bumpF s a hi lo).restoredAt = s.restoredAt := rfl
@[simp] theorem bumpF_hold3 (s : State) (a hi lo : Nat) : (bumpF s a hi lo).hold3 = s.hold3 := rfl
@[simp] theorem bumpF_endedOps (s : State) (a hi lo : Nat) : (bumpF s a hi lo).endedOps = s.endedOps := rfl
@[simp] theorem bumpF_cams (s : State) (a hi lo : Nat) : (bumpF s a hi lo).cams = s.cams := rfl
@[simp] theorem bumpF_encs (s : State) (a hi lo : Nat) : (bumpF s a hi lo).encs = s.encs := rfl
@[simp] theorem bumpF_odo (s : State) (a hi lo : Nat) : (bumpF s a hi lo).odo = s.odo := rfl
@[simp] theorem bumpF_chans (s : State) (a hi lo : Nat) : (bumpF s a hi lo).chans = s.chans := rfl
@[simp] theorem bumpF_groups (s : State) (a hi lo : Nat) : (bumpF s a hi lo).groups = s.groups := rfl
@[simp] theorem bumpF_trackSerial (s : State) (a hi lo : Nat) : (bumpF s a hi lo).trackSerial = s.trackSerial := rfl
@[simp] theorem bumpF_disps (s : State) (a hi lo : Nat) : (bumpF s a hi lo).disps = s.disps := rfl
@[simp] theorem bumpF_fab (s : State) (a hi lo : Nat) : (bumpF s a hi lo).fab = s.fab := rfl
@[simp] theorem bumpF_boot (s : State) (a hi lo : Nat) : (bumpF s a hi lo).boot = s.boot := rfl
@[simp] theorem bumpF_pods (s : State) (a hi lo : Nat) : (bumpF s a hi lo).pods = s.pods := rfl
@[simp] theorem bumpF_pins (s : State) (a hi lo : Nat) : (bumpF s a hi lo).pins = s.pins := rfl
@[simp] theorem bumpF_power (s : State) (a hi lo : Nat) : (bumpF s a hi lo).power = s.power := rfl
@[simp] theorem bumpF_cons (s : State) (a hi lo : Nat) : (bumpF s a hi lo).cons = s.cons := rfl
@[simp] theorem bumpF_snap (s : State) (a hi lo : Nat) : (bumpF s a hi lo).snap = s.snap := rfl
@[simp] theorem bumpF_tokens (s : State) (a hi lo : Nat) : (bumpF s a hi lo).tokens = s.tokens := rfl
@[simp] theorem bumpF_sec (s : State) (a hi lo : Nat) : (bumpF s a hi lo).sec = s.sec := rfl
@[simp] theorem bumpF_rrp (s : State) (a hi lo : Nat) : (bumpF s a hi lo).rrp = s.rrp := rfl
@[simp] theorem bumpF_eth (s : State) (a hi lo : Nat) : (bumpF s a hi lo).eth = s.eth := rfl
@[simp] theorem bumpF_ddr (s : State) (a hi lo : Nat) : (bumpF s a hi lo).ddr = s.ddr := rfl
@[simp] theorem bumpF_out (s : State) (a hi lo : Nat) : (bumpF s a hi lo).out = s.out := rfl
@[simp] theorem bumpF_freeNo (s : State) (a hi lo : Nat) : (bumpF s a hi lo).freeNo = s.freeNo := rfl

@[simp] theorem bump64_pending (s : State) (a n : Nat) : (bump64 s a n).pending = s.pending := rfl
@[simp] theorem bump64_time (s : State) (a n : Nat) : (bump64 s a n).time = s.time := rfl
@[simp] theorem bump64_elapsed (s : State) (a n : Nat) : (bump64 s a n).elapsed = s.elapsed := rfl
@[simp] theorem bump64_held (s : State) (a n : Nat) : (bump64 s a n).held = s.held := rfl
@[simp] theorem bump64_capture (s : State) (a n : Nat) : (bump64 s a n).capture = s.capture := rfl
@[simp] theorem bump64_shadow (s : State) (a n : Nat) : (bump64 s a n).shadow = s.shadow := rfl
@[simp] theorem bump64_resp (s : State) (a n : Nat) : (bump64 s a n).resp = s.resp := rfl
@[simp] theorem bump64_mem (s : State) (a n : Nat) : (bump64 s a n).mem = s.mem := rfl
@[simp] theorem bump64_poison (s : State) (a n : Nat) : (bump64 s a n).poison = s.poison := rfl
@[simp] theorem bump64_log (s : State) (a n : Nat) : (bump64 s a n).log = s.log := rfl
@[simp] theorem bump64_logHead (s : State) (a n : Nat) : (bump64 s a n).logHead = s.logHead := rfl
@[simp] theorem bump64_wins (s : State) (a n : Nat) : (bump64 s a n).wins = s.wins := rfl
@[simp] theorem bump64_resident (s : State) (a n : Nat) : (bump64 s a n).resident = s.resident := rfl
@[simp] theorem bump64_pools (s : State) (a n : Nat) : (bump64 s a n).pools = s.pools := rfl
@[simp] theorem bump64_parts (s : State) (a n : Nat) : (bump64 s a n).parts = s.parts := rfl
@[simp] theorem bump64_leekUp (s : State) (a n : Nat) : (bump64 s a n).leekUp = s.leekUp := rfl
@[simp] theorem bump64_streams (s : State) (a n : Nat) : (bump64 s a n).streams = s.streams := rfl
@[simp] theorem bump64_admitSeq (s : State) (a n : Nat) : (bump64 s a n).admitSeq = s.admitSeq := rfl
@[simp] theorem bump64_spool (s : State) (a n : Nat) : (bump64 s a n).spool = s.spool := rfl
@[simp] theorem bump64_pairs (s : State) (a n : Nat) : (bump64 s a n).pairs = s.pairs := rfl
@[simp] theorem bump64_lastPair (s : State) (a n : Nat) : (bump64 s a n).lastPair = s.lastPair := rfl
@[simp] theorem bump64_works (s : State) (a n : Nat) : (bump64 s a n).works = s.works := rfl
@[simp] theorem bump64_nextWid (s : State) (a n : Nat) : (bump64 s a n).nextWid = s.nextWid := rfl
@[simp] theorem bump64_slots (s : State) (a n : Nat) : (bump64 s a n).slots = s.slots := rfl
@[simp] theorem bump64_staging (s : State) (a n : Nat) : (bump64 s a n).staging = s.staging := rfl
@[simp] theorem bump64_shedAt (s : State) (a n : Nat) : (bump64 s a n).shedAt = s.shedAt := rfl
@[simp] theorem bump64_restoredAt (s : State) (a n : Nat) : (bump64 s a n).restoredAt = s.restoredAt := rfl
@[simp] theorem bump64_hold3 (s : State) (a n : Nat) : (bump64 s a n).hold3 = s.hold3 := rfl
@[simp] theorem bump64_endedOps (s : State) (a n : Nat) : (bump64 s a n).endedOps = s.endedOps := rfl
@[simp] theorem bump64_cams (s : State) (a n : Nat) : (bump64 s a n).cams = s.cams := rfl
@[simp] theorem bump64_encs (s : State) (a n : Nat) : (bump64 s a n).encs = s.encs := rfl
@[simp] theorem bump64_odo (s : State) (a n : Nat) : (bump64 s a n).odo = s.odo := rfl
@[simp] theorem bump64_chans (s : State) (a n : Nat) : (bump64 s a n).chans = s.chans := rfl
@[simp] theorem bump64_groups (s : State) (a n : Nat) : (bump64 s a n).groups = s.groups := rfl
@[simp] theorem bump64_trackSerial (s : State) (a n : Nat) : (bump64 s a n).trackSerial = s.trackSerial := rfl
@[simp] theorem bump64_disps (s : State) (a n : Nat) : (bump64 s a n).disps = s.disps := rfl
@[simp] theorem bump64_fab (s : State) (a n : Nat) : (bump64 s a n).fab = s.fab := rfl
@[simp] theorem bump64_boot (s : State) (a n : Nat) : (bump64 s a n).boot = s.boot := rfl
@[simp] theorem bump64_pods (s : State) (a n : Nat) : (bump64 s a n).pods = s.pods := rfl
@[simp] theorem bump64_pins (s : State) (a n : Nat) : (bump64 s a n).pins = s.pins := rfl
@[simp] theorem bump64_power (s : State) (a n : Nat) : (bump64 s a n).power = s.power := rfl
@[simp] theorem bump64_cons (s : State) (a n : Nat) : (bump64 s a n).cons = s.cons := rfl
@[simp] theorem bump64_snap (s : State) (a n : Nat) : (bump64 s a n).snap = s.snap := rfl
@[simp] theorem bump64_tokens (s : State) (a n : Nat) : (bump64 s a n).tokens = s.tokens := rfl
@[simp] theorem bump64_sec (s : State) (a n : Nat) : (bump64 s a n).sec = s.sec := rfl
@[simp] theorem bump64_rrp (s : State) (a n : Nat) : (bump64 s a n).rrp = s.rrp := rfl
@[simp] theorem bump64_eth (s : State) (a n : Nat) : (bump64 s a n).eth = s.eth := rfl
@[simp] theorem bump64_ddr (s : State) (a n : Nat) : (bump64 s a n).ddr = s.ddr := rfl
@[simp] theorem bump64_out (s : State) (a n : Nat) : (bump64 s a n).out = s.out := rfl
@[simp] theorem bump64_freeNo (s : State) (a n : Nat) : (bump64 s a n).freeNo = s.freeNo := rfl

@[simp] theorem setPower_pending (s : State) (d : Nat) (on : Bool) : (setPower s d on).pending = s.pending := rfl
@[simp] theorem setPower_time (s : State) (d : Nat) (on : Bool) : (setPower s d on).time = s.time := rfl
@[simp] theorem setPower_elapsed (s : State) (d : Nat) (on : Bool) : (setPower s d on).elapsed = s.elapsed := rfl
@[simp] theorem setPower_held (s : State) (d : Nat) (on : Bool) : (setPower s d on).held = s.held := rfl
@[simp] theorem setPower_capture (s : State) (d : Nat) (on : Bool) : (setPower s d on).capture = s.capture := rfl
@[simp] theorem setPower_shadow (s : State) (d : Nat) (on : Bool) : (setPower s d on).shadow = s.shadow := rfl
@[simp] theorem setPower_resp (s : State) (d : Nat) (on : Bool) : (setPower s d on).resp = s.resp := rfl
@[simp] theorem setPower_mem (s : State) (d : Nat) (on : Bool) : (setPower s d on).mem = s.mem := rfl
@[simp] theorem setPower_poison (s : State) (d : Nat) (on : Bool) : (setPower s d on).poison = s.poison := rfl
@[simp] theorem setPower_log (s : State) (d : Nat) (on : Bool) : (setPower s d on).log = s.log := rfl
@[simp] theorem setPower_logHead (s : State) (d : Nat) (on : Bool) : (setPower s d on).logHead = s.logHead := rfl
@[simp] theorem setPower_wins (s : State) (d : Nat) (on : Bool) : (setPower s d on).wins = s.wins := rfl
@[simp] theorem setPower_resident (s : State) (d : Nat) (on : Bool) : (setPower s d on).resident = s.resident := rfl
@[simp] theorem setPower_pools (s : State) (d : Nat) (on : Bool) : (setPower s d on).pools = s.pools := rfl
@[simp] theorem setPower_parts (s : State) (d : Nat) (on : Bool) : (setPower s d on).parts = s.parts := rfl
@[simp] theorem setPower_leekUp (s : State) (d : Nat) (on : Bool) : (setPower s d on).leekUp = s.leekUp := rfl
@[simp] theorem setPower_streams (s : State) (d : Nat) (on : Bool) : (setPower s d on).streams = s.streams := rfl
@[simp] theorem setPower_admitSeq (s : State) (d : Nat) (on : Bool) : (setPower s d on).admitSeq = s.admitSeq := rfl
@[simp] theorem setPower_spool (s : State) (d : Nat) (on : Bool) : (setPower s d on).spool = s.spool := rfl
@[simp] theorem setPower_pairs (s : State) (d : Nat) (on : Bool) : (setPower s d on).pairs = s.pairs := rfl
@[simp] theorem setPower_lastPair (s : State) (d : Nat) (on : Bool) : (setPower s d on).lastPair = s.lastPair := rfl
@[simp] theorem setPower_works (s : State) (d : Nat) (on : Bool) : (setPower s d on).works = s.works := rfl
@[simp] theorem setPower_nextWid (s : State) (d : Nat) (on : Bool) : (setPower s d on).nextWid = s.nextWid := rfl
@[simp] theorem setPower_slots (s : State) (d : Nat) (on : Bool) : (setPower s d on).slots = s.slots := rfl
@[simp] theorem setPower_staging (s : State) (d : Nat) (on : Bool) : (setPower s d on).staging = s.staging := rfl
@[simp] theorem setPower_shedAt (s : State) (d : Nat) (on : Bool) : (setPower s d on).shedAt = s.shedAt := rfl
@[simp] theorem setPower_restoredAt (s : State) (d : Nat) (on : Bool) : (setPower s d on).restoredAt = s.restoredAt := rfl
@[simp] theorem setPower_hold3 (s : State) (d : Nat) (on : Bool) : (setPower s d on).hold3 = s.hold3 := rfl
@[simp] theorem setPower_endedOps (s : State) (d : Nat) (on : Bool) : (setPower s d on).endedOps = s.endedOps := rfl
@[simp] theorem setPower_cams (s : State) (d : Nat) (on : Bool) : (setPower s d on).cams = s.cams := rfl
@[simp] theorem setPower_encs (s : State) (d : Nat) (on : Bool) : (setPower s d on).encs = s.encs := rfl
@[simp] theorem setPower_odo (s : State) (d : Nat) (on : Bool) : (setPower s d on).odo = s.odo := rfl
@[simp] theorem setPower_chans (s : State) (d : Nat) (on : Bool) : (setPower s d on).chans = s.chans := rfl
@[simp] theorem setPower_groups (s : State) (d : Nat) (on : Bool) : (setPower s d on).groups = s.groups := rfl
@[simp] theorem setPower_trackSerial (s : State) (d : Nat) (on : Bool) : (setPower s d on).trackSerial = s.trackSerial := rfl
@[simp] theorem setPower_disps (s : State) (d : Nat) (on : Bool) : (setPower s d on).disps = s.disps := rfl
@[simp] theorem setPower_fab (s : State) (d : Nat) (on : Bool) : (setPower s d on).fab = s.fab := rfl
@[simp] theorem setPower_boot (s : State) (d : Nat) (on : Bool) : (setPower s d on).boot = s.boot := rfl
@[simp] theorem setPower_pods (s : State) (d : Nat) (on : Bool) : (setPower s d on).pods = s.pods := rfl
@[simp] theorem setPower_pins (s : State) (d : Nat) (on : Bool) : (setPower s d on).pins = s.pins := rfl
@[simp] theorem setPower_power (s : State) (d : Nat) (on : Bool) : (setPower s d on).power = s.power := rfl
@[simp] theorem setPower_cons (s : State) (d : Nat) (on : Bool) : (setPower s d on).cons = s.cons := rfl
@[simp] theorem setPower_snap (s : State) (d : Nat) (on : Bool) : (setPower s d on).snap = s.snap := rfl
@[simp] theorem setPower_tokens (s : State) (d : Nat) (on : Bool) : (setPower s d on).tokens = s.tokens := rfl
@[simp] theorem setPower_sec (s : State) (d : Nat) (on : Bool) : (setPower s d on).sec = s.sec := rfl
@[simp] theorem setPower_rrp (s : State) (d : Nat) (on : Bool) : (setPower s d on).rrp = s.rrp := rfl
@[simp] theorem setPower_eth (s : State) (d : Nat) (on : Bool) : (setPower s d on).eth = s.eth := rfl
@[simp] theorem setPower_ddr (s : State) (d : Nat) (on : Bool) : (setPower s d on).ddr = s.ddr := rfl
@[simp] theorem setPower_out (s : State) (d : Nat) (on : Bool) : (setPower s d on).out = s.out := rfl
@[simp] theorem setPower_freeNo (s : State) (d : Nat) (on : Bool) : (setPower s d on).freeNo = s.freeNo := rfl

@[simp] theorem logPush_pending (s : State) (e : LogEntry) : (logPush s e).pending = s.pending := rfl
@[simp] theorem logPush_time (s : State) (e : LogEntry) : (logPush s e).time = s.time := rfl
@[simp] theorem logPush_elapsed (s : State) (e : LogEntry) : (logPush s e).elapsed = s.elapsed := rfl
@[simp] theorem logPush_regs (s : State) (e : LogEntry) : (logPush s e).regs = s.regs := rfl
@[simp] theorem logPush_held (s : State) (e : LogEntry) : (logPush s e).held = s.held := rfl
@[simp] theorem logPush_capture (s : State) (e : LogEntry) : (logPush s e).capture = s.capture := rfl
@[simp] theorem logPush_shadow (s : State) (e : LogEntry) : (logPush s e).shadow = s.shadow := rfl
@[simp] theorem logPush_resp (s : State) (e : LogEntry) : (logPush s e).resp = s.resp := rfl
@[simp] theorem logPush_mem (s : State) (e : LogEntry) : (logPush s e).mem = s.mem := rfl
@[simp] theorem logPush_poison (s : State) (e : LogEntry) : (logPush s e).poison = s.poison := rfl
@[simp] theorem logPush_wins (s : State) (e : LogEntry) : (logPush s e).wins = s.wins := rfl
@[simp] theorem logPush_resident (s : State) (e : LogEntry) : (logPush s e).resident = s.resident := rfl
@[simp] theorem logPush_pools (s : State) (e : LogEntry) : (logPush s e).pools = s.pools := rfl
@[simp] theorem logPush_parts (s : State) (e : LogEntry) : (logPush s e).parts = s.parts := rfl
@[simp] theorem logPush_leekUp (s : State) (e : LogEntry) : (logPush s e).leekUp = s.leekUp := rfl
@[simp] theorem logPush_streams (s : State) (e : LogEntry) : (logPush s e).streams = s.streams := rfl
@[simp] theorem logPush_admitSeq (s : State) (e : LogEntry) : (logPush s e).admitSeq = s.admitSeq := rfl
@[simp] theorem logPush_spool (s : State) (e : LogEntry) : (logPush s e).spool = s.spool := rfl
@[simp] theorem logPush_pairs (s : State) (e : LogEntry) : (logPush s e).pairs = s.pairs := rfl
@[simp] theorem logPush_lastPair (s : State) (e : LogEntry) : (logPush s e).lastPair = s.lastPair := rfl
@[simp] theorem logPush_works (s : State) (e : LogEntry) : (logPush s e).works = s.works := rfl
@[simp] theorem logPush_nextWid (s : State) (e : LogEntry) : (logPush s e).nextWid = s.nextWid := rfl
@[simp] theorem logPush_slots (s : State) (e : LogEntry) : (logPush s e).slots = s.slots := rfl
@[simp] theorem logPush_staging (s : State) (e : LogEntry) : (logPush s e).staging = s.staging := rfl
@[simp] theorem logPush_shedAt (s : State) (e : LogEntry) : (logPush s e).shedAt = s.shedAt := rfl
@[simp] theorem logPush_restoredAt (s : State) (e : LogEntry) : (logPush s e).restoredAt = s.restoredAt := rfl
@[simp] theorem logPush_hold3 (s : State) (e : LogEntry) : (logPush s e).hold3 = s.hold3 := rfl
@[simp] theorem logPush_endedOps (s : State) (e : LogEntry) : (logPush s e).endedOps = s.endedOps := rfl
@[simp] theorem logPush_cams (s : State) (e : LogEntry) : (logPush s e).cams = s.cams := rfl
@[simp] theorem logPush_encs (s : State) (e : LogEntry) : (logPush s e).encs = s.encs := rfl
@[simp] theorem logPush_odo (s : State) (e : LogEntry) : (logPush s e).odo = s.odo := rfl
@[simp] theorem logPush_chans (s : State) (e : LogEntry) : (logPush s e).chans = s.chans := rfl
@[simp] theorem logPush_groups (s : State) (e : LogEntry) : (logPush s e).groups = s.groups := rfl
@[simp] theorem logPush_trackSerial (s : State) (e : LogEntry) : (logPush s e).trackSerial = s.trackSerial := rfl
@[simp] theorem logPush_disps (s : State) (e : LogEntry) : (logPush s e).disps = s.disps := rfl
@[simp] theorem logPush_fab (s : State) (e : LogEntry) : (logPush s e).fab = s.fab := rfl
@[simp] theorem logPush_boot (s : State) (e : LogEntry) : (logPush s e).boot = s.boot := rfl
@[simp] theorem logPush_pods (s : State) (e : LogEntry) : (logPush s e).pods = s.pods := rfl
@[simp] theorem logPush_pins (s : State) (e : LogEntry) : (logPush s e).pins = s.pins := rfl
@[simp] theorem logPush_power (s : State) (e : LogEntry) : (logPush s e).power = s.power := rfl
@[simp] theorem logPush_cons (s : State) (e : LogEntry) : (logPush s e).cons = s.cons := rfl
@[simp] theorem logPush_snap (s : State) (e : LogEntry) : (logPush s e).snap = s.snap := rfl
@[simp] theorem logPush_tokens (s : State) (e : LogEntry) : (logPush s e).tokens = s.tokens := rfl
@[simp] theorem logPush_sec (s : State) (e : LogEntry) : (logPush s e).sec = s.sec := rfl
@[simp] theorem logPush_rrp (s : State) (e : LogEntry) : (logPush s e).rrp = s.rrp := rfl
@[simp] theorem logPush_eth (s : State) (e : LogEntry) : (logPush s e).eth = s.eth := rfl
@[simp] theorem logPush_ddr (s : State) (e : LogEntry) : (logPush s e).ddr = s.ddr := rfl
@[simp] theorem logPush_out (s : State) (e : LogEntry) : (logPush s e).out = s.out := rfl
@[simp] theorem logPush_freeNo (s : State) (e : LogEntry) : (logPush s e).freeNo = s.freeNo := rfl
@[simp] theorem regGet_logPush (s : State) (e : LogEntry) (r : Nat) : regGet (logPush s e) r = regGet s r := rfl

@[simp] theorem logAdd_pending (s : State) (code src sev arg : Nat) : (logAdd s code src sev arg).pending = s.pending := rfl
@[simp] theorem logAdd_time (s : State) (code src sev arg : Nat) : (logAdd s code src sev arg).time = s.time := rfl
@[simp] theorem logAdd_elapsed (s : State) (code src sev arg : Nat) : (logAdd s code src sev arg).elapsed = s.elapsed := rfl
@[simp] theorem logAdd_regs (s : State) (code src sev arg : Nat) : (logAdd s code src sev arg).regs = s.regs := rfl
@[simp] theorem logAdd_held (s : State) (code src sev arg : Nat) : (logAdd s code src sev arg).held = s.held := rfl
@[simp] theorem logAdd_capture (s : State) (code src sev arg : Nat) : (logAdd s code src sev arg).capture = s.capture := rfl
@[simp] theorem logAdd_shadow (s : State) (code src sev arg : Nat) : (logAdd s code src sev arg).shadow = s.shadow := rfl
@[simp] theorem logAdd_resp (s : State) (code src sev arg : Nat) : (logAdd s code src sev arg).resp = s.resp := rfl
@[simp] theorem logAdd_mem (s : State) (code src sev arg : Nat) : (logAdd s code src sev arg).mem = s.mem := rfl
@[simp] theorem logAdd_poison (s : State) (code src sev arg : Nat) : (logAdd s code src sev arg).poison = s.poison := rfl
@[simp] theorem logAdd_wins (s : State) (code src sev arg : Nat) : (logAdd s code src sev arg).wins = s.wins := rfl
@[simp] theorem logAdd_resident (s : State) (code src sev arg : Nat) : (logAdd s code src sev arg).resident = s.resident := rfl
@[simp] theorem logAdd_pools (s : State) (code src sev arg : Nat) : (logAdd s code src sev arg).pools = s.pools := rfl
@[simp] theorem logAdd_parts (s : State) (code src sev arg : Nat) : (logAdd s code src sev arg).parts = s.parts := rfl
@[simp] theorem logAdd_leekUp (s : State) (code src sev arg : Nat) : (logAdd s code src sev arg).leekUp = s.leekUp := rfl
@[simp] theorem logAdd_streams (s : State) (code src sev arg : Nat) : (logAdd s code src sev arg).streams = s.streams := rfl
@[simp] theorem logAdd_admitSeq (s : State) (code src sev arg : Nat) : (logAdd s code src sev arg).admitSeq = s.admitSeq := rfl
@[simp] theorem logAdd_spool (s : State) (code src sev arg : Nat) : (logAdd s code src sev arg).spool = s.spool := rfl
@[simp] theorem logAdd_pairs (s : State) (code src sev arg : Nat) : (logAdd s code src sev arg).pairs = s.pairs := rfl
@[simp] theorem logAdd_lastPair (s : State) (code src sev arg : Nat) : (logAdd s code src sev arg).lastPair = s.lastPair := rfl
@[simp] theorem logAdd_works (s : State) (code src sev arg : Nat) : (logAdd s code src sev arg).works = s.works := rfl
@[simp] theorem logAdd_nextWid (s : State) (code src sev arg : Nat) : (logAdd s code src sev arg).nextWid = s.nextWid := rfl
@[simp] theorem logAdd_slots (s : State) (code src sev arg : Nat) : (logAdd s code src sev arg).slots = s.slots := rfl
@[simp] theorem logAdd_staging (s : State) (code src sev arg : Nat) : (logAdd s code src sev arg).staging = s.staging := rfl
@[simp] theorem logAdd_shedAt (s : State) (code src sev arg : Nat) : (logAdd s code src sev arg).shedAt = s.shedAt := rfl
@[simp] theorem logAdd_restoredAt (s : State) (code src sev arg : Nat) : (logAdd s code src sev arg).restoredAt = s.restoredAt := rfl
@[simp] theorem logAdd_hold3 (s : State) (code src sev arg : Nat) : (logAdd s code src sev arg).hold3 = s.hold3 := rfl
@[simp] theorem logAdd_endedOps (s : State) (code src sev arg : Nat) : (logAdd s code src sev arg).endedOps = s.endedOps := rfl
@[simp] theorem logAdd_cams (s : State) (code src sev arg : Nat) : (logAdd s code src sev arg).cams = s.cams := rfl
@[simp] theorem logAdd_encs (s : State) (code src sev arg : Nat) : (logAdd s code src sev arg).encs = s.encs := rfl
@[simp] theorem logAdd_odo (s : State) (code src sev arg : Nat) : (logAdd s code src sev arg).odo = s.odo := rfl
@[simp] theorem logAdd_chans (s : State) (code src sev arg : Nat) : (logAdd s code src sev arg).chans = s.chans := rfl
@[simp] theorem logAdd_groups (s : State) (code src sev arg : Nat) : (logAdd s code src sev arg).groups = s.groups := rfl
@[simp] theorem logAdd_trackSerial (s : State) (code src sev arg : Nat) : (logAdd s code src sev arg).trackSerial = s.trackSerial := rfl
@[simp] theorem logAdd_disps (s : State) (code src sev arg : Nat) : (logAdd s code src sev arg).disps = s.disps := rfl
@[simp] theorem logAdd_fab (s : State) (code src sev arg : Nat) : (logAdd s code src sev arg).fab = s.fab := rfl
@[simp] theorem logAdd_boot (s : State) (code src sev arg : Nat) : (logAdd s code src sev arg).boot = s.boot := rfl
@[simp] theorem logAdd_pods (s : State) (code src sev arg : Nat) : (logAdd s code src sev arg).pods = s.pods := rfl
@[simp] theorem logAdd_pins (s : State) (code src sev arg : Nat) : (logAdd s code src sev arg).pins = s.pins := rfl
@[simp] theorem logAdd_power (s : State) (code src sev arg : Nat) : (logAdd s code src sev arg).power = s.power := rfl
@[simp] theorem logAdd_cons (s : State) (code src sev arg : Nat) : (logAdd s code src sev arg).cons = s.cons := rfl
@[simp] theorem logAdd_snap (s : State) (code src sev arg : Nat) : (logAdd s code src sev arg).snap = s.snap := rfl
@[simp] theorem logAdd_tokens (s : State) (code src sev arg : Nat) : (logAdd s code src sev arg).tokens = s.tokens := rfl
@[simp] theorem logAdd_sec (s : State) (code src sev arg : Nat) : (logAdd s code src sev arg).sec = s.sec := rfl
@[simp] theorem logAdd_rrp (s : State) (code src sev arg : Nat) : (logAdd s code src sev arg).rrp = s.rrp := rfl
@[simp] theorem logAdd_eth (s : State) (code src sev arg : Nat) : (logAdd s code src sev arg).eth = s.eth := rfl
@[simp] theorem logAdd_ddr (s : State) (code src sev arg : Nat) : (logAdd s code src sev arg).ddr = s.ddr := rfl
@[simp] theorem logAdd_out (s : State) (code src sev arg : Nat) : (logAdd s code src sev arg).out = s.out := rfl
@[simp] theorem logAdd_freeNo (s : State) (code src sev arg : Nat) : (logAdd s code src sev arg).freeNo = s.freeNo := rfl
@[simp] theorem regGet_logAdd (s : State) (code src sev arg : Nat) (r : Nat) : regGet (logAdd s code src sev arg) r = regGet s r := rfl

@[simp] theorem logAdd2_pending (s : State) (code src sev arg c d : Nat) : (logAdd2 s code src sev arg c d).pending = s.pending := rfl
@[simp] theorem logAdd2_time (s : State) (code src sev arg c d : Nat) : (logAdd2 s code src sev arg c d).time = s.time := rfl
@[simp] theorem logAdd2_elapsed (s : State) (code src sev arg c d : Nat) : (logAdd2 s code src sev arg c d).elapsed = s.elapsed := rfl
@[simp] theorem logAdd2_regs (s : State) (code src sev arg c d : Nat) : (logAdd2 s code src sev arg c d).regs = s.regs := rfl
@[simp] theorem logAdd2_held (s : State) (code src sev arg c d : Nat) : (logAdd2 s code src sev arg c d).held = s.held := rfl
@[simp] theorem logAdd2_capture (s : State) (code src sev arg c d : Nat) : (logAdd2 s code src sev arg c d).capture = s.capture := rfl
@[simp] theorem logAdd2_shadow (s : State) (code src sev arg c d : Nat) : (logAdd2 s code src sev arg c d).shadow = s.shadow := rfl
@[simp] theorem logAdd2_resp (s : State) (code src sev arg c d : Nat) : (logAdd2 s code src sev arg c d).resp = s.resp := rfl
@[simp] theorem logAdd2_mem (s : State) (code src sev arg c d : Nat) : (logAdd2 s code src sev arg c d).mem = s.mem := rfl
@[simp] theorem logAdd2_poison (s : State) (code src sev arg c d : Nat) : (logAdd2 s code src sev arg c d).poison = s.poison := rfl
@[simp] theorem logAdd2_wins (s : State) (code src sev arg c d : Nat) : (logAdd2 s code src sev arg c d).wins = s.wins := rfl
@[simp] theorem logAdd2_resident (s : State) (code src sev arg c d : Nat) : (logAdd2 s code src sev arg c d).resident = s.resident := rfl
@[simp] theorem logAdd2_pools (s : State) (code src sev arg c d : Nat) : (logAdd2 s code src sev arg c d).pools = s.pools := rfl
@[simp] theorem logAdd2_parts (s : State) (code src sev arg c d : Nat) : (logAdd2 s code src sev arg c d).parts = s.parts := rfl
@[simp] theorem logAdd2_leekUp (s : State) (code src sev arg c d : Nat) : (logAdd2 s code src sev arg c d).leekUp = s.leekUp := rfl
@[simp] theorem logAdd2_streams (s : State) (code src sev arg c d : Nat) : (logAdd2 s code src sev arg c d).streams = s.streams := rfl
@[simp] theorem logAdd2_admitSeq (s : State) (code src sev arg c d : Nat) : (logAdd2 s code src sev arg c d).admitSeq = s.admitSeq := rfl
@[simp] theorem logAdd2_spool (s : State) (code src sev arg c d : Nat) : (logAdd2 s code src sev arg c d).spool = s.spool := rfl
@[simp] theorem logAdd2_pairs (s : State) (code src sev arg c d : Nat) : (logAdd2 s code src sev arg c d).pairs = s.pairs := rfl
@[simp] theorem logAdd2_lastPair (s : State) (code src sev arg c d : Nat) : (logAdd2 s code src sev arg c d).lastPair = s.lastPair := rfl
@[simp] theorem logAdd2_works (s : State) (code src sev arg c d : Nat) : (logAdd2 s code src sev arg c d).works = s.works := rfl
@[simp] theorem logAdd2_nextWid (s : State) (code src sev arg c d : Nat) : (logAdd2 s code src sev arg c d).nextWid = s.nextWid := rfl
@[simp] theorem logAdd2_slots (s : State) (code src sev arg c d : Nat) : (logAdd2 s code src sev arg c d).slots = s.slots := rfl
@[simp] theorem logAdd2_staging (s : State) (code src sev arg c d : Nat) : (logAdd2 s code src sev arg c d).staging = s.staging := rfl
@[simp] theorem logAdd2_shedAt (s : State) (code src sev arg c d : Nat) : (logAdd2 s code src sev arg c d).shedAt = s.shedAt := rfl
@[simp] theorem logAdd2_restoredAt (s : State) (code src sev arg c d : Nat) : (logAdd2 s code src sev arg c d).restoredAt = s.restoredAt := rfl
@[simp] theorem logAdd2_hold3 (s : State) (code src sev arg c d : Nat) : (logAdd2 s code src sev arg c d).hold3 = s.hold3 := rfl
@[simp] theorem logAdd2_endedOps (s : State) (code src sev arg c d : Nat) : (logAdd2 s code src sev arg c d).endedOps = s.endedOps := rfl
@[simp] theorem logAdd2_cams (s : State) (code src sev arg c d : Nat) : (logAdd2 s code src sev arg c d).cams = s.cams := rfl
@[simp] theorem logAdd2_encs (s : State) (code src sev arg c d : Nat) : (logAdd2 s code src sev arg c d).encs = s.encs := rfl
@[simp] theorem logAdd2_odo (s : State) (code src sev arg c d : Nat) : (logAdd2 s code src sev arg c d).odo = s.odo := rfl
@[simp] theorem logAdd2_chans (s : State) (code src sev arg c d : Nat) : (logAdd2 s code src sev arg c d).chans = s.chans := rfl
@[simp] theorem logAdd2_groups (s : State) (code src sev arg c d : Nat) : (logAdd2 s code src sev arg c d).groups = s.groups := rfl
@[simp] theorem logAdd2_trackSerial (s : State) (code src sev arg c d : Nat) : (logAdd2 s code src sev arg c d).trackSerial = s.trackSerial := rfl
@[simp] theorem logAdd2_disps (s : State) (code src sev arg c d : Nat) : (logAdd2 s code src sev arg c d).disps = s.disps := rfl
@[simp] theorem logAdd2_fab (s : State) (code src sev arg c d : Nat) : (logAdd2 s code src sev arg c d).fab = s.fab := rfl
@[simp] theorem logAdd2_boot (s : State) (code src sev arg c d : Nat) : (logAdd2 s code src sev arg c d).boot = s.boot := rfl
@[simp] theorem logAdd2_pods (s : State) (code src sev arg c d : Nat) : (logAdd2 s code src sev arg c d).pods = s.pods := rfl
@[simp] theorem logAdd2_pins (s : State) (code src sev arg c d : Nat) : (logAdd2 s code src sev arg c d).pins = s.pins := rfl
@[simp] theorem logAdd2_power (s : State) (code src sev arg c d : Nat) : (logAdd2 s code src sev arg c d).power = s.power := rfl
@[simp] theorem logAdd2_cons (s : State) (code src sev arg c d : Nat) : (logAdd2 s code src sev arg c d).cons = s.cons := rfl
@[simp] theorem logAdd2_snap (s : State) (code src sev arg c d : Nat) : (logAdd2 s code src sev arg c d).snap = s.snap := rfl
@[simp] theorem logAdd2_tokens (s : State) (code src sev arg c d : Nat) : (logAdd2 s code src sev arg c d).tokens = s.tokens := rfl
@[simp] theorem logAdd2_sec (s : State) (code src sev arg c d : Nat) : (logAdd2 s code src sev arg c d).sec = s.sec := rfl
@[simp] theorem logAdd2_rrp (s : State) (code src sev arg c d : Nat) : (logAdd2 s code src sev arg c d).rrp = s.rrp := rfl
@[simp] theorem logAdd2_eth (s : State) (code src sev arg c d : Nat) : (logAdd2 s code src sev arg c d).eth = s.eth := rfl
@[simp] theorem logAdd2_ddr (s : State) (code src sev arg c d : Nat) : (logAdd2 s code src sev arg c d).ddr = s.ddr := rfl
@[simp] theorem logAdd2_out (s : State) (code src sev arg c d : Nat) : (logAdd2 s code src sev arg c d).out = s.out := rfl
@[simp] theorem logAdd2_freeNo (s : State) (code src sev arg c d : Nat) : (logAdd2 s code src sev arg c d).freeNo = s.freeNo := rfl
@[simp] theorem regGet_logAdd2 (s : State) (code src sev arg c d : Nat) (r : Nat) : regGet (logAdd2 s code src sev arg c d) r = regGet s r := rfl

@[simp] theorem logRefused_pending (s : State) (w : Writer) (addr : Nat) (v : Word) : (logRefused s w addr v).pending = s.pending := rfl
@[simp] theorem logRefused_time (s : State) (w : Writer) (addr : Nat) (v : Word) : (logRefused s w addr v).time = s.time := rfl
@[simp] theorem logRefused_elapsed (s : State) (w : Writer) (addr : Nat) (v : Word) : (logRefused s w addr v).elapsed = s.elapsed := rfl
@[simp] theorem logRefused_regs (s : State) (w : Writer) (addr : Nat) (v : Word) : (logRefused s w addr v).regs = s.regs := rfl
@[simp] theorem logRefused_held (s : State) (w : Writer) (addr : Nat) (v : Word) : (logRefused s w addr v).held = s.held := rfl
@[simp] theorem logRefused_capture (s : State) (w : Writer) (addr : Nat) (v : Word) : (logRefused s w addr v).capture = s.capture := rfl
@[simp] theorem logRefused_shadow (s : State) (w : Writer) (addr : Nat) (v : Word) : (logRefused s w addr v).shadow = s.shadow := rfl
@[simp] theorem logRefused_resp (s : State) (w : Writer) (addr : Nat) (v : Word) : (logRefused s w addr v).resp = s.resp := rfl
@[simp] theorem logRefused_mem (s : State) (w : Writer) (addr : Nat) (v : Word) : (logRefused s w addr v).mem = s.mem := rfl
@[simp] theorem logRefused_poison (s : State) (w : Writer) (addr : Nat) (v : Word) : (logRefused s w addr v).poison = s.poison := rfl
@[simp] theorem logRefused_wins (s : State) (w : Writer) (addr : Nat) (v : Word) : (logRefused s w addr v).wins = s.wins := rfl
@[simp] theorem logRefused_resident (s : State) (w : Writer) (addr : Nat) (v : Word) : (logRefused s w addr v).resident = s.resident := rfl
@[simp] theorem logRefused_pools (s : State) (w : Writer) (addr : Nat) (v : Word) : (logRefused s w addr v).pools = s.pools := rfl
@[simp] theorem logRefused_parts (s : State) (w : Writer) (addr : Nat) (v : Word) : (logRefused s w addr v).parts = s.parts := rfl
@[simp] theorem logRefused_leekUp (s : State) (w : Writer) (addr : Nat) (v : Word) : (logRefused s w addr v).leekUp = s.leekUp := rfl
@[simp] theorem logRefused_streams (s : State) (w : Writer) (addr : Nat) (v : Word) : (logRefused s w addr v).streams = s.streams := rfl
@[simp] theorem logRefused_admitSeq (s : State) (w : Writer) (addr : Nat) (v : Word) : (logRefused s w addr v).admitSeq = s.admitSeq := rfl
@[simp] theorem logRefused_spool (s : State) (w : Writer) (addr : Nat) (v : Word) : (logRefused s w addr v).spool = s.spool := rfl
@[simp] theorem logRefused_pairs (s : State) (w : Writer) (addr : Nat) (v : Word) : (logRefused s w addr v).pairs = s.pairs := rfl
@[simp] theorem logRefused_lastPair (s : State) (w : Writer) (addr : Nat) (v : Word) : (logRefused s w addr v).lastPair = s.lastPair := rfl
@[simp] theorem logRefused_works (s : State) (w : Writer) (addr : Nat) (v : Word) : (logRefused s w addr v).works = s.works := rfl
@[simp] theorem logRefused_nextWid (s : State) (w : Writer) (addr : Nat) (v : Word) : (logRefused s w addr v).nextWid = s.nextWid := rfl
@[simp] theorem logRefused_slots (s : State) (w : Writer) (addr : Nat) (v : Word) : (logRefused s w addr v).slots = s.slots := rfl
@[simp] theorem logRefused_staging (s : State) (w : Writer) (addr : Nat) (v : Word) : (logRefused s w addr v).staging = s.staging := rfl
@[simp] theorem logRefused_shedAt (s : State) (w : Writer) (addr : Nat) (v : Word) : (logRefused s w addr v).shedAt = s.shedAt := rfl
@[simp] theorem logRefused_restoredAt (s : State) (w : Writer) (addr : Nat) (v : Word) : (logRefused s w addr v).restoredAt = s.restoredAt := rfl
@[simp] theorem logRefused_hold3 (s : State) (w : Writer) (addr : Nat) (v : Word) : (logRefused s w addr v).hold3 = s.hold3 := rfl
@[simp] theorem logRefused_endedOps (s : State) (w : Writer) (addr : Nat) (v : Word) : (logRefused s w addr v).endedOps = s.endedOps := rfl
@[simp] theorem logRefused_cams (s : State) (w : Writer) (addr : Nat) (v : Word) : (logRefused s w addr v).cams = s.cams := rfl
@[simp] theorem logRefused_encs (s : State) (w : Writer) (addr : Nat) (v : Word) : (logRefused s w addr v).encs = s.encs := rfl
@[simp] theorem logRefused_odo (s : State) (w : Writer) (addr : Nat) (v : Word) : (logRefused s w addr v).odo = s.odo := rfl
@[simp] theorem logRefused_chans (s : State) (w : Writer) (addr : Nat) (v : Word) : (logRefused s w addr v).chans = s.chans := rfl
@[simp] theorem logRefused_groups (s : State) (w : Writer) (addr : Nat) (v : Word) : (logRefused s w addr v).groups = s.groups := rfl
@[simp] theorem logRefused_trackSerial (s : State) (w : Writer) (addr : Nat) (v : Word) : (logRefused s w addr v).trackSerial = s.trackSerial := rfl
@[simp] theorem logRefused_disps (s : State) (w : Writer) (addr : Nat) (v : Word) : (logRefused s w addr v).disps = s.disps := rfl
@[simp] theorem logRefused_fab (s : State) (w : Writer) (addr : Nat) (v : Word) : (logRefused s w addr v).fab = s.fab := rfl
@[simp] theorem logRefused_boot (s : State) (w : Writer) (addr : Nat) (v : Word) : (logRefused s w addr v).boot = s.boot := rfl
@[simp] theorem logRefused_pods (s : State) (w : Writer) (addr : Nat) (v : Word) : (logRefused s w addr v).pods = s.pods := rfl
@[simp] theorem logRefused_pins (s : State) (w : Writer) (addr : Nat) (v : Word) : (logRefused s w addr v).pins = s.pins := rfl
@[simp] theorem logRefused_power (s : State) (w : Writer) (addr : Nat) (v : Word) : (logRefused s w addr v).power = s.power := rfl
@[simp] theorem logRefused_cons (s : State) (w : Writer) (addr : Nat) (v : Word) : (logRefused s w addr v).cons = s.cons := rfl
@[simp] theorem logRefused_snap (s : State) (w : Writer) (addr : Nat) (v : Word) : (logRefused s w addr v).snap = s.snap := rfl
@[simp] theorem logRefused_tokens (s : State) (w : Writer) (addr : Nat) (v : Word) : (logRefused s w addr v).tokens = s.tokens := rfl
@[simp] theorem logRefused_sec (s : State) (w : Writer) (addr : Nat) (v : Word) : (logRefused s w addr v).sec = s.sec := rfl
@[simp] theorem logRefused_rrp (s : State) (w : Writer) (addr : Nat) (v : Word) : (logRefused s w addr v).rrp = s.rrp := rfl
@[simp] theorem logRefused_eth (s : State) (w : Writer) (addr : Nat) (v : Word) : (logRefused s w addr v).eth = s.eth := rfl
@[simp] theorem logRefused_ddr (s : State) (w : Writer) (addr : Nat) (v : Word) : (logRefused s w addr v).ddr = s.ddr := rfl
@[simp] theorem logRefused_out (s : State) (w : Writer) (addr : Nat) (v : Word) : (logRefused s w addr v).out = s.out := rfl
@[simp] theorem logRefused_freeNo (s : State) (w : Writer) (addr : Nat) (v : Word) : (logRefused s w addr v).freeNo = s.freeNo := rfl
@[simp] theorem regGet_logRefused (s : State) (w : Writer) (addr : Nat) (v : Word) (r : Nat) : regGet (logRefused s w addr v) r = regGet s r := rfl

@[simp] theorem consIssue_pending (s : State) (i n : Nat) : (consIssue s i n).pending = s.pending := rfl
@[simp] theorem consIssue_time (s : State) (i n : Nat) : (consIssue s i n).time = s.time := rfl
@[simp] theorem consIssue_elapsed (s : State) (i n : Nat) : (consIssue s i n).elapsed = s.elapsed := rfl
@[simp] theorem consIssue_regs (s : State) (i n : Nat) : (consIssue s i n).regs = s.regs := rfl
@[simp] theorem consIssue_held (s : State) (i n : Nat) : (consIssue s i n).held = s.held := rfl
@[simp] theorem consIssue_capture (s : State) (i n : Nat) : (consIssue s i n).capture = s.capture := rfl
@[simp] theorem consIssue_shadow (s : State) (i n : Nat) : (consIssue s i n).shadow = s.shadow := rfl
@[simp] theorem consIssue_resp (s : State) (i n : Nat) : (consIssue s i n).resp = s.resp := rfl
@[simp] theorem consIssue_mem (s : State) (i n : Nat) : (consIssue s i n).mem = s.mem := rfl
@[simp] theorem consIssue_poison (s : State) (i n : Nat) : (consIssue s i n).poison = s.poison := rfl
@[simp] theorem consIssue_log (s : State) (i n : Nat) : (consIssue s i n).log = s.log := rfl
@[simp] theorem consIssue_logHead (s : State) (i n : Nat) : (consIssue s i n).logHead = s.logHead := rfl
@[simp] theorem consIssue_wins (s : State) (i n : Nat) : (consIssue s i n).wins = s.wins := rfl
@[simp] theorem consIssue_resident (s : State) (i n : Nat) : (consIssue s i n).resident = s.resident := rfl
@[simp] theorem consIssue_pools (s : State) (i n : Nat) : (consIssue s i n).pools = s.pools := rfl
@[simp] theorem consIssue_parts (s : State) (i n : Nat) : (consIssue s i n).parts = s.parts := rfl
@[simp] theorem consIssue_leekUp (s : State) (i n : Nat) : (consIssue s i n).leekUp = s.leekUp := rfl
@[simp] theorem consIssue_streams (s : State) (i n : Nat) : (consIssue s i n).streams = s.streams := rfl
@[simp] theorem consIssue_admitSeq (s : State) (i n : Nat) : (consIssue s i n).admitSeq = s.admitSeq := rfl
@[simp] theorem consIssue_spool (s : State) (i n : Nat) : (consIssue s i n).spool = s.spool := rfl
@[simp] theorem consIssue_pairs (s : State) (i n : Nat) : (consIssue s i n).pairs = s.pairs := rfl
@[simp] theorem consIssue_lastPair (s : State) (i n : Nat) : (consIssue s i n).lastPair = s.lastPair := rfl
@[simp] theorem consIssue_works (s : State) (i n : Nat) : (consIssue s i n).works = s.works := rfl
@[simp] theorem consIssue_nextWid (s : State) (i n : Nat) : (consIssue s i n).nextWid = s.nextWid := rfl
@[simp] theorem consIssue_slots (s : State) (i n : Nat) : (consIssue s i n).slots = s.slots := rfl
@[simp] theorem consIssue_staging (s : State) (i n : Nat) : (consIssue s i n).staging = s.staging := rfl
@[simp] theorem consIssue_shedAt (s : State) (i n : Nat) : (consIssue s i n).shedAt = s.shedAt := rfl
@[simp] theorem consIssue_restoredAt (s : State) (i n : Nat) : (consIssue s i n).restoredAt = s.restoredAt := rfl
@[simp] theorem consIssue_hold3 (s : State) (i n : Nat) : (consIssue s i n).hold3 = s.hold3 := rfl
@[simp] theorem consIssue_endedOps (s : State) (i n : Nat) : (consIssue s i n).endedOps = s.endedOps := rfl
@[simp] theorem consIssue_cams (s : State) (i n : Nat) : (consIssue s i n).cams = s.cams := rfl
@[simp] theorem consIssue_encs (s : State) (i n : Nat) : (consIssue s i n).encs = s.encs := rfl
@[simp] theorem consIssue_odo (s : State) (i n : Nat) : (consIssue s i n).odo = s.odo := rfl
@[simp] theorem consIssue_chans (s : State) (i n : Nat) : (consIssue s i n).chans = s.chans := rfl
@[simp] theorem consIssue_groups (s : State) (i n : Nat) : (consIssue s i n).groups = s.groups := rfl
@[simp] theorem consIssue_trackSerial (s : State) (i n : Nat) : (consIssue s i n).trackSerial = s.trackSerial := rfl
@[simp] theorem consIssue_disps (s : State) (i n : Nat) : (consIssue s i n).disps = s.disps := rfl
@[simp] theorem consIssue_fab (s : State) (i n : Nat) : (consIssue s i n).fab = s.fab := rfl
@[simp] theorem consIssue_boot (s : State) (i n : Nat) : (consIssue s i n).boot = s.boot := rfl
@[simp] theorem consIssue_pods (s : State) (i n : Nat) : (consIssue s i n).pods = s.pods := rfl
@[simp] theorem consIssue_pins (s : State) (i n : Nat) : (consIssue s i n).pins = s.pins := rfl
@[simp] theorem consIssue_power (s : State) (i n : Nat) : (consIssue s i n).power = s.power := rfl
@[simp] theorem consIssue_snap (s : State) (i n : Nat) : (consIssue s i n).snap = s.snap := rfl
@[simp] theorem consIssue_tokens (s : State) (i n : Nat) : (consIssue s i n).tokens = s.tokens := rfl
@[simp] theorem consIssue_sec (s : State) (i n : Nat) : (consIssue s i n).sec = s.sec := rfl
@[simp] theorem consIssue_rrp (s : State) (i n : Nat) : (consIssue s i n).rrp = s.rrp := rfl
@[simp] theorem consIssue_eth (s : State) (i n : Nat) : (consIssue s i n).eth = s.eth := rfl
@[simp] theorem consIssue_ddr (s : State) (i n : Nat) : (consIssue s i n).ddr = s.ddr := rfl
@[simp] theorem consIssue_out (s : State) (i n : Nat) : (consIssue s i n).out = s.out := rfl
@[simp] theorem consIssue_freeNo (s : State) (i n : Nat) : (consIssue s i n).freeNo = s.freeNo := rfl
@[simp] theorem regGet_consIssue (s : State) (i n : Nat) (r : Nat) : regGet (consIssue s i n) r = regGet s r := rfl

@[simp] theorem consReturn_pending (s : State) (i n : Nat) : (consReturn s i n).pending = s.pending := rfl
@[simp] theorem consReturn_time (s : State) (i n : Nat) : (consReturn s i n).time = s.time := rfl
@[simp] theorem consReturn_elapsed (s : State) (i n : Nat) : (consReturn s i n).elapsed = s.elapsed := rfl
@[simp] theorem consReturn_regs (s : State) (i n : Nat) : (consReturn s i n).regs = s.regs := rfl
@[simp] theorem consReturn_held (s : State) (i n : Nat) : (consReturn s i n).held = s.held := rfl
@[simp] theorem consReturn_capture (s : State) (i n : Nat) : (consReturn s i n).capture = s.capture := rfl
@[simp] theorem consReturn_shadow (s : State) (i n : Nat) : (consReturn s i n).shadow = s.shadow := rfl
@[simp] theorem consReturn_resp (s : State) (i n : Nat) : (consReturn s i n).resp = s.resp := rfl
@[simp] theorem consReturn_mem (s : State) (i n : Nat) : (consReturn s i n).mem = s.mem := rfl
@[simp] theorem consReturn_poison (s : State) (i n : Nat) : (consReturn s i n).poison = s.poison := rfl
@[simp] theorem consReturn_log (s : State) (i n : Nat) : (consReturn s i n).log = s.log := rfl
@[simp] theorem consReturn_logHead (s : State) (i n : Nat) : (consReturn s i n).logHead = s.logHead := rfl
@[simp] theorem consReturn_wins (s : State) (i n : Nat) : (consReturn s i n).wins = s.wins := rfl
@[simp] theorem consReturn_resident (s : State) (i n : Nat) : (consReturn s i n).resident = s.resident := rfl
@[simp] theorem consReturn_pools (s : State) (i n : Nat) : (consReturn s i n).pools = s.pools := rfl
@[simp] theorem consReturn_parts (s : State) (i n : Nat) : (consReturn s i n).parts = s.parts := rfl
@[simp] theorem consReturn_leekUp (s : State) (i n : Nat) : (consReturn s i n).leekUp = s.leekUp := rfl
@[simp] theorem consReturn_streams (s : State) (i n : Nat) : (consReturn s i n).streams = s.streams := rfl
@[simp] theorem consReturn_admitSeq (s : State) (i n : Nat) : (consReturn s i n).admitSeq = s.admitSeq := rfl
@[simp] theorem consReturn_spool (s : State) (i n : Nat) : (consReturn s i n).spool = s.spool := rfl
@[simp] theorem consReturn_pairs (s : State) (i n : Nat) : (consReturn s i n).pairs = s.pairs := rfl
@[simp] theorem consReturn_lastPair (s : State) (i n : Nat) : (consReturn s i n).lastPair = s.lastPair := rfl
@[simp] theorem consReturn_works (s : State) (i n : Nat) : (consReturn s i n).works = s.works := rfl
@[simp] theorem consReturn_nextWid (s : State) (i n : Nat) : (consReturn s i n).nextWid = s.nextWid := rfl
@[simp] theorem consReturn_slots (s : State) (i n : Nat) : (consReturn s i n).slots = s.slots := rfl
@[simp] theorem consReturn_staging (s : State) (i n : Nat) : (consReturn s i n).staging = s.staging := rfl
@[simp] theorem consReturn_shedAt (s : State) (i n : Nat) : (consReturn s i n).shedAt = s.shedAt := rfl
@[simp] theorem consReturn_restoredAt (s : State) (i n : Nat) : (consReturn s i n).restoredAt = s.restoredAt := rfl
@[simp] theorem consReturn_hold3 (s : State) (i n : Nat) : (consReturn s i n).hold3 = s.hold3 := rfl
@[simp] theorem consReturn_endedOps (s : State) (i n : Nat) : (consReturn s i n).endedOps = s.endedOps := rfl
@[simp] theorem consReturn_cams (s : State) (i n : Nat) : (consReturn s i n).cams = s.cams := rfl
@[simp] theorem consReturn_encs (s : State) (i n : Nat) : (consReturn s i n).encs = s.encs := rfl
@[simp] theorem consReturn_odo (s : State) (i n : Nat) : (consReturn s i n).odo = s.odo := rfl
@[simp] theorem consReturn_chans (s : State) (i n : Nat) : (consReturn s i n).chans = s.chans := rfl
@[simp] theorem consReturn_groups (s : State) (i n : Nat) : (consReturn s i n).groups = s.groups := rfl
@[simp] theorem consReturn_trackSerial (s : State) (i n : Nat) : (consReturn s i n).trackSerial = s.trackSerial := rfl
@[simp] theorem consReturn_disps (s : State) (i n : Nat) : (consReturn s i n).disps = s.disps := rfl
@[simp] theorem consReturn_fab (s : State) (i n : Nat) : (consReturn s i n).fab = s.fab := rfl
@[simp] theorem consReturn_boot (s : State) (i n : Nat) : (consReturn s i n).boot = s.boot := rfl
@[simp] theorem consReturn_pods (s : State) (i n : Nat) : (consReturn s i n).pods = s.pods := rfl
@[simp] theorem consReturn_pins (s : State) (i n : Nat) : (consReturn s i n).pins = s.pins := rfl
@[simp] theorem consReturn_power (s : State) (i n : Nat) : (consReturn s i n).power = s.power := rfl
@[simp] theorem consReturn_snap (s : State) (i n : Nat) : (consReturn s i n).snap = s.snap := rfl
@[simp] theorem consReturn_tokens (s : State) (i n : Nat) : (consReturn s i n).tokens = s.tokens := rfl
@[simp] theorem consReturn_sec (s : State) (i n : Nat) : (consReturn s i n).sec = s.sec := rfl
@[simp] theorem consReturn_rrp (s : State) (i n : Nat) : (consReturn s i n).rrp = s.rrp := rfl
@[simp] theorem consReturn_eth (s : State) (i n : Nat) : (consReturn s i n).eth = s.eth := rfl
@[simp] theorem consReturn_ddr (s : State) (i n : Nat) : (consReturn s i n).ddr = s.ddr := rfl
@[simp] theorem consReturn_out (s : State) (i n : Nat) : (consReturn s i n).out = s.out := rfl
@[simp] theorem consReturn_freeNo (s : State) (i n : Nat) : (consReturn s i n).freeNo = s.freeNo := rfl
@[simp] theorem regGet_consReturn (s : State) (i n : Nat) (r : Nat) : regGet (consReturn s i n) r = regGet s r := rfl

@[simp] theorem consCap_pending (s : State) (i n : Nat) : (consCap s i n).pending = s.pending := rfl
@[simp] theorem consCap_time (s : State) (i n : Nat) : (consCap s i n).time = s.time := rfl
@[simp] theorem consCap_elapsed (s : State) (i n : Nat) : (consCap s i n).elapsed = s.elapsed := rfl
@[simp] theorem consCap_regs (s : State) (i n : Nat) : (consCap s i n).regs = s.regs := rfl
@[simp] theorem consCap_held (s : State) (i n : Nat) : (consCap s i n).held = s.held := rfl
@[simp] theorem consCap_capture (s : State) (i n : Nat) : (consCap s i n).capture = s.capture := rfl
@[simp] theorem consCap_shadow (s : State) (i n : Nat) : (consCap s i n).shadow = s.shadow := rfl
@[simp] theorem consCap_resp (s : State) (i n : Nat) : (consCap s i n).resp = s.resp := rfl
@[simp] theorem consCap_mem (s : State) (i n : Nat) : (consCap s i n).mem = s.mem := rfl
@[simp] theorem consCap_poison (s : State) (i n : Nat) : (consCap s i n).poison = s.poison := rfl
@[simp] theorem consCap_log (s : State) (i n : Nat) : (consCap s i n).log = s.log := rfl
@[simp] theorem consCap_logHead (s : State) (i n : Nat) : (consCap s i n).logHead = s.logHead := rfl
@[simp] theorem consCap_wins (s : State) (i n : Nat) : (consCap s i n).wins = s.wins := rfl
@[simp] theorem consCap_resident (s : State) (i n : Nat) : (consCap s i n).resident = s.resident := rfl
@[simp] theorem consCap_pools (s : State) (i n : Nat) : (consCap s i n).pools = s.pools := rfl
@[simp] theorem consCap_parts (s : State) (i n : Nat) : (consCap s i n).parts = s.parts := rfl
@[simp] theorem consCap_leekUp (s : State) (i n : Nat) : (consCap s i n).leekUp = s.leekUp := rfl
@[simp] theorem consCap_streams (s : State) (i n : Nat) : (consCap s i n).streams = s.streams := rfl
@[simp] theorem consCap_admitSeq (s : State) (i n : Nat) : (consCap s i n).admitSeq = s.admitSeq := rfl
@[simp] theorem consCap_spool (s : State) (i n : Nat) : (consCap s i n).spool = s.spool := rfl
@[simp] theorem consCap_pairs (s : State) (i n : Nat) : (consCap s i n).pairs = s.pairs := rfl
@[simp] theorem consCap_lastPair (s : State) (i n : Nat) : (consCap s i n).lastPair = s.lastPair := rfl
@[simp] theorem consCap_works (s : State) (i n : Nat) : (consCap s i n).works = s.works := rfl
@[simp] theorem consCap_nextWid (s : State) (i n : Nat) : (consCap s i n).nextWid = s.nextWid := rfl
@[simp] theorem consCap_slots (s : State) (i n : Nat) : (consCap s i n).slots = s.slots := rfl
@[simp] theorem consCap_staging (s : State) (i n : Nat) : (consCap s i n).staging = s.staging := rfl
@[simp] theorem consCap_shedAt (s : State) (i n : Nat) : (consCap s i n).shedAt = s.shedAt := rfl
@[simp] theorem consCap_restoredAt (s : State) (i n : Nat) : (consCap s i n).restoredAt = s.restoredAt := rfl
@[simp] theorem consCap_hold3 (s : State) (i n : Nat) : (consCap s i n).hold3 = s.hold3 := rfl
@[simp] theorem consCap_endedOps (s : State) (i n : Nat) : (consCap s i n).endedOps = s.endedOps := rfl
@[simp] theorem consCap_cams (s : State) (i n : Nat) : (consCap s i n).cams = s.cams := rfl
@[simp] theorem consCap_encs (s : State) (i n : Nat) : (consCap s i n).encs = s.encs := rfl
@[simp] theorem consCap_odo (s : State) (i n : Nat) : (consCap s i n).odo = s.odo := rfl
@[simp] theorem consCap_chans (s : State) (i n : Nat) : (consCap s i n).chans = s.chans := rfl
@[simp] theorem consCap_groups (s : State) (i n : Nat) : (consCap s i n).groups = s.groups := rfl
@[simp] theorem consCap_trackSerial (s : State) (i n : Nat) : (consCap s i n).trackSerial = s.trackSerial := rfl
@[simp] theorem consCap_disps (s : State) (i n : Nat) : (consCap s i n).disps = s.disps := rfl
@[simp] theorem consCap_fab (s : State) (i n : Nat) : (consCap s i n).fab = s.fab := rfl
@[simp] theorem consCap_boot (s : State) (i n : Nat) : (consCap s i n).boot = s.boot := rfl
@[simp] theorem consCap_pods (s : State) (i n : Nat) : (consCap s i n).pods = s.pods := rfl
@[simp] theorem consCap_pins (s : State) (i n : Nat) : (consCap s i n).pins = s.pins := rfl
@[simp] theorem consCap_power (s : State) (i n : Nat) : (consCap s i n).power = s.power := rfl
@[simp] theorem consCap_snap (s : State) (i n : Nat) : (consCap s i n).snap = s.snap := rfl
@[simp] theorem consCap_tokens (s : State) (i n : Nat) : (consCap s i n).tokens = s.tokens := rfl
@[simp] theorem consCap_sec (s : State) (i n : Nat) : (consCap s i n).sec = s.sec := rfl
@[simp] theorem consCap_rrp (s : State) (i n : Nat) : (consCap s i n).rrp = s.rrp := rfl
@[simp] theorem consCap_eth (s : State) (i n : Nat) : (consCap s i n).eth = s.eth := rfl
@[simp] theorem consCap_ddr (s : State) (i n : Nat) : (consCap s i n).ddr = s.ddr := rfl
@[simp] theorem consCap_out (s : State) (i n : Nat) : (consCap s i n).out = s.out := rfl
@[simp] theorem consCap_freeNo (s : State) (i n : Nat) : (consCap s i n).freeNo = s.freeNo := rfl
@[simp] theorem regGet_consCap (s : State) (i n : Nat) (r : Nat) : regGet (consCap s i n) r = regGet s r := rfl

@[simp] theorem storeBytes_pending (s : State) (a : Nat) (b : List Byte) : (storeBytes s a b).pending = s.pending := rfl
@[simp] theorem storeBytes_time (s : State) (a : Nat) (b : List Byte) : (storeBytes s a b).time = s.time := rfl
@[simp] theorem storeBytes_elapsed (s : State) (a : Nat) (b : List Byte) : (storeBytes s a b).elapsed = s.elapsed := rfl
@[simp] theorem storeBytes_regs (s : State) (a : Nat) (b : List Byte) : (storeBytes s a b).regs = s.regs := rfl
@[simp] theorem storeBytes_held (s : State) (a : Nat) (b : List Byte) : (storeBytes s a b).held = s.held := rfl
@[simp] theorem storeBytes_capture (s : State) (a : Nat) (b : List Byte) : (storeBytes s a b).capture = s.capture := rfl
@[simp] theorem storeBytes_shadow (s : State) (a : Nat) (b : List Byte) : (storeBytes s a b).shadow = s.shadow := rfl
@[simp] theorem storeBytes_resp (s : State) (a : Nat) (b : List Byte) : (storeBytes s a b).resp = s.resp := rfl
@[simp] theorem storeBytes_log (s : State) (a : Nat) (b : List Byte) : (storeBytes s a b).log = s.log := rfl
@[simp] theorem storeBytes_logHead (s : State) (a : Nat) (b : List Byte) : (storeBytes s a b).logHead = s.logHead := rfl
@[simp] theorem storeBytes_wins (s : State) (a : Nat) (b : List Byte) : (storeBytes s a b).wins = s.wins := rfl
@[simp] theorem storeBytes_resident (s : State) (a : Nat) (b : List Byte) : (storeBytes s a b).resident = s.resident := rfl
@[simp] theorem storeBytes_pools (s : State) (a : Nat) (b : List Byte) : (storeBytes s a b).pools = s.pools := rfl
@[simp] theorem storeBytes_parts (s : State) (a : Nat) (b : List Byte) : (storeBytes s a b).parts = s.parts := rfl
@[simp] theorem storeBytes_leekUp (s : State) (a : Nat) (b : List Byte) : (storeBytes s a b).leekUp = s.leekUp := rfl
@[simp] theorem storeBytes_streams (s : State) (a : Nat) (b : List Byte) : (storeBytes s a b).streams = s.streams := rfl
@[simp] theorem storeBytes_admitSeq (s : State) (a : Nat) (b : List Byte) : (storeBytes s a b).admitSeq = s.admitSeq := rfl
@[simp] theorem storeBytes_spool (s : State) (a : Nat) (b : List Byte) : (storeBytes s a b).spool = s.spool := rfl
@[simp] theorem storeBytes_pairs (s : State) (a : Nat) (b : List Byte) : (storeBytes s a b).pairs = s.pairs := rfl
@[simp] theorem storeBytes_lastPair (s : State) (a : Nat) (b : List Byte) : (storeBytes s a b).lastPair = s.lastPair := rfl
@[simp] theorem storeBytes_works (s : State) (a : Nat) (b : List Byte) : (storeBytes s a b).works = s.works := rfl
@[simp] theorem storeBytes_nextWid (s : State) (a : Nat) (b : List Byte) : (storeBytes s a b).nextWid = s.nextWid := rfl
@[simp] theorem storeBytes_slots (s : State) (a : Nat) (b : List Byte) : (storeBytes s a b).slots = s.slots := rfl
@[simp] theorem storeBytes_staging (s : State) (a : Nat) (b : List Byte) : (storeBytes s a b).staging = s.staging := rfl
@[simp] theorem storeBytes_shedAt (s : State) (a : Nat) (b : List Byte) : (storeBytes s a b).shedAt = s.shedAt := rfl
@[simp] theorem storeBytes_restoredAt (s : State) (a : Nat) (b : List Byte) : (storeBytes s a b).restoredAt = s.restoredAt := rfl
@[simp] theorem storeBytes_hold3 (s : State) (a : Nat) (b : List Byte) : (storeBytes s a b).hold3 = s.hold3 := rfl
@[simp] theorem storeBytes_endedOps (s : State) (a : Nat) (b : List Byte) : (storeBytes s a b).endedOps = s.endedOps := rfl
@[simp] theorem storeBytes_cams (s : State) (a : Nat) (b : List Byte) : (storeBytes s a b).cams = s.cams := rfl
@[simp] theorem storeBytes_encs (s : State) (a : Nat) (b : List Byte) : (storeBytes s a b).encs = s.encs := rfl
@[simp] theorem storeBytes_odo (s : State) (a : Nat) (b : List Byte) : (storeBytes s a b).odo = s.odo := rfl
@[simp] theorem storeBytes_chans (s : State) (a : Nat) (b : List Byte) : (storeBytes s a b).chans = s.chans := rfl
@[simp] theorem storeBytes_groups (s : State) (a : Nat) (b : List Byte) : (storeBytes s a b).groups = s.groups := rfl
@[simp] theorem storeBytes_trackSerial (s : State) (a : Nat) (b : List Byte) : (storeBytes s a b).trackSerial = s.trackSerial := rfl
@[simp] theorem storeBytes_disps (s : State) (a : Nat) (b : List Byte) : (storeBytes s a b).disps = s.disps := rfl
@[simp] theorem storeBytes_fab (s : State) (a : Nat) (b : List Byte) : (storeBytes s a b).fab = s.fab := rfl
@[simp] theorem storeBytes_boot (s : State) (a : Nat) (b : List Byte) : (storeBytes s a b).boot = s.boot := rfl
@[simp] theorem storeBytes_pods (s : State) (a : Nat) (b : List Byte) : (storeBytes s a b).pods = s.pods := rfl
@[simp] theorem storeBytes_pins (s : State) (a : Nat) (b : List Byte) : (storeBytes s a b).pins = s.pins := rfl
@[simp] theorem storeBytes_power (s : State) (a : Nat) (b : List Byte) : (storeBytes s a b).power = s.power := rfl
@[simp] theorem storeBytes_cons (s : State) (a : Nat) (b : List Byte) : (storeBytes s a b).cons = s.cons := rfl
@[simp] theorem storeBytes_snap (s : State) (a : Nat) (b : List Byte) : (storeBytes s a b).snap = s.snap := rfl
@[simp] theorem storeBytes_tokens (s : State) (a : Nat) (b : List Byte) : (storeBytes s a b).tokens = s.tokens := rfl
@[simp] theorem storeBytes_sec (s : State) (a : Nat) (b : List Byte) : (storeBytes s a b).sec = s.sec := rfl
@[simp] theorem storeBytes_rrp (s : State) (a : Nat) (b : List Byte) : (storeBytes s a b).rrp = s.rrp := rfl
@[simp] theorem storeBytes_eth (s : State) (a : Nat) (b : List Byte) : (storeBytes s a b).eth = s.eth := rfl
@[simp] theorem storeBytes_ddr (s : State) (a : Nat) (b : List Byte) : (storeBytes s a b).ddr = s.ddr := rfl
@[simp] theorem storeBytes_out (s : State) (a : Nat) (b : List Byte) : (storeBytes s a b).out = s.out := rfl
@[simp] theorem storeBytes_freeNo (s : State) (a : Nat) (b : List Byte) : (storeBytes s a b).freeNo = s.freeNo := rfl
@[simp] theorem regGet_storeBytes (s : State) (a : Nat) (b : List Byte) (r : Nat) : regGet (storeBytes s a b) r = regGet s r := rfl

@[simp] theorem pairPut_pending (s : State) (p : Nat) (x : Pair) : (pairPut s p x).pending = s.pending := rfl
@[simp] theorem pairPut_time (s : State) (p : Nat) (x : Pair) : (pairPut s p x).time = s.time := rfl
@[simp] theorem pairPut_elapsed (s : State) (p : Nat) (x : Pair) : (pairPut s p x).elapsed = s.elapsed := rfl
@[simp] theorem pairPut_regs (s : State) (p : Nat) (x : Pair) : (pairPut s p x).regs = s.regs := rfl
@[simp] theorem pairPut_held (s : State) (p : Nat) (x : Pair) : (pairPut s p x).held = s.held := rfl
@[simp] theorem pairPut_capture (s : State) (p : Nat) (x : Pair) : (pairPut s p x).capture = s.capture := rfl
@[simp] theorem pairPut_shadow (s : State) (p : Nat) (x : Pair) : (pairPut s p x).shadow = s.shadow := rfl
@[simp] theorem pairPut_resp (s : State) (p : Nat) (x : Pair) : (pairPut s p x).resp = s.resp := rfl
@[simp] theorem pairPut_mem (s : State) (p : Nat) (x : Pair) : (pairPut s p x).mem = s.mem := rfl
@[simp] theorem pairPut_poison (s : State) (p : Nat) (x : Pair) : (pairPut s p x).poison = s.poison := rfl
@[simp] theorem pairPut_log (s : State) (p : Nat) (x : Pair) : (pairPut s p x).log = s.log := rfl
@[simp] theorem pairPut_logHead (s : State) (p : Nat) (x : Pair) : (pairPut s p x).logHead = s.logHead := rfl
@[simp] theorem pairPut_wins (s : State) (p : Nat) (x : Pair) : (pairPut s p x).wins = s.wins := rfl
@[simp] theorem pairPut_resident (s : State) (p : Nat) (x : Pair) : (pairPut s p x).resident = s.resident := rfl
@[simp] theorem pairPut_pools (s : State) (p : Nat) (x : Pair) : (pairPut s p x).pools = s.pools := rfl
@[simp] theorem pairPut_parts (s : State) (p : Nat) (x : Pair) : (pairPut s p x).parts = s.parts := rfl
@[simp] theorem pairPut_leekUp (s : State) (p : Nat) (x : Pair) : (pairPut s p x).leekUp = s.leekUp := rfl
@[simp] theorem pairPut_streams (s : State) (p : Nat) (x : Pair) : (pairPut s p x).streams = s.streams := rfl
@[simp] theorem pairPut_admitSeq (s : State) (p : Nat) (x : Pair) : (pairPut s p x).admitSeq = s.admitSeq := rfl
@[simp] theorem pairPut_spool (s : State) (p : Nat) (x : Pair) : (pairPut s p x).spool = s.spool := rfl
@[simp] theorem pairPut_lastPair (s : State) (p : Nat) (x : Pair) : (pairPut s p x).lastPair = s.lastPair := rfl
@[simp] theorem pairPut_works (s : State) (p : Nat) (x : Pair) : (pairPut s p x).works = s.works := rfl
@[simp] theorem pairPut_nextWid (s : State) (p : Nat) (x : Pair) : (pairPut s p x).nextWid = s.nextWid := rfl
@[simp] theorem pairPut_slots (s : State) (p : Nat) (x : Pair) : (pairPut s p x).slots = s.slots := rfl
@[simp] theorem pairPut_staging (s : State) (p : Nat) (x : Pair) : (pairPut s p x).staging = s.staging := rfl
@[simp] theorem pairPut_shedAt (s : State) (p : Nat) (x : Pair) : (pairPut s p x).shedAt = s.shedAt := rfl
@[simp] theorem pairPut_restoredAt (s : State) (p : Nat) (x : Pair) : (pairPut s p x).restoredAt = s.restoredAt := rfl
@[simp] theorem pairPut_hold3 (s : State) (p : Nat) (x : Pair) : (pairPut s p x).hold3 = s.hold3 := rfl
@[simp] theorem pairPut_endedOps (s : State) (p : Nat) (x : Pair) : (pairPut s p x).endedOps = s.endedOps := rfl
@[simp] theorem pairPut_cams (s : State) (p : Nat) (x : Pair) : (pairPut s p x).cams = s.cams := rfl
@[simp] theorem pairPut_encs (s : State) (p : Nat) (x : Pair) : (pairPut s p x).encs = s.encs := rfl
@[simp] theorem pairPut_odo (s : State) (p : Nat) (x : Pair) : (pairPut s p x).odo = s.odo := rfl
@[simp] theorem pairPut_chans (s : State) (p : Nat) (x : Pair) : (pairPut s p x).chans = s.chans := rfl
@[simp] theorem pairPut_groups (s : State) (p : Nat) (x : Pair) : (pairPut s p x).groups = s.groups := rfl
@[simp] theorem pairPut_trackSerial (s : State) (p : Nat) (x : Pair) : (pairPut s p x).trackSerial = s.trackSerial := rfl
@[simp] theorem pairPut_disps (s : State) (p : Nat) (x : Pair) : (pairPut s p x).disps = s.disps := rfl
@[simp] theorem pairPut_fab (s : State) (p : Nat) (x : Pair) : (pairPut s p x).fab = s.fab := rfl
@[simp] theorem pairPut_boot (s : State) (p : Nat) (x : Pair) : (pairPut s p x).boot = s.boot := rfl
@[simp] theorem pairPut_pods (s : State) (p : Nat) (x : Pair) : (pairPut s p x).pods = s.pods := rfl
@[simp] theorem pairPut_pins (s : State) (p : Nat) (x : Pair) : (pairPut s p x).pins = s.pins := rfl
@[simp] theorem pairPut_power (s : State) (p : Nat) (x : Pair) : (pairPut s p x).power = s.power := rfl
@[simp] theorem pairPut_cons (s : State) (p : Nat) (x : Pair) : (pairPut s p x).cons = s.cons := rfl
@[simp] theorem pairPut_snap (s : State) (p : Nat) (x : Pair) : (pairPut s p x).snap = s.snap := rfl
@[simp] theorem pairPut_tokens (s : State) (p : Nat) (x : Pair) : (pairPut s p x).tokens = s.tokens := rfl
@[simp] theorem pairPut_sec (s : State) (p : Nat) (x : Pair) : (pairPut s p x).sec = s.sec := rfl
@[simp] theorem pairPut_rrp (s : State) (p : Nat) (x : Pair) : (pairPut s p x).rrp = s.rrp := rfl
@[simp] theorem pairPut_eth (s : State) (p : Nat) (x : Pair) : (pairPut s p x).eth = s.eth := rfl
@[simp] theorem pairPut_ddr (s : State) (p : Nat) (x : Pair) : (pairPut s p x).ddr = s.ddr := rfl
@[simp] theorem pairPut_out (s : State) (p : Nat) (x : Pair) : (pairPut s p x).out = s.out := rfl
@[simp] theorem pairPut_freeNo (s : State) (p : Nat) (x : Pair) : (pairPut s p x).freeNo = s.freeNo := rfl
@[simp] theorem regGet_pairPut (s : State) (p : Nat) (x : Pair) (r : Nat) : regGet (pairPut s p x) r = regGet s r := rfl

@[simp] theorem workPut_pending (s : State) (n : Nat) (x : Work) : (workPut s n x).pending = s.pending := rfl
@[simp] theorem workPut_time (s : State) (n : Nat) (x : Work) : (workPut s n x).time = s.time := rfl
@[simp] theorem workPut_elapsed (s : State) (n : Nat) (x : Work) : (workPut s n x).elapsed = s.elapsed := rfl
@[simp] theorem workPut_regs (s : State) (n : Nat) (x : Work) : (workPut s n x).regs = s.regs := rfl
@[simp] theorem workPut_held (s : State) (n : Nat) (x : Work) : (workPut s n x).held = s.held := rfl
@[simp] theorem workPut_capture (s : State) (n : Nat) (x : Work) : (workPut s n x).capture = s.capture := rfl
@[simp] theorem workPut_shadow (s : State) (n : Nat) (x : Work) : (workPut s n x).shadow = s.shadow := rfl
@[simp] theorem workPut_resp (s : State) (n : Nat) (x : Work) : (workPut s n x).resp = s.resp := rfl
@[simp] theorem workPut_mem (s : State) (n : Nat) (x : Work) : (workPut s n x).mem = s.mem := rfl
@[simp] theorem workPut_poison (s : State) (n : Nat) (x : Work) : (workPut s n x).poison = s.poison := rfl
@[simp] theorem workPut_log (s : State) (n : Nat) (x : Work) : (workPut s n x).log = s.log := rfl
@[simp] theorem workPut_logHead (s : State) (n : Nat) (x : Work) : (workPut s n x).logHead = s.logHead := rfl
@[simp] theorem workPut_wins (s : State) (n : Nat) (x : Work) : (workPut s n x).wins = s.wins := rfl
@[simp] theorem workPut_resident (s : State) (n : Nat) (x : Work) : (workPut s n x).resident = s.resident := rfl
@[simp] theorem workPut_pools (s : State) (n : Nat) (x : Work) : (workPut s n x).pools = s.pools := rfl
@[simp] theorem workPut_parts (s : State) (n : Nat) (x : Work) : (workPut s n x).parts = s.parts := rfl
@[simp] theorem workPut_leekUp (s : State) (n : Nat) (x : Work) : (workPut s n x).leekUp = s.leekUp := rfl
@[simp] theorem workPut_streams (s : State) (n : Nat) (x : Work) : (workPut s n x).streams = s.streams := rfl
@[simp] theorem workPut_admitSeq (s : State) (n : Nat) (x : Work) : (workPut s n x).admitSeq = s.admitSeq := rfl
@[simp] theorem workPut_spool (s : State) (n : Nat) (x : Work) : (workPut s n x).spool = s.spool := rfl
@[simp] theorem workPut_pairs (s : State) (n : Nat) (x : Work) : (workPut s n x).pairs = s.pairs := rfl
@[simp] theorem workPut_lastPair (s : State) (n : Nat) (x : Work) : (workPut s n x).lastPair = s.lastPair := rfl
@[simp] theorem workPut_nextWid (s : State) (n : Nat) (x : Work) : (workPut s n x).nextWid = s.nextWid := rfl
@[simp] theorem workPut_slots (s : State) (n : Nat) (x : Work) : (workPut s n x).slots = s.slots := rfl
@[simp] theorem workPut_staging (s : State) (n : Nat) (x : Work) : (workPut s n x).staging = s.staging := rfl
@[simp] theorem workPut_shedAt (s : State) (n : Nat) (x : Work) : (workPut s n x).shedAt = s.shedAt := rfl
@[simp] theorem workPut_restoredAt (s : State) (n : Nat) (x : Work) : (workPut s n x).restoredAt = s.restoredAt := rfl
@[simp] theorem workPut_hold3 (s : State) (n : Nat) (x : Work) : (workPut s n x).hold3 = s.hold3 := rfl
@[simp] theorem workPut_endedOps (s : State) (n : Nat) (x : Work) : (workPut s n x).endedOps = s.endedOps := rfl
@[simp] theorem workPut_cams (s : State) (n : Nat) (x : Work) : (workPut s n x).cams = s.cams := rfl
@[simp] theorem workPut_encs (s : State) (n : Nat) (x : Work) : (workPut s n x).encs = s.encs := rfl
@[simp] theorem workPut_odo (s : State) (n : Nat) (x : Work) : (workPut s n x).odo = s.odo := rfl
@[simp] theorem workPut_chans (s : State) (n : Nat) (x : Work) : (workPut s n x).chans = s.chans := rfl
@[simp] theorem workPut_groups (s : State) (n : Nat) (x : Work) : (workPut s n x).groups = s.groups := rfl
@[simp] theorem workPut_trackSerial (s : State) (n : Nat) (x : Work) : (workPut s n x).trackSerial = s.trackSerial := rfl
@[simp] theorem workPut_disps (s : State) (n : Nat) (x : Work) : (workPut s n x).disps = s.disps := rfl
@[simp] theorem workPut_fab (s : State) (n : Nat) (x : Work) : (workPut s n x).fab = s.fab := rfl
@[simp] theorem workPut_boot (s : State) (n : Nat) (x : Work) : (workPut s n x).boot = s.boot := rfl
@[simp] theorem workPut_pods (s : State) (n : Nat) (x : Work) : (workPut s n x).pods = s.pods := rfl
@[simp] theorem workPut_pins (s : State) (n : Nat) (x : Work) : (workPut s n x).pins = s.pins := rfl
@[simp] theorem workPut_power (s : State) (n : Nat) (x : Work) : (workPut s n x).power = s.power := rfl
@[simp] theorem workPut_cons (s : State) (n : Nat) (x : Work) : (workPut s n x).cons = s.cons := rfl
@[simp] theorem workPut_snap (s : State) (n : Nat) (x : Work) : (workPut s n x).snap = s.snap := rfl
@[simp] theorem workPut_tokens (s : State) (n : Nat) (x : Work) : (workPut s n x).tokens = s.tokens := rfl
@[simp] theorem workPut_sec (s : State) (n : Nat) (x : Work) : (workPut s n x).sec = s.sec := rfl
@[simp] theorem workPut_rrp (s : State) (n : Nat) (x : Work) : (workPut s n x).rrp = s.rrp := rfl
@[simp] theorem workPut_eth (s : State) (n : Nat) (x : Work) : (workPut s n x).eth = s.eth := rfl
@[simp] theorem workPut_ddr (s : State) (n : Nat) (x : Work) : (workPut s n x).ddr = s.ddr := rfl
@[simp] theorem workPut_out (s : State) (n : Nat) (x : Work) : (workPut s n x).out = s.out := rfl
@[simp] theorem workPut_freeNo (s : State) (n : Nat) (x : Work) : (workPut s n x).freeNo = s.freeNo := rfl
@[simp] theorem regGet_workPut (s : State) (n : Nat) (x : Work) (r : Nat) : regGet (workPut s n x) r = regGet s r := rfl

@[simp] theorem streamPut_pending (s : State) (n : Nat) (x : Stream) : (streamPut s n x).pending = s.pending := rfl
@[simp] theorem streamPut_time (s : State) (n : Nat) (x : Stream) : (streamPut s n x).time = s.time := rfl
@[simp] theorem streamPut_elapsed (s : State) (n : Nat) (x : Stream) : (streamPut s n x).elapsed = s.elapsed := rfl
@[simp] theorem streamPut_regs (s : State) (n : Nat) (x : Stream) : (streamPut s n x).regs = s.regs := rfl
@[simp] theorem streamPut_held (s : State) (n : Nat) (x : Stream) : (streamPut s n x).held = s.held := rfl
@[simp] theorem streamPut_capture (s : State) (n : Nat) (x : Stream) : (streamPut s n x).capture = s.capture := rfl
@[simp] theorem streamPut_shadow (s : State) (n : Nat) (x : Stream) : (streamPut s n x).shadow = s.shadow := rfl
@[simp] theorem streamPut_resp (s : State) (n : Nat) (x : Stream) : (streamPut s n x).resp = s.resp := rfl
@[simp] theorem streamPut_mem (s : State) (n : Nat) (x : Stream) : (streamPut s n x).mem = s.mem := rfl
@[simp] theorem streamPut_poison (s : State) (n : Nat) (x : Stream) : (streamPut s n x).poison = s.poison := rfl
@[simp] theorem streamPut_log (s : State) (n : Nat) (x : Stream) : (streamPut s n x).log = s.log := rfl
@[simp] theorem streamPut_logHead (s : State) (n : Nat) (x : Stream) : (streamPut s n x).logHead = s.logHead := rfl
@[simp] theorem streamPut_wins (s : State) (n : Nat) (x : Stream) : (streamPut s n x).wins = s.wins := rfl
@[simp] theorem streamPut_resident (s : State) (n : Nat) (x : Stream) : (streamPut s n x).resident = s.resident := rfl
@[simp] theorem streamPut_pools (s : State) (n : Nat) (x : Stream) : (streamPut s n x).pools = s.pools := rfl
@[simp] theorem streamPut_parts (s : State) (n : Nat) (x : Stream) : (streamPut s n x).parts = s.parts := rfl
@[simp] theorem streamPut_leekUp (s : State) (n : Nat) (x : Stream) : (streamPut s n x).leekUp = s.leekUp := rfl
@[simp] theorem streamPut_admitSeq (s : State) (n : Nat) (x : Stream) : (streamPut s n x).admitSeq = s.admitSeq := rfl
@[simp] theorem streamPut_spool (s : State) (n : Nat) (x : Stream) : (streamPut s n x).spool = s.spool := rfl
@[simp] theorem streamPut_pairs (s : State) (n : Nat) (x : Stream) : (streamPut s n x).pairs = s.pairs := rfl
@[simp] theorem streamPut_lastPair (s : State) (n : Nat) (x : Stream) : (streamPut s n x).lastPair = s.lastPair := rfl
@[simp] theorem streamPut_works (s : State) (n : Nat) (x : Stream) : (streamPut s n x).works = s.works := rfl
@[simp] theorem streamPut_nextWid (s : State) (n : Nat) (x : Stream) : (streamPut s n x).nextWid = s.nextWid := rfl
@[simp] theorem streamPut_slots (s : State) (n : Nat) (x : Stream) : (streamPut s n x).slots = s.slots := rfl
@[simp] theorem streamPut_staging (s : State) (n : Nat) (x : Stream) : (streamPut s n x).staging = s.staging := rfl
@[simp] theorem streamPut_shedAt (s : State) (n : Nat) (x : Stream) : (streamPut s n x).shedAt = s.shedAt := rfl
@[simp] theorem streamPut_restoredAt (s : State) (n : Nat) (x : Stream) : (streamPut s n x).restoredAt = s.restoredAt := rfl
@[simp] theorem streamPut_hold3 (s : State) (n : Nat) (x : Stream) : (streamPut s n x).hold3 = s.hold3 := rfl
@[simp] theorem streamPut_endedOps (s : State) (n : Nat) (x : Stream) : (streamPut s n x).endedOps = s.endedOps := rfl
@[simp] theorem streamPut_cams (s : State) (n : Nat) (x : Stream) : (streamPut s n x).cams = s.cams := rfl
@[simp] theorem streamPut_encs (s : State) (n : Nat) (x : Stream) : (streamPut s n x).encs = s.encs := rfl
@[simp] theorem streamPut_odo (s : State) (n : Nat) (x : Stream) : (streamPut s n x).odo = s.odo := rfl
@[simp] theorem streamPut_chans (s : State) (n : Nat) (x : Stream) : (streamPut s n x).chans = s.chans := rfl
@[simp] theorem streamPut_groups (s : State) (n : Nat) (x : Stream) : (streamPut s n x).groups = s.groups := rfl
@[simp] theorem streamPut_trackSerial (s : State) (n : Nat) (x : Stream) : (streamPut s n x).trackSerial = s.trackSerial := rfl
@[simp] theorem streamPut_disps (s : State) (n : Nat) (x : Stream) : (streamPut s n x).disps = s.disps := rfl
@[simp] theorem streamPut_fab (s : State) (n : Nat) (x : Stream) : (streamPut s n x).fab = s.fab := rfl
@[simp] theorem streamPut_boot (s : State) (n : Nat) (x : Stream) : (streamPut s n x).boot = s.boot := rfl
@[simp] theorem streamPut_pods (s : State) (n : Nat) (x : Stream) : (streamPut s n x).pods = s.pods := rfl
@[simp] theorem streamPut_pins (s : State) (n : Nat) (x : Stream) : (streamPut s n x).pins = s.pins := rfl
@[simp] theorem streamPut_power (s : State) (n : Nat) (x : Stream) : (streamPut s n x).power = s.power := rfl
@[simp] theorem streamPut_cons (s : State) (n : Nat) (x : Stream) : (streamPut s n x).cons = s.cons := rfl
@[simp] theorem streamPut_snap (s : State) (n : Nat) (x : Stream) : (streamPut s n x).snap = s.snap := rfl
@[simp] theorem streamPut_tokens (s : State) (n : Nat) (x : Stream) : (streamPut s n x).tokens = s.tokens := rfl
@[simp] theorem streamPut_sec (s : State) (n : Nat) (x : Stream) : (streamPut s n x).sec = s.sec := rfl
@[simp] theorem streamPut_rrp (s : State) (n : Nat) (x : Stream) : (streamPut s n x).rrp = s.rrp := rfl
@[simp] theorem streamPut_eth (s : State) (n : Nat) (x : Stream) : (streamPut s n x).eth = s.eth := rfl
@[simp] theorem streamPut_ddr (s : State) (n : Nat) (x : Stream) : (streamPut s n x).ddr = s.ddr := rfl
@[simp] theorem streamPut_out (s : State) (n : Nat) (x : Stream) : (streamPut s n x).out = s.out := rfl
@[simp] theorem streamPut_freeNo (s : State) (n : Nat) (x : Stream) : (streamPut s n x).freeNo = s.freeNo := rfl
@[simp] theorem regGet_streamPut (s : State) (n : Nat) (x : Stream) (r : Nat) : regGet (streamPut s n x) r = regGet s r := rfl

@[simp] theorem camPut_pending (s : State) (p : Nat) (x : Camera) : (camPut s p x).pending = s.pending := rfl
@[simp] theorem camPut_time (s : State) (p : Nat) (x : Camera) : (camPut s p x).time = s.time := rfl
@[simp] theorem camPut_elapsed (s : State) (p : Nat) (x : Camera) : (camPut s p x).elapsed = s.elapsed := rfl
@[simp] theorem camPut_regs (s : State) (p : Nat) (x : Camera) : (camPut s p x).regs = s.regs := rfl
@[simp] theorem camPut_held (s : State) (p : Nat) (x : Camera) : (camPut s p x).held = s.held := rfl
@[simp] theorem camPut_capture (s : State) (p : Nat) (x : Camera) : (camPut s p x).capture = s.capture := rfl
@[simp] theorem camPut_shadow (s : State) (p : Nat) (x : Camera) : (camPut s p x).shadow = s.shadow := rfl
@[simp] theorem camPut_resp (s : State) (p : Nat) (x : Camera) : (camPut s p x).resp = s.resp := rfl
@[simp] theorem camPut_mem (s : State) (p : Nat) (x : Camera) : (camPut s p x).mem = s.mem := rfl
@[simp] theorem camPut_poison (s : State) (p : Nat) (x : Camera) : (camPut s p x).poison = s.poison := rfl
@[simp] theorem camPut_log (s : State) (p : Nat) (x : Camera) : (camPut s p x).log = s.log := rfl
@[simp] theorem camPut_logHead (s : State) (p : Nat) (x : Camera) : (camPut s p x).logHead = s.logHead := rfl
@[simp] theorem camPut_wins (s : State) (p : Nat) (x : Camera) : (camPut s p x).wins = s.wins := rfl
@[simp] theorem camPut_resident (s : State) (p : Nat) (x : Camera) : (camPut s p x).resident = s.resident := rfl
@[simp] theorem camPut_pools (s : State) (p : Nat) (x : Camera) : (camPut s p x).pools = s.pools := rfl
@[simp] theorem camPut_parts (s : State) (p : Nat) (x : Camera) : (camPut s p x).parts = s.parts := rfl
@[simp] theorem camPut_leekUp (s : State) (p : Nat) (x : Camera) : (camPut s p x).leekUp = s.leekUp := rfl
@[simp] theorem camPut_streams (s : State) (p : Nat) (x : Camera) : (camPut s p x).streams = s.streams := rfl
@[simp] theorem camPut_admitSeq (s : State) (p : Nat) (x : Camera) : (camPut s p x).admitSeq = s.admitSeq := rfl
@[simp] theorem camPut_spool (s : State) (p : Nat) (x : Camera) : (camPut s p x).spool = s.spool := rfl
@[simp] theorem camPut_pairs (s : State) (p : Nat) (x : Camera) : (camPut s p x).pairs = s.pairs := rfl
@[simp] theorem camPut_lastPair (s : State) (p : Nat) (x : Camera) : (camPut s p x).lastPair = s.lastPair := rfl
@[simp] theorem camPut_works (s : State) (p : Nat) (x : Camera) : (camPut s p x).works = s.works := rfl
@[simp] theorem camPut_nextWid (s : State) (p : Nat) (x : Camera) : (camPut s p x).nextWid = s.nextWid := rfl
@[simp] theorem camPut_slots (s : State) (p : Nat) (x : Camera) : (camPut s p x).slots = s.slots := rfl
@[simp] theorem camPut_staging (s : State) (p : Nat) (x : Camera) : (camPut s p x).staging = s.staging := rfl
@[simp] theorem camPut_shedAt (s : State) (p : Nat) (x : Camera) : (camPut s p x).shedAt = s.shedAt := rfl
@[simp] theorem camPut_restoredAt (s : State) (p : Nat) (x : Camera) : (camPut s p x).restoredAt = s.restoredAt := rfl
@[simp] theorem camPut_hold3 (s : State) (p : Nat) (x : Camera) : (camPut s p x).hold3 = s.hold3 := rfl
@[simp] theorem camPut_endedOps (s : State) (p : Nat) (x : Camera) : (camPut s p x).endedOps = s.endedOps := rfl
@[simp] theorem camPut_encs (s : State) (p : Nat) (x : Camera) : (camPut s p x).encs = s.encs := rfl
@[simp] theorem camPut_odo (s : State) (p : Nat) (x : Camera) : (camPut s p x).odo = s.odo := rfl
@[simp] theorem camPut_chans (s : State) (p : Nat) (x : Camera) : (camPut s p x).chans = s.chans := rfl
@[simp] theorem camPut_groups (s : State) (p : Nat) (x : Camera) : (camPut s p x).groups = s.groups := rfl
@[simp] theorem camPut_trackSerial (s : State) (p : Nat) (x : Camera) : (camPut s p x).trackSerial = s.trackSerial := rfl
@[simp] theorem camPut_disps (s : State) (p : Nat) (x : Camera) : (camPut s p x).disps = s.disps := rfl
@[simp] theorem camPut_fab (s : State) (p : Nat) (x : Camera) : (camPut s p x).fab = s.fab := rfl
@[simp] theorem camPut_boot (s : State) (p : Nat) (x : Camera) : (camPut s p x).boot = s.boot := rfl
@[simp] theorem camPut_pods (s : State) (p : Nat) (x : Camera) : (camPut s p x).pods = s.pods := rfl
@[simp] theorem camPut_pins (s : State) (p : Nat) (x : Camera) : (camPut s p x).pins = s.pins := rfl
@[simp] theorem camPut_power (s : State) (p : Nat) (x : Camera) : (camPut s p x).power = s.power := rfl
@[simp] theorem camPut_cons (s : State) (p : Nat) (x : Camera) : (camPut s p x).cons = s.cons := rfl
@[simp] theorem camPut_snap (s : State) (p : Nat) (x : Camera) : (camPut s p x).snap = s.snap := rfl
@[simp] theorem camPut_tokens (s : State) (p : Nat) (x : Camera) : (camPut s p x).tokens = s.tokens := rfl
@[simp] theorem camPut_sec (s : State) (p : Nat) (x : Camera) : (camPut s p x).sec = s.sec := rfl
@[simp] theorem camPut_rrp (s : State) (p : Nat) (x : Camera) : (camPut s p x).rrp = s.rrp := rfl
@[simp] theorem camPut_eth (s : State) (p : Nat) (x : Camera) : (camPut s p x).eth = s.eth := rfl
@[simp] theorem camPut_ddr (s : State) (p : Nat) (x : Camera) : (camPut s p x).ddr = s.ddr := rfl
@[simp] theorem camPut_out (s : State) (p : Nat) (x : Camera) : (camPut s p x).out = s.out := rfl
@[simp] theorem camPut_freeNo (s : State) (p : Nat) (x : Camera) : (camPut s p x).freeNo = s.freeNo := rfl
@[simp] theorem regGet_camPut (s : State) (p : Nat) (x : Camera) (r : Nat) : regGet (camPut s p x) r = regGet s r := rfl

@[simp] theorem encPut_pending (s : State) (p : Nat) (x : Encoder) : (encPut s p x).pending = s.pending := rfl
@[simp] theorem encPut_time (s : State) (p : Nat) (x : Encoder) : (encPut s p x).time = s.time := rfl
@[simp] theorem encPut_elapsed (s : State) (p : Nat) (x : Encoder) : (encPut s p x).elapsed = s.elapsed := rfl
@[simp] theorem encPut_regs (s : State) (p : Nat) (x : Encoder) : (encPut s p x).regs = s.regs := rfl
@[simp] theorem encPut_held (s : State) (p : Nat) (x : Encoder) : (encPut s p x).held = s.held := rfl
@[simp] theorem encPut_capture (s : State) (p : Nat) (x : Encoder) : (encPut s p x).capture = s.capture := rfl
@[simp] theorem encPut_shadow (s : State) (p : Nat) (x : Encoder) : (encPut s p x).shadow = s.shadow := rfl
@[simp] theorem encPut_resp (s : State) (p : Nat) (x : Encoder) : (encPut s p x).resp = s.resp := rfl
@[simp] theorem encPut_mem (s : State) (p : Nat) (x : Encoder) : (encPut s p x).mem = s.mem := rfl
@[simp] theorem encPut_poison (s : State) (p : Nat) (x : Encoder) : (encPut s p x).poison = s.poison := rfl
@[simp] theorem encPut_log (s : State) (p : Nat) (x : Encoder) : (encPut s p x).log = s.log := rfl
@[simp] theorem encPut_logHead (s : State) (p : Nat) (x : Encoder) : (encPut s p x).logHead = s.logHead := rfl
@[simp] theorem encPut_wins (s : State) (p : Nat) (x : Encoder) : (encPut s p x).wins = s.wins := rfl
@[simp] theorem encPut_resident (s : State) (p : Nat) (x : Encoder) : (encPut s p x).resident = s.resident := rfl
@[simp] theorem encPut_pools (s : State) (p : Nat) (x : Encoder) : (encPut s p x).pools = s.pools := rfl
@[simp] theorem encPut_parts (s : State) (p : Nat) (x : Encoder) : (encPut s p x).parts = s.parts := rfl
@[simp] theorem encPut_leekUp (s : State) (p : Nat) (x : Encoder) : (encPut s p x).leekUp = s.leekUp := rfl
@[simp] theorem encPut_streams (s : State) (p : Nat) (x : Encoder) : (encPut s p x).streams = s.streams := rfl
@[simp] theorem encPut_admitSeq (s : State) (p : Nat) (x : Encoder) : (encPut s p x).admitSeq = s.admitSeq := rfl
@[simp] theorem encPut_spool (s : State) (p : Nat) (x : Encoder) : (encPut s p x).spool = s.spool := rfl
@[simp] theorem encPut_pairs (s : State) (p : Nat) (x : Encoder) : (encPut s p x).pairs = s.pairs := rfl
@[simp] theorem encPut_lastPair (s : State) (p : Nat) (x : Encoder) : (encPut s p x).lastPair = s.lastPair := rfl
@[simp] theorem encPut_works (s : State) (p : Nat) (x : Encoder) : (encPut s p x).works = s.works := rfl
@[simp] theorem encPut_nextWid (s : State) (p : Nat) (x : Encoder) : (encPut s p x).nextWid = s.nextWid := rfl
@[simp] theorem encPut_slots (s : State) (p : Nat) (x : Encoder) : (encPut s p x).slots = s.slots := rfl
@[simp] theorem encPut_staging (s : State) (p : Nat) (x : Encoder) : (encPut s p x).staging = s.staging := rfl
@[simp] theorem encPut_shedAt (s : State) (p : Nat) (x : Encoder) : (encPut s p x).shedAt = s.shedAt := rfl
@[simp] theorem encPut_restoredAt (s : State) (p : Nat) (x : Encoder) : (encPut s p x).restoredAt = s.restoredAt := rfl
@[simp] theorem encPut_hold3 (s : State) (p : Nat) (x : Encoder) : (encPut s p x).hold3 = s.hold3 := rfl
@[simp] theorem encPut_endedOps (s : State) (p : Nat) (x : Encoder) : (encPut s p x).endedOps = s.endedOps := rfl
@[simp] theorem encPut_cams (s : State) (p : Nat) (x : Encoder) : (encPut s p x).cams = s.cams := rfl
@[simp] theorem encPut_odo (s : State) (p : Nat) (x : Encoder) : (encPut s p x).odo = s.odo := rfl
@[simp] theorem encPut_chans (s : State) (p : Nat) (x : Encoder) : (encPut s p x).chans = s.chans := rfl
@[simp] theorem encPut_groups (s : State) (p : Nat) (x : Encoder) : (encPut s p x).groups = s.groups := rfl
@[simp] theorem encPut_trackSerial (s : State) (p : Nat) (x : Encoder) : (encPut s p x).trackSerial = s.trackSerial := rfl
@[simp] theorem encPut_disps (s : State) (p : Nat) (x : Encoder) : (encPut s p x).disps = s.disps := rfl
@[simp] theorem encPut_fab (s : State) (p : Nat) (x : Encoder) : (encPut s p x).fab = s.fab := rfl
@[simp] theorem encPut_boot (s : State) (p : Nat) (x : Encoder) : (encPut s p x).boot = s.boot := rfl
@[simp] theorem encPut_pods (s : State) (p : Nat) (x : Encoder) : (encPut s p x).pods = s.pods := rfl
@[simp] theorem encPut_pins (s : State) (p : Nat) (x : Encoder) : (encPut s p x).pins = s.pins := rfl
@[simp] theorem encPut_power (s : State) (p : Nat) (x : Encoder) : (encPut s p x).power = s.power := rfl
@[simp] theorem encPut_cons (s : State) (p : Nat) (x : Encoder) : (encPut s p x).cons = s.cons := rfl
@[simp] theorem encPut_snap (s : State) (p : Nat) (x : Encoder) : (encPut s p x).snap = s.snap := rfl
@[simp] theorem encPut_tokens (s : State) (p : Nat) (x : Encoder) : (encPut s p x).tokens = s.tokens := rfl
@[simp] theorem encPut_sec (s : State) (p : Nat) (x : Encoder) : (encPut s p x).sec = s.sec := rfl
@[simp] theorem encPut_rrp (s : State) (p : Nat) (x : Encoder) : (encPut s p x).rrp = s.rrp := rfl
@[simp] theorem encPut_eth (s : State) (p : Nat) (x : Encoder) : (encPut s p x).eth = s.eth := rfl
@[simp] theorem encPut_ddr (s : State) (p : Nat) (x : Encoder) : (encPut s p x).ddr = s.ddr := rfl
@[simp] theorem encPut_out (s : State) (p : Nat) (x : Encoder) : (encPut s p x).out = s.out := rfl
@[simp] theorem encPut_freeNo (s : State) (p : Nat) (x : Encoder) : (encPut s p x).freeNo = s.freeNo := rfl
@[simp] theorem regGet_encPut (s : State) (p : Nat) (x : Encoder) (r : Nat) : regGet (encPut s p x) r = regGet s r := rfl

@[simp] theorem chanPut_pending (s : State) (p : Nat) (x : Chan) : (chanPut s p x).pending = s.pending := rfl
@[simp] theorem chanPut_time (s : State) (p : Nat) (x : Chan) : (chanPut s p x).time = s.time := rfl
@[simp] theorem chanPut_elapsed (s : State) (p : Nat) (x : Chan) : (chanPut s p x).elapsed = s.elapsed := rfl
@[simp] theorem chanPut_regs (s : State) (p : Nat) (x : Chan) : (chanPut s p x).regs = s.regs := rfl
@[simp] theorem chanPut_held (s : State) (p : Nat) (x : Chan) : (chanPut s p x).held = s.held := rfl
@[simp] theorem chanPut_capture (s : State) (p : Nat) (x : Chan) : (chanPut s p x).capture = s.capture := rfl
@[simp] theorem chanPut_shadow (s : State) (p : Nat) (x : Chan) : (chanPut s p x).shadow = s.shadow := rfl
@[simp] theorem chanPut_resp (s : State) (p : Nat) (x : Chan) : (chanPut s p x).resp = s.resp := rfl
@[simp] theorem chanPut_mem (s : State) (p : Nat) (x : Chan) : (chanPut s p x).mem = s.mem := rfl
@[simp] theorem chanPut_poison (s : State) (p : Nat) (x : Chan) : (chanPut s p x).poison = s.poison := rfl
@[simp] theorem chanPut_log (s : State) (p : Nat) (x : Chan) : (chanPut s p x).log = s.log := rfl
@[simp] theorem chanPut_logHead (s : State) (p : Nat) (x : Chan) : (chanPut s p x).logHead = s.logHead := rfl
@[simp] theorem chanPut_wins (s : State) (p : Nat) (x : Chan) : (chanPut s p x).wins = s.wins := rfl
@[simp] theorem chanPut_resident (s : State) (p : Nat) (x : Chan) : (chanPut s p x).resident = s.resident := rfl
@[simp] theorem chanPut_pools (s : State) (p : Nat) (x : Chan) : (chanPut s p x).pools = s.pools := rfl
@[simp] theorem chanPut_parts (s : State) (p : Nat) (x : Chan) : (chanPut s p x).parts = s.parts := rfl
@[simp] theorem chanPut_leekUp (s : State) (p : Nat) (x : Chan) : (chanPut s p x).leekUp = s.leekUp := rfl
@[simp] theorem chanPut_streams (s : State) (p : Nat) (x : Chan) : (chanPut s p x).streams = s.streams := rfl
@[simp] theorem chanPut_admitSeq (s : State) (p : Nat) (x : Chan) : (chanPut s p x).admitSeq = s.admitSeq := rfl
@[simp] theorem chanPut_spool (s : State) (p : Nat) (x : Chan) : (chanPut s p x).spool = s.spool := rfl
@[simp] theorem chanPut_pairs (s : State) (p : Nat) (x : Chan) : (chanPut s p x).pairs = s.pairs := rfl
@[simp] theorem chanPut_lastPair (s : State) (p : Nat) (x : Chan) : (chanPut s p x).lastPair = s.lastPair := rfl
@[simp] theorem chanPut_works (s : State) (p : Nat) (x : Chan) : (chanPut s p x).works = s.works := rfl
@[simp] theorem chanPut_nextWid (s : State) (p : Nat) (x : Chan) : (chanPut s p x).nextWid = s.nextWid := rfl
@[simp] theorem chanPut_slots (s : State) (p : Nat) (x : Chan) : (chanPut s p x).slots = s.slots := rfl
@[simp] theorem chanPut_staging (s : State) (p : Nat) (x : Chan) : (chanPut s p x).staging = s.staging := rfl
@[simp] theorem chanPut_shedAt (s : State) (p : Nat) (x : Chan) : (chanPut s p x).shedAt = s.shedAt := rfl
@[simp] theorem chanPut_restoredAt (s : State) (p : Nat) (x : Chan) : (chanPut s p x).restoredAt = s.restoredAt := rfl
@[simp] theorem chanPut_hold3 (s : State) (p : Nat) (x : Chan) : (chanPut s p x).hold3 = s.hold3 := rfl
@[simp] theorem chanPut_endedOps (s : State) (p : Nat) (x : Chan) : (chanPut s p x).endedOps = s.endedOps := rfl
@[simp] theorem chanPut_cams (s : State) (p : Nat) (x : Chan) : (chanPut s p x).cams = s.cams := rfl
@[simp] theorem chanPut_encs (s : State) (p : Nat) (x : Chan) : (chanPut s p x).encs = s.encs := rfl
@[simp] theorem chanPut_odo (s : State) (p : Nat) (x : Chan) : (chanPut s p x).odo = s.odo := rfl
@[simp] theorem chanPut_groups (s : State) (p : Nat) (x : Chan) : (chanPut s p x).groups = s.groups := rfl
@[simp] theorem chanPut_trackSerial (s : State) (p : Nat) (x : Chan) : (chanPut s p x).trackSerial = s.trackSerial := rfl
@[simp] theorem chanPut_disps (s : State) (p : Nat) (x : Chan) : (chanPut s p x).disps = s.disps := rfl
@[simp] theorem chanPut_fab (s : State) (p : Nat) (x : Chan) : (chanPut s p x).fab = s.fab := rfl
@[simp] theorem chanPut_boot (s : State) (p : Nat) (x : Chan) : (chanPut s p x).boot = s.boot := rfl
@[simp] theorem chanPut_pods (s : State) (p : Nat) (x : Chan) : (chanPut s p x).pods = s.pods := rfl
@[simp] theorem chanPut_pins (s : State) (p : Nat) (x : Chan) : (chanPut s p x).pins = s.pins := rfl
@[simp] theorem chanPut_power (s : State) (p : Nat) (x : Chan) : (chanPut s p x).power = s.power := rfl
@[simp] theorem chanPut_cons (s : State) (p : Nat) (x : Chan) : (chanPut s p x).cons = s.cons := rfl
@[simp] theorem chanPut_snap (s : State) (p : Nat) (x : Chan) : (chanPut s p x).snap = s.snap := rfl
@[simp] theorem chanPut_tokens (s : State) (p : Nat) (x : Chan) : (chanPut s p x).tokens = s.tokens := rfl
@[simp] theorem chanPut_sec (s : State) (p : Nat) (x : Chan) : (chanPut s p x).sec = s.sec := rfl
@[simp] theorem chanPut_rrp (s : State) (p : Nat) (x : Chan) : (chanPut s p x).rrp = s.rrp := rfl
@[simp] theorem chanPut_eth (s : State) (p : Nat) (x : Chan) : (chanPut s p x).eth = s.eth := rfl
@[simp] theorem chanPut_ddr (s : State) (p : Nat) (x : Chan) : (chanPut s p x).ddr = s.ddr := rfl
@[simp] theorem chanPut_out (s : State) (p : Nat) (x : Chan) : (chanPut s p x).out = s.out := rfl
@[simp] theorem chanPut_freeNo (s : State) (p : Nat) (x : Chan) : (chanPut s p x).freeNo = s.freeNo := rfl
@[simp] theorem regGet_chanPut (s : State) (p : Nat) (x : Chan) (r : Nat) : regGet (chanPut s p x) r = regGet s r := rfl

@[simp] theorem groupPut_pending (s : State) (p : Nat) (x : Group) : (groupPut s p x).pending = s.pending := rfl
@[simp] theorem groupPut_time (s : State) (p : Nat) (x : Group) : (groupPut s p x).time = s.time := rfl
@[simp] theorem groupPut_elapsed (s : State) (p : Nat) (x : Group) : (groupPut s p x).elapsed = s.elapsed := rfl
@[simp] theorem groupPut_regs (s : State) (p : Nat) (x : Group) : (groupPut s p x).regs = s.regs := rfl
@[simp] theorem groupPut_held (s : State) (p : Nat) (x : Group) : (groupPut s p x).held = s.held := rfl
@[simp] theorem groupPut_capture (s : State) (p : Nat) (x : Group) : (groupPut s p x).capture = s.capture := rfl
@[simp] theorem groupPut_shadow (s : State) (p : Nat) (x : Group) : (groupPut s p x).shadow = s.shadow := rfl
@[simp] theorem groupPut_resp (s : State) (p : Nat) (x : Group) : (groupPut s p x).resp = s.resp := rfl
@[simp] theorem groupPut_mem (s : State) (p : Nat) (x : Group) : (groupPut s p x).mem = s.mem := rfl
@[simp] theorem groupPut_poison (s : State) (p : Nat) (x : Group) : (groupPut s p x).poison = s.poison := rfl
@[simp] theorem groupPut_log (s : State) (p : Nat) (x : Group) : (groupPut s p x).log = s.log := rfl
@[simp] theorem groupPut_logHead (s : State) (p : Nat) (x : Group) : (groupPut s p x).logHead = s.logHead := rfl
@[simp] theorem groupPut_wins (s : State) (p : Nat) (x : Group) : (groupPut s p x).wins = s.wins := rfl
@[simp] theorem groupPut_resident (s : State) (p : Nat) (x : Group) : (groupPut s p x).resident = s.resident := rfl
@[simp] theorem groupPut_pools (s : State) (p : Nat) (x : Group) : (groupPut s p x).pools = s.pools := rfl
@[simp] theorem groupPut_parts (s : State) (p : Nat) (x : Group) : (groupPut s p x).parts = s.parts := rfl
@[simp] theorem groupPut_leekUp (s : State) (p : Nat) (x : Group) : (groupPut s p x).leekUp = s.leekUp := rfl
@[simp] theorem groupPut_streams (s : State) (p : Nat) (x : Group) : (groupPut s p x).streams = s.streams := rfl
@[simp] theorem groupPut_admitSeq (s : State) (p : Nat) (x : Group) : (groupPut s p x).admitSeq = s.admitSeq := rfl
@[simp] theorem groupPut_spool (s : State) (p : Nat) (x : Group) : (groupPut s p x).spool = s.spool := rfl
@[simp] theorem groupPut_pairs (s : State) (p : Nat) (x : Group) : (groupPut s p x).pairs = s.pairs := rfl
@[simp] theorem groupPut_lastPair (s : State) (p : Nat) (x : Group) : (groupPut s p x).lastPair = s.lastPair := rfl
@[simp] theorem groupPut_works (s : State) (p : Nat) (x : Group) : (groupPut s p x).works = s.works := rfl
@[simp] theorem groupPut_nextWid (s : State) (p : Nat) (x : Group) : (groupPut s p x).nextWid = s.nextWid := rfl
@[simp] theorem groupPut_slots (s : State) (p : Nat) (x : Group) : (groupPut s p x).slots = s.slots := rfl
@[simp] theorem groupPut_staging (s : State) (p : Nat) (x : Group) : (groupPut s p x).staging = s.staging := rfl
@[simp] theorem groupPut_shedAt (s : State) (p : Nat) (x : Group) : (groupPut s p x).shedAt = s.shedAt := rfl
@[simp] theorem groupPut_restoredAt (s : State) (p : Nat) (x : Group) : (groupPut s p x).restoredAt = s.restoredAt := rfl
@[simp] theorem groupPut_hold3 (s : State) (p : Nat) (x : Group) : (groupPut s p x).hold3 = s.hold3 := rfl
@[simp] theorem groupPut_endedOps (s : State) (p : Nat) (x : Group) : (groupPut s p x).endedOps = s.endedOps := rfl
@[simp] theorem groupPut_cams (s : State) (p : Nat) (x : Group) : (groupPut s p x).cams = s.cams := rfl
@[simp] theorem groupPut_encs (s : State) (p : Nat) (x : Group) : (groupPut s p x).encs = s.encs := rfl
@[simp] theorem groupPut_odo (s : State) (p : Nat) (x : Group) : (groupPut s p x).odo = s.odo := rfl
@[simp] theorem groupPut_chans (s : State) (p : Nat) (x : Group) : (groupPut s p x).chans = s.chans := rfl
@[simp] theorem groupPut_trackSerial (s : State) (p : Nat) (x : Group) : (groupPut s p x).trackSerial = s.trackSerial := rfl
@[simp] theorem groupPut_disps (s : State) (p : Nat) (x : Group) : (groupPut s p x).disps = s.disps := rfl
@[simp] theorem groupPut_fab (s : State) (p : Nat) (x : Group) : (groupPut s p x).fab = s.fab := rfl
@[simp] theorem groupPut_boot (s : State) (p : Nat) (x : Group) : (groupPut s p x).boot = s.boot := rfl
@[simp] theorem groupPut_pods (s : State) (p : Nat) (x : Group) : (groupPut s p x).pods = s.pods := rfl
@[simp] theorem groupPut_pins (s : State) (p : Nat) (x : Group) : (groupPut s p x).pins = s.pins := rfl
@[simp] theorem groupPut_power (s : State) (p : Nat) (x : Group) : (groupPut s p x).power = s.power := rfl
@[simp] theorem groupPut_cons (s : State) (p : Nat) (x : Group) : (groupPut s p x).cons = s.cons := rfl
@[simp] theorem groupPut_snap (s : State) (p : Nat) (x : Group) : (groupPut s p x).snap = s.snap := rfl
@[simp] theorem groupPut_tokens (s : State) (p : Nat) (x : Group) : (groupPut s p x).tokens = s.tokens := rfl
@[simp] theorem groupPut_sec (s : State) (p : Nat) (x : Group) : (groupPut s p x).sec = s.sec := rfl
@[simp] theorem groupPut_rrp (s : State) (p : Nat) (x : Group) : (groupPut s p x).rrp = s.rrp := rfl
@[simp] theorem groupPut_eth (s : State) (p : Nat) (x : Group) : (groupPut s p x).eth = s.eth := rfl
@[simp] theorem groupPut_ddr (s : State) (p : Nat) (x : Group) : (groupPut s p x).ddr = s.ddr := rfl
@[simp] theorem groupPut_out (s : State) (p : Nat) (x : Group) : (groupPut s p x).out = s.out := rfl
@[simp] theorem groupPut_freeNo (s : State) (p : Nat) (x : Group) : (groupPut s p x).freeNo = s.freeNo := rfl
@[simp] theorem regGet_groupPut (s : State) (p : Nat) (x : Group) (r : Nat) : regGet (groupPut s p x) r = regGet s r := rfl

@[simp] theorem dispPut_pending (s : State) (p : Nat) (x : Disp) : (dispPut s p x).pending = s.pending := rfl
@[simp] theorem dispPut_time (s : State) (p : Nat) (x : Disp) : (dispPut s p x).time = s.time := rfl
@[simp] theorem dispPut_elapsed (s : State) (p : Nat) (x : Disp) : (dispPut s p x).elapsed = s.elapsed := rfl
@[simp] theorem dispPut_regs (s : State) (p : Nat) (x : Disp) : (dispPut s p x).regs = s.regs := rfl
@[simp] theorem dispPut_held (s : State) (p : Nat) (x : Disp) : (dispPut s p x).held = s.held := rfl
@[simp] theorem dispPut_capture (s : State) (p : Nat) (x : Disp) : (dispPut s p x).capture = s.capture := rfl
@[simp] theorem dispPut_shadow (s : State) (p : Nat) (x : Disp) : (dispPut s p x).shadow = s.shadow := rfl
@[simp] theorem dispPut_resp (s : State) (p : Nat) (x : Disp) : (dispPut s p x).resp = s.resp := rfl
@[simp] theorem dispPut_mem (s : State) (p : Nat) (x : Disp) : (dispPut s p x).mem = s.mem := rfl
@[simp] theorem dispPut_poison (s : State) (p : Nat) (x : Disp) : (dispPut s p x).poison = s.poison := rfl
@[simp] theorem dispPut_log (s : State) (p : Nat) (x : Disp) : (dispPut s p x).log = s.log := rfl
@[simp] theorem dispPut_logHead (s : State) (p : Nat) (x : Disp) : (dispPut s p x).logHead = s.logHead := rfl
@[simp] theorem dispPut_wins (s : State) (p : Nat) (x : Disp) : (dispPut s p x).wins = s.wins := rfl
@[simp] theorem dispPut_resident (s : State) (p : Nat) (x : Disp) : (dispPut s p x).resident = s.resident := rfl
@[simp] theorem dispPut_pools (s : State) (p : Nat) (x : Disp) : (dispPut s p x).pools = s.pools := rfl
@[simp] theorem dispPut_parts (s : State) (p : Nat) (x : Disp) : (dispPut s p x).parts = s.parts := rfl
@[simp] theorem dispPut_leekUp (s : State) (p : Nat) (x : Disp) : (dispPut s p x).leekUp = s.leekUp := rfl
@[simp] theorem dispPut_streams (s : State) (p : Nat) (x : Disp) : (dispPut s p x).streams = s.streams := rfl
@[simp] theorem dispPut_admitSeq (s : State) (p : Nat) (x : Disp) : (dispPut s p x).admitSeq = s.admitSeq := rfl
@[simp] theorem dispPut_spool (s : State) (p : Nat) (x : Disp) : (dispPut s p x).spool = s.spool := rfl
@[simp] theorem dispPut_pairs (s : State) (p : Nat) (x : Disp) : (dispPut s p x).pairs = s.pairs := rfl
@[simp] theorem dispPut_lastPair (s : State) (p : Nat) (x : Disp) : (dispPut s p x).lastPair = s.lastPair := rfl
@[simp] theorem dispPut_works (s : State) (p : Nat) (x : Disp) : (dispPut s p x).works = s.works := rfl
@[simp] theorem dispPut_nextWid (s : State) (p : Nat) (x : Disp) : (dispPut s p x).nextWid = s.nextWid := rfl
@[simp] theorem dispPut_slots (s : State) (p : Nat) (x : Disp) : (dispPut s p x).slots = s.slots := rfl
@[simp] theorem dispPut_staging (s : State) (p : Nat) (x : Disp) : (dispPut s p x).staging = s.staging := rfl
@[simp] theorem dispPut_shedAt (s : State) (p : Nat) (x : Disp) : (dispPut s p x).shedAt = s.shedAt := rfl
@[simp] theorem dispPut_restoredAt (s : State) (p : Nat) (x : Disp) : (dispPut s p x).restoredAt = s.restoredAt := rfl
@[simp] theorem dispPut_hold3 (s : State) (p : Nat) (x : Disp) : (dispPut s p x).hold3 = s.hold3 := rfl
@[simp] theorem dispPut_endedOps (s : State) (p : Nat) (x : Disp) : (dispPut s p x).endedOps = s.endedOps := rfl
@[simp] theorem dispPut_cams (s : State) (p : Nat) (x : Disp) : (dispPut s p x).cams = s.cams := rfl
@[simp] theorem dispPut_encs (s : State) (p : Nat) (x : Disp) : (dispPut s p x).encs = s.encs := rfl
@[simp] theorem dispPut_odo (s : State) (p : Nat) (x : Disp) : (dispPut s p x).odo = s.odo := rfl
@[simp] theorem dispPut_chans (s : State) (p : Nat) (x : Disp) : (dispPut s p x).chans = s.chans := rfl
@[simp] theorem dispPut_groups (s : State) (p : Nat) (x : Disp) : (dispPut s p x).groups = s.groups := rfl
@[simp] theorem dispPut_trackSerial (s : State) (p : Nat) (x : Disp) : (dispPut s p x).trackSerial = s.trackSerial := rfl
@[simp] theorem dispPut_fab (s : State) (p : Nat) (x : Disp) : (dispPut s p x).fab = s.fab := rfl
@[simp] theorem dispPut_boot (s : State) (p : Nat) (x : Disp) : (dispPut s p x).boot = s.boot := rfl
@[simp] theorem dispPut_pods (s : State) (p : Nat) (x : Disp) : (dispPut s p x).pods = s.pods := rfl
@[simp] theorem dispPut_pins (s : State) (p : Nat) (x : Disp) : (dispPut s p x).pins = s.pins := rfl
@[simp] theorem dispPut_power (s : State) (p : Nat) (x : Disp) : (dispPut s p x).power = s.power := rfl
@[simp] theorem dispPut_cons (s : State) (p : Nat) (x : Disp) : (dispPut s p x).cons = s.cons := rfl
@[simp] theorem dispPut_snap (s : State) (p : Nat) (x : Disp) : (dispPut s p x).snap = s.snap := rfl
@[simp] theorem dispPut_tokens (s : State) (p : Nat) (x : Disp) : (dispPut s p x).tokens = s.tokens := rfl
@[simp] theorem dispPut_sec (s : State) (p : Nat) (x : Disp) : (dispPut s p x).sec = s.sec := rfl
@[simp] theorem dispPut_rrp (s : State) (p : Nat) (x : Disp) : (dispPut s p x).rrp = s.rrp := rfl
@[simp] theorem dispPut_eth (s : State) (p : Nat) (x : Disp) : (dispPut s p x).eth = s.eth := rfl
@[simp] theorem dispPut_ddr (s : State) (p : Nat) (x : Disp) : (dispPut s p x).ddr = s.ddr := rfl
@[simp] theorem dispPut_out (s : State) (p : Nat) (x : Disp) : (dispPut s p x).out = s.out := rfl
@[simp] theorem dispPut_freeNo (s : State) (p : Nat) (x : Disp) : (dispPut s p x).freeNo = s.freeNo := rfl
@[simp] theorem regGet_dispPut (s : State) (p : Nat) (x : Disp) (r : Nat) : regGet (dispPut s p x) r = regGet s r := rfl

@[simp] theorem dispSet_pending (s : State) (d off v : Nat) : (dispSet s d off v).pending = s.pending := rfl
@[simp] theorem dispSet_time (s : State) (d off v : Nat) : (dispSet s d off v).time = s.time := rfl
@[simp] theorem dispSet_elapsed (s : State) (d off v : Nat) : (dispSet s d off v).elapsed = s.elapsed := rfl
@[simp] theorem dispSet_held (s : State) (d off v : Nat) : (dispSet s d off v).held = s.held := rfl
@[simp] theorem dispSet_capture (s : State) (d off v : Nat) : (dispSet s d off v).capture = s.capture := rfl
@[simp] theorem dispSet_shadow (s : State) (d off v : Nat) : (dispSet s d off v).shadow = s.shadow := rfl
@[simp] theorem dispSet_resp (s : State) (d off v : Nat) : (dispSet s d off v).resp = s.resp := rfl
@[simp] theorem dispSet_mem (s : State) (d off v : Nat) : (dispSet s d off v).mem = s.mem := rfl
@[simp] theorem dispSet_poison (s : State) (d off v : Nat) : (dispSet s d off v).poison = s.poison := rfl
@[simp] theorem dispSet_log (s : State) (d off v : Nat) : (dispSet s d off v).log = s.log := rfl
@[simp] theorem dispSet_logHead (s : State) (d off v : Nat) : (dispSet s d off v).logHead = s.logHead := rfl
@[simp] theorem dispSet_wins (s : State) (d off v : Nat) : (dispSet s d off v).wins = s.wins := rfl
@[simp] theorem dispSet_resident (s : State) (d off v : Nat) : (dispSet s d off v).resident = s.resident := rfl
@[simp] theorem dispSet_pools (s : State) (d off v : Nat) : (dispSet s d off v).pools = s.pools := rfl
@[simp] theorem dispSet_parts (s : State) (d off v : Nat) : (dispSet s d off v).parts = s.parts := rfl
@[simp] theorem dispSet_leekUp (s : State) (d off v : Nat) : (dispSet s d off v).leekUp = s.leekUp := rfl
@[simp] theorem dispSet_streams (s : State) (d off v : Nat) : (dispSet s d off v).streams = s.streams := rfl
@[simp] theorem dispSet_admitSeq (s : State) (d off v : Nat) : (dispSet s d off v).admitSeq = s.admitSeq := rfl
@[simp] theorem dispSet_spool (s : State) (d off v : Nat) : (dispSet s d off v).spool = s.spool := rfl
@[simp] theorem dispSet_pairs (s : State) (d off v : Nat) : (dispSet s d off v).pairs = s.pairs := rfl
@[simp] theorem dispSet_lastPair (s : State) (d off v : Nat) : (dispSet s d off v).lastPair = s.lastPair := rfl
@[simp] theorem dispSet_works (s : State) (d off v : Nat) : (dispSet s d off v).works = s.works := rfl
@[simp] theorem dispSet_nextWid (s : State) (d off v : Nat) : (dispSet s d off v).nextWid = s.nextWid := rfl
@[simp] theorem dispSet_slots (s : State) (d off v : Nat) : (dispSet s d off v).slots = s.slots := rfl
@[simp] theorem dispSet_staging (s : State) (d off v : Nat) : (dispSet s d off v).staging = s.staging := rfl
@[simp] theorem dispSet_shedAt (s : State) (d off v : Nat) : (dispSet s d off v).shedAt = s.shedAt := rfl
@[simp] theorem dispSet_restoredAt (s : State) (d off v : Nat) : (dispSet s d off v).restoredAt = s.restoredAt := rfl
@[simp] theorem dispSet_hold3 (s : State) (d off v : Nat) : (dispSet s d off v).hold3 = s.hold3 := rfl
@[simp] theorem dispSet_endedOps (s : State) (d off v : Nat) : (dispSet s d off v).endedOps = s.endedOps := rfl
@[simp] theorem dispSet_cams (s : State) (d off v : Nat) : (dispSet s d off v).cams = s.cams := rfl
@[simp] theorem dispSet_encs (s : State) (d off v : Nat) : (dispSet s d off v).encs = s.encs := rfl
@[simp] theorem dispSet_odo (s : State) (d off v : Nat) : (dispSet s d off v).odo = s.odo := rfl
@[simp] theorem dispSet_chans (s : State) (d off v : Nat) : (dispSet s d off v).chans = s.chans := rfl
@[simp] theorem dispSet_groups (s : State) (d off v : Nat) : (dispSet s d off v).groups = s.groups := rfl
@[simp] theorem dispSet_trackSerial (s : State) (d off v : Nat) : (dispSet s d off v).trackSerial = s.trackSerial := rfl
@[simp] theorem dispSet_disps (s : State) (d off v : Nat) : (dispSet s d off v).disps = s.disps := rfl
@[simp] theorem dispSet_fab (s : State) (d off v : Nat) : (dispSet s d off v).fab = s.fab := rfl
@[simp] theorem dispSet_boot (s : State) (d off v : Nat) : (dispSet s d off v).boot = s.boot := rfl
@[simp] theorem dispSet_pods (s : State) (d off v : Nat) : (dispSet s d off v).pods = s.pods := rfl
@[simp] theorem dispSet_pins (s : State) (d off v : Nat) : (dispSet s d off v).pins = s.pins := rfl
@[simp] theorem dispSet_power (s : State) (d off v : Nat) : (dispSet s d off v).power = s.power := rfl
@[simp] theorem dispSet_cons (s : State) (d off v : Nat) : (dispSet s d off v).cons = s.cons := rfl
@[simp] theorem dispSet_snap (s : State) (d off v : Nat) : (dispSet s d off v).snap = s.snap := rfl
@[simp] theorem dispSet_tokens (s : State) (d off v : Nat) : (dispSet s d off v).tokens = s.tokens := rfl
@[simp] theorem dispSet_sec (s : State) (d off v : Nat) : (dispSet s d off v).sec = s.sec := rfl
@[simp] theorem dispSet_rrp (s : State) (d off v : Nat) : (dispSet s d off v).rrp = s.rrp := rfl
@[simp] theorem dispSet_eth (s : State) (d off v : Nat) : (dispSet s d off v).eth = s.eth := rfl
@[simp] theorem dispSet_ddr (s : State) (d off v : Nat) : (dispSet s d off v).ddr = s.ddr := rfl
@[simp] theorem dispSet_out (s : State) (d off v : Nat) : (dispSet s d off v).out = s.out := rfl
@[simp] theorem dispSet_freeNo (s : State) (d off v : Nat) : (dispSet s d off v).freeNo = s.freeNo := rfl

@[simp] theorem setFabState_pending (s : State) (p v : Nat) : (setFabState s p v).pending = s.pending := rfl
@[simp] theorem setFabState_time (s : State) (p v : Nat) : (setFabState s p v).time = s.time := rfl
@[simp] theorem setFabState_elapsed (s : State) (p v : Nat) : (setFabState s p v).elapsed = s.elapsed := rfl
@[simp] theorem setFabState_held (s : State) (p v : Nat) : (setFabState s p v).held = s.held := rfl
@[simp] theorem setFabState_capture (s : State) (p v : Nat) : (setFabState s p v).capture = s.capture := rfl
@[simp] theorem setFabState_shadow (s : State) (p v : Nat) : (setFabState s p v).shadow = s.shadow := rfl
@[simp] theorem setFabState_resp (s : State) (p v : Nat) : (setFabState s p v).resp = s.resp := rfl
@[simp] theorem setFabState_mem (s : State) (p v : Nat) : (setFabState s p v).mem = s.mem := rfl
@[simp] theorem setFabState_poison (s : State) (p v : Nat) : (setFabState s p v).poison = s.poison := rfl
@[simp] theorem setFabState_log (s : State) (p v : Nat) : (setFabState s p v).log = s.log := rfl
@[simp] theorem setFabState_logHead (s : State) (p v : Nat) : (setFabState s p v).logHead = s.logHead := rfl
@[simp] theorem setFabState_wins (s : State) (p v : Nat) : (setFabState s p v).wins = s.wins := rfl
@[simp] theorem setFabState_resident (s : State) (p v : Nat) : (setFabState s p v).resident = s.resident := rfl
@[simp] theorem setFabState_pools (s : State) (p v : Nat) : (setFabState s p v).pools = s.pools := rfl
@[simp] theorem setFabState_parts (s : State) (p v : Nat) : (setFabState s p v).parts = s.parts := rfl
@[simp] theorem setFabState_leekUp (s : State) (p v : Nat) : (setFabState s p v).leekUp = s.leekUp := rfl
@[simp] theorem setFabState_streams (s : State) (p v : Nat) : (setFabState s p v).streams = s.streams := rfl
@[simp] theorem setFabState_admitSeq (s : State) (p v : Nat) : (setFabState s p v).admitSeq = s.admitSeq := rfl
@[simp] theorem setFabState_spool (s : State) (p v : Nat) : (setFabState s p v).spool = s.spool := rfl
@[simp] theorem setFabState_pairs (s : State) (p v : Nat) : (setFabState s p v).pairs = s.pairs := rfl
@[simp] theorem setFabState_lastPair (s : State) (p v : Nat) : (setFabState s p v).lastPair = s.lastPair := rfl
@[simp] theorem setFabState_works (s : State) (p v : Nat) : (setFabState s p v).works = s.works := rfl
@[simp] theorem setFabState_nextWid (s : State) (p v : Nat) : (setFabState s p v).nextWid = s.nextWid := rfl
@[simp] theorem setFabState_slots (s : State) (p v : Nat) : (setFabState s p v).slots = s.slots := rfl
@[simp] theorem setFabState_staging (s : State) (p v : Nat) : (setFabState s p v).staging = s.staging := rfl
@[simp] theorem setFabState_shedAt (s : State) (p v : Nat) : (setFabState s p v).shedAt = s.shedAt := rfl
@[simp] theorem setFabState_restoredAt (s : State) (p v : Nat) : (setFabState s p v).restoredAt = s.restoredAt := rfl
@[simp] theorem setFabState_hold3 (s : State) (p v : Nat) : (setFabState s p v).hold3 = s.hold3 := rfl
@[simp] theorem setFabState_endedOps (s : State) (p v : Nat) : (setFabState s p v).endedOps = s.endedOps := rfl
@[simp] theorem setFabState_cams (s : State) (p v : Nat) : (setFabState s p v).cams = s.cams := rfl
@[simp] theorem setFabState_encs (s : State) (p v : Nat) : (setFabState s p v).encs = s.encs := rfl
@[simp] theorem setFabState_odo (s : State) (p v : Nat) : (setFabState s p v).odo = s.odo := rfl
@[simp] theorem setFabState_chans (s : State) (p v : Nat) : (setFabState s p v).chans = s.chans := rfl
@[simp] theorem setFabState_groups (s : State) (p v : Nat) : (setFabState s p v).groups = s.groups := rfl
@[simp] theorem setFabState_trackSerial (s : State) (p v : Nat) : (setFabState s p v).trackSerial = s.trackSerial := rfl
@[simp] theorem setFabState_disps (s : State) (p v : Nat) : (setFabState s p v).disps = s.disps := rfl
@[simp] theorem setFabState_fab (s : State) (p v : Nat) : (setFabState s p v).fab = s.fab := rfl
@[simp] theorem setFabState_boot (s : State) (p v : Nat) : (setFabState s p v).boot = s.boot := rfl
@[simp] theorem setFabState_pods (s : State) (p v : Nat) : (setFabState s p v).pods = s.pods := rfl
@[simp] theorem setFabState_pins (s : State) (p v : Nat) : (setFabState s p v).pins = s.pins := rfl
@[simp] theorem setFabState_power (s : State) (p v : Nat) : (setFabState s p v).power = s.power := rfl
@[simp] theorem setFabState_cons (s : State) (p v : Nat) : (setFabState s p v).cons = s.cons := rfl
@[simp] theorem setFabState_snap (s : State) (p v : Nat) : (setFabState s p v).snap = s.snap := rfl
@[simp] theorem setFabState_tokens (s : State) (p v : Nat) : (setFabState s p v).tokens = s.tokens := rfl
@[simp] theorem setFabState_sec (s : State) (p v : Nat) : (setFabState s p v).sec = s.sec := rfl
@[simp] theorem setFabState_rrp (s : State) (p v : Nat) : (setFabState s p v).rrp = s.rrp := rfl
@[simp] theorem setFabState_eth (s : State) (p v : Nat) : (setFabState s p v).eth = s.eth := rfl
@[simp] theorem setFabState_ddr (s : State) (p v : Nat) : (setFabState s p v).ddr = s.ddr := rfl
@[simp] theorem setFabState_out (s : State) (p v : Nat) : (setFabState s p v).out = s.out := rfl
@[simp] theorem setFabState_freeNo (s : State) (p v : Nat) : (setFabState s p v).freeNo = s.freeNo := rfl

@[simp] theorem answer_pending (s : State) (v : Nat) (e : Bool) : (answer s v e).pending = s.pending := rfl
@[simp] theorem answer_time (s : State) (v : Nat) (e : Bool) : (answer s v e).time = s.time := rfl
@[simp] theorem answer_elapsed (s : State) (v : Nat) (e : Bool) : (answer s v e).elapsed = s.elapsed := rfl
@[simp] theorem answer_regs (s : State) (v : Nat) (e : Bool) : (answer s v e).regs = s.regs := rfl
@[simp] theorem answer_held (s : State) (v : Nat) (e : Bool) : (answer s v e).held = s.held := rfl
@[simp] theorem answer_capture (s : State) (v : Nat) (e : Bool) : (answer s v e).capture = s.capture := rfl
@[simp] theorem answer_shadow (s : State) (v : Nat) (e : Bool) : (answer s v e).shadow = s.shadow := rfl
@[simp] theorem answer_mem (s : State) (v : Nat) (e : Bool) : (answer s v e).mem = s.mem := rfl
@[simp] theorem answer_poison (s : State) (v : Nat) (e : Bool) : (answer s v e).poison = s.poison := rfl
@[simp] theorem answer_log (s : State) (v : Nat) (e : Bool) : (answer s v e).log = s.log := rfl
@[simp] theorem answer_logHead (s : State) (v : Nat) (e : Bool) : (answer s v e).logHead = s.logHead := rfl
@[simp] theorem answer_wins (s : State) (v : Nat) (e : Bool) : (answer s v e).wins = s.wins := rfl
@[simp] theorem answer_resident (s : State) (v : Nat) (e : Bool) : (answer s v e).resident = s.resident := rfl
@[simp] theorem answer_pools (s : State) (v : Nat) (e : Bool) : (answer s v e).pools = s.pools := rfl
@[simp] theorem answer_parts (s : State) (v : Nat) (e : Bool) : (answer s v e).parts = s.parts := rfl
@[simp] theorem answer_leekUp (s : State) (v : Nat) (e : Bool) : (answer s v e).leekUp = s.leekUp := rfl
@[simp] theorem answer_streams (s : State) (v : Nat) (e : Bool) : (answer s v e).streams = s.streams := rfl
@[simp] theorem answer_admitSeq (s : State) (v : Nat) (e : Bool) : (answer s v e).admitSeq = s.admitSeq := rfl
@[simp] theorem answer_spool (s : State) (v : Nat) (e : Bool) : (answer s v e).spool = s.spool := rfl
@[simp] theorem answer_pairs (s : State) (v : Nat) (e : Bool) : (answer s v e).pairs = s.pairs := rfl
@[simp] theorem answer_lastPair (s : State) (v : Nat) (e : Bool) : (answer s v e).lastPair = s.lastPair := rfl
@[simp] theorem answer_works (s : State) (v : Nat) (e : Bool) : (answer s v e).works = s.works := rfl
@[simp] theorem answer_nextWid (s : State) (v : Nat) (e : Bool) : (answer s v e).nextWid = s.nextWid := rfl
@[simp] theorem answer_slots (s : State) (v : Nat) (e : Bool) : (answer s v e).slots = s.slots := rfl
@[simp] theorem answer_staging (s : State) (v : Nat) (e : Bool) : (answer s v e).staging = s.staging := rfl
@[simp] theorem answer_shedAt (s : State) (v : Nat) (e : Bool) : (answer s v e).shedAt = s.shedAt := rfl
@[simp] theorem answer_restoredAt (s : State) (v : Nat) (e : Bool) : (answer s v e).restoredAt = s.restoredAt := rfl
@[simp] theorem answer_hold3 (s : State) (v : Nat) (e : Bool) : (answer s v e).hold3 = s.hold3 := rfl
@[simp] theorem answer_endedOps (s : State) (v : Nat) (e : Bool) : (answer s v e).endedOps = s.endedOps := rfl
@[simp] theorem answer_cams (s : State) (v : Nat) (e : Bool) : (answer s v e).cams = s.cams := rfl
@[simp] theorem answer_encs (s : State) (v : Nat) (e : Bool) : (answer s v e).encs = s.encs := rfl
@[simp] theorem answer_odo (s : State) (v : Nat) (e : Bool) : (answer s v e).odo = s.odo := rfl
@[simp] theorem answer_chans (s : State) (v : Nat) (e : Bool) : (answer s v e).chans = s.chans := rfl
@[simp] theorem answer_groups (s : State) (v : Nat) (e : Bool) : (answer s v e).groups = s.groups := rfl
@[simp] theorem answer_trackSerial (s : State) (v : Nat) (e : Bool) : (answer s v e).trackSerial = s.trackSerial := rfl
@[simp] theorem answer_disps (s : State) (v : Nat) (e : Bool) : (answer s v e).disps = s.disps := rfl
@[simp] theorem answer_fab (s : State) (v : Nat) (e : Bool) : (answer s v e).fab = s.fab := rfl
@[simp] theorem answer_boot (s : State) (v : Nat) (e : Bool) : (answer s v e).boot = s.boot := rfl
@[simp] theorem answer_pods (s : State) (v : Nat) (e : Bool) : (answer s v e).pods = s.pods := rfl
@[simp] theorem answer_pins (s : State) (v : Nat) (e : Bool) : (answer s v e).pins = s.pins := rfl
@[simp] theorem answer_power (s : State) (v : Nat) (e : Bool) : (answer s v e).power = s.power := rfl
@[simp] theorem answer_cons (s : State) (v : Nat) (e : Bool) : (answer s v e).cons = s.cons := rfl
@[simp] theorem answer_snap (s : State) (v : Nat) (e : Bool) : (answer s v e).snap = s.snap := rfl
@[simp] theorem answer_tokens (s : State) (v : Nat) (e : Bool) : (answer s v e).tokens = s.tokens := rfl
@[simp] theorem answer_sec (s : State) (v : Nat) (e : Bool) : (answer s v e).sec = s.sec := rfl
@[simp] theorem answer_rrp (s : State) (v : Nat) (e : Bool) : (answer s v e).rrp = s.rrp := rfl
@[simp] theorem answer_eth (s : State) (v : Nat) (e : Bool) : (answer s v e).eth = s.eth := rfl
@[simp] theorem answer_ddr (s : State) (v : Nat) (e : Bool) : (answer s v e).ddr = s.ddr := rfl
@[simp] theorem answer_out (s : State) (v : Nat) (e : Bool) : (answer s v e).out = s.out := rfl
@[simp] theorem answer_freeNo (s : State) (v : Nat) (e : Bool) : (answer s v e).freeNo = s.freeNo := rfl
@[simp] theorem regGet_answer (s : State) (v : Nat) (e : Bool) (r : Nat) : regGet (answer s v e) r = regGet s r := rfl

@[simp] theorem shadowPut_pending (s : State) (a v : Nat) : (shadowPut s a v).pending = s.pending := rfl
@[simp] theorem shadowPut_time (s : State) (a v : Nat) : (shadowPut s a v).time = s.time := rfl
@[simp] theorem shadowPut_elapsed (s : State) (a v : Nat) : (shadowPut s a v).elapsed = s.elapsed := rfl
@[simp] theorem shadowPut_regs (s : State) (a v : Nat) : (shadowPut s a v).regs = s.regs := rfl
@[simp] theorem shadowPut_held (s : State) (a v : Nat) : (shadowPut s a v).held = s.held := rfl
@[simp] theorem shadowPut_capture (s : State) (a v : Nat) : (shadowPut s a v).capture = s.capture := rfl
@[simp] theorem shadowPut_resp (s : State) (a v : Nat) : (shadowPut s a v).resp = s.resp := rfl
@[simp] theorem shadowPut_mem (s : State) (a v : Nat) : (shadowPut s a v).mem = s.mem := rfl
@[simp] theorem shadowPut_poison (s : State) (a v : Nat) : (shadowPut s a v).poison = s.poison := rfl
@[simp] theorem shadowPut_log (s : State) (a v : Nat) : (shadowPut s a v).log = s.log := rfl
@[simp] theorem shadowPut_logHead (s : State) (a v : Nat) : (shadowPut s a v).logHead = s.logHead := rfl
@[simp] theorem shadowPut_wins (s : State) (a v : Nat) : (shadowPut s a v).wins = s.wins := rfl
@[simp] theorem shadowPut_resident (s : State) (a v : Nat) : (shadowPut s a v).resident = s.resident := rfl
@[simp] theorem shadowPut_pools (s : State) (a v : Nat) : (shadowPut s a v).pools = s.pools := rfl
@[simp] theorem shadowPut_parts (s : State) (a v : Nat) : (shadowPut s a v).parts = s.parts := rfl
@[simp] theorem shadowPut_leekUp (s : State) (a v : Nat) : (shadowPut s a v).leekUp = s.leekUp := rfl
@[simp] theorem shadowPut_streams (s : State) (a v : Nat) : (shadowPut s a v).streams = s.streams := rfl
@[simp] theorem shadowPut_admitSeq (s : State) (a v : Nat) : (shadowPut s a v).admitSeq = s.admitSeq := rfl
@[simp] theorem shadowPut_spool (s : State) (a v : Nat) : (shadowPut s a v).spool = s.spool := rfl
@[simp] theorem shadowPut_pairs (s : State) (a v : Nat) : (shadowPut s a v).pairs = s.pairs := rfl
@[simp] theorem shadowPut_lastPair (s : State) (a v : Nat) : (shadowPut s a v).lastPair = s.lastPair := rfl
@[simp] theorem shadowPut_works (s : State) (a v : Nat) : (shadowPut s a v).works = s.works := rfl
@[simp] theorem shadowPut_nextWid (s : State) (a v : Nat) : (shadowPut s a v).nextWid = s.nextWid := rfl
@[simp] theorem shadowPut_slots (s : State) (a v : Nat) : (shadowPut s a v).slots = s.slots := rfl
@[simp] theorem shadowPut_staging (s : State) (a v : Nat) : (shadowPut s a v).staging = s.staging := rfl
@[simp] theorem shadowPut_shedAt (s : State) (a v : Nat) : (shadowPut s a v).shedAt = s.shedAt := rfl
@[simp] theorem shadowPut_restoredAt (s : State) (a v : Nat) : (shadowPut s a v).restoredAt = s.restoredAt := rfl
@[simp] theorem shadowPut_hold3 (s : State) (a v : Nat) : (shadowPut s a v).hold3 = s.hold3 := rfl
@[simp] theorem shadowPut_endedOps (s : State) (a v : Nat) : (shadowPut s a v).endedOps = s.endedOps := rfl
@[simp] theorem shadowPut_cams (s : State) (a v : Nat) : (shadowPut s a v).cams = s.cams := rfl
@[simp] theorem shadowPut_encs (s : State) (a v : Nat) : (shadowPut s a v).encs = s.encs := rfl
@[simp] theorem shadowPut_odo (s : State) (a v : Nat) : (shadowPut s a v).odo = s.odo := rfl
@[simp] theorem shadowPut_chans (s : State) (a v : Nat) : (shadowPut s a v).chans = s.chans := rfl
@[simp] theorem shadowPut_groups (s : State) (a v : Nat) : (shadowPut s a v).groups = s.groups := rfl
@[simp] theorem shadowPut_trackSerial (s : State) (a v : Nat) : (shadowPut s a v).trackSerial = s.trackSerial := rfl
@[simp] theorem shadowPut_disps (s : State) (a v : Nat) : (shadowPut s a v).disps = s.disps := rfl
@[simp] theorem shadowPut_fab (s : State) (a v : Nat) : (shadowPut s a v).fab = s.fab := rfl
@[simp] theorem shadowPut_boot (s : State) (a v : Nat) : (shadowPut s a v).boot = s.boot := rfl
@[simp] theorem shadowPut_pods (s : State) (a v : Nat) : (shadowPut s a v).pods = s.pods := rfl
@[simp] theorem shadowPut_pins (s : State) (a v : Nat) : (shadowPut s a v).pins = s.pins := rfl
@[simp] theorem shadowPut_power (s : State) (a v : Nat) : (shadowPut s a v).power = s.power := rfl
@[simp] theorem shadowPut_cons (s : State) (a v : Nat) : (shadowPut s a v).cons = s.cons := rfl
@[simp] theorem shadowPut_snap (s : State) (a v : Nat) : (shadowPut s a v).snap = s.snap := rfl
@[simp] theorem shadowPut_tokens (s : State) (a v : Nat) : (shadowPut s a v).tokens = s.tokens := rfl
@[simp] theorem shadowPut_sec (s : State) (a v : Nat) : (shadowPut s a v).sec = s.sec := rfl
@[simp] theorem shadowPut_rrp (s : State) (a v : Nat) : (shadowPut s a v).rrp = s.rrp := rfl
@[simp] theorem shadowPut_eth (s : State) (a v : Nat) : (shadowPut s a v).eth = s.eth := rfl
@[simp] theorem shadowPut_ddr (s : State) (a v : Nat) : (shadowPut s a v).ddr = s.ddr := rfl
@[simp] theorem shadowPut_out (s : State) (a v : Nat) : (shadowPut s a v).out = s.out := rfl
@[simp] theorem shadowPut_freeNo (s : State) (a v : Nat) : (shadowPut s a v).freeNo = s.freeNo := rfl
@[simp] theorem regGet_shadowPut (s : State) (a v : Nat) (r : Nat) : regGet (shadowPut s a v) r = regGet s r := rfl

@[simp] theorem storeBytes_mem (s : State) (a : Nat) (b : List Byte) : (storeBytes s a b).mem = memPutN s.mem a b := rfl
@[simp] theorem pairPut_pairs (s : State) (p : Nat) (x : Pair) : (pairPut s p x).pairs = tset s.pairs p x := rfl
@[simp] theorem workPut_works (s : State) (p : Nat) (x : Work) : (workPut s p x).works = tset s.works p x := rfl
@[simp] theorem streamPut_streams (s : State) (p : Nat) (x : Stream) : (streamPut s p x).streams = tset s.streams p x := rfl
@[simp] theorem camPut_cams (s : State) (p : Nat) (x : Camera) : (camPut s p x).cams = tset s.cams p x := rfl
@[simp] theorem encPut_encs (s : State) (p : Nat) (x : Encoder) : (encPut s p x).encs = tset s.encs p x := rfl
@[simp] theorem chanPut_chans (s : State) (p : Nat) (x : Chan) : (chanPut s p x).chans = tset s.chans p x := rfl
@[simp] theorem groupPut_groups (s : State) (p : Nat) (x : Group) : (groupPut s p x).groups = tset s.groups p x := rfl
@[simp] theorem dispPut_disps (s : State) (p : Nat) (x : Disp) : (dispPut s p x).disps = tset s.disps p x := rfl
@[simp] theorem answer_resp (s : State) (v : Nat) (e : Bool) : (answer s v e).resp = ⟨v, e⟩ := rfl
@[simp] theorem logPush_log (s : State) (e : LogEntry) : (logPush s e).log = (e :: s.log).take 16384 := rfl
@[simp] theorem logPush_logHead (s : State) (e : LogEntry) : (logPush s e).logHead = (s.logHead + 1) % 2 ^ 32 := rfl

end Sys2Proof.Machine
end

