-- ==== Sys2Proof/Laws/Tables.lean ====
section
/-! SUPPORT. Laws of the numbered tables and of the register store. -/
namespace Sys2Proof.Machine

variable {α : Type}

/-- A set entry is read back. -/
@[simp] theorem tget_tset_same (t : Tab α) (n : Nat) (v : α) : tget (tset t n v) n = some v := by
  induction t with
  | nil => simp [tset, tget]
  | cons e t ih =>
    obtain ⟨k, w⟩ := e
    simp only [tset]
    split
    · simp [tget]
    · split
      · simp [tget]
      · simp [tget, *]

/-- Setting an entry leaves the others. -/
theorem tget_tset_other (t : Tab α) {n m : Nat} (v : α) (h : m ≠ n) : tget (tset t n v) m = tget t m := by
  induction t with
  | nil => simp [tset, tget, h.symm]
  | cons e t ih =>
    obtain ⟨k, w⟩ := e
    simp only [tset]
    split
    · simp [tget, h.symm]
    · split
      · subst k; simp [tget, h.symm]
      · simp [tget, ih]

/-- Every entry after a set. -/
theorem tget_tset (t : Tab α) (n m : Nat) (v : α) : tget (tset t n v) m = if m = n then some v else tget t m := by
  by_cases h : m = n
  · subst h; simp
  · simp [h, tget_tset_other]

/-- A register that was stored reads its 32 bits. -/
@[simp] theorem regGet_regPut_same (s : State) (a v : Nat) : regGet (regPut s a v) a = v % 2 ^ 32 := by
  simp [regGet, regPut]

/-- Storing a register leaves the others. -/
theorem regGet_regPut_other (s : State) {a b : Nat} (v : Nat) (h : b ≠ a) : regGet (regPut s a v) b = regGet s b := by
  simp [regGet, regPut, tget_tset_other _ _ h]

/-- Every register after a store. -/
theorem regGet_regPut (s : State) (a b v : Nat) :
    regGet (regPut s a v) b = if b = a then v % 2 ^ 32 else regGet s b := by
  by_cases h : b = a
  · subst h; simp
  · simp [h, regGet_regPut_other]

/-- A register holds 32 bits. -/
theorem regGet_lt (s : State) (a : Nat) : regGet s a < 2 ^ 32 := BitVec.isLt _

/-- Registers depend on the register store alone. -/
theorem regGet_congr {s t : State} (h : t.regs = s.regs) (a : Nat) : regGet t a = regGet s a := by
  simp [regGet, h]

end Sys2Proof.Machine
end

