-- ==== Sys2Proof/Laws/Ops.lean ====
section
/-! SUPPORT. What the shared operations can do, said once for each: checked reads and writes of memory, and, of every
operation of Ops.lean and Ring.lean, that it leaves the queue alone and keeps the state sound. -/
namespace Sys2Proof.Machine

/-! ### Checked accesses -/

/-- A checked read succeeds exactly where every access is granted and no unit read is poisoned, and gives the bytes. -/
theorem devRead_eq_ok {s : State} {ac : Access} {a n : Nat} {b : List Byte} :
    devRead s ac a n = .ok b ↔ checkRange s ac a n = none ∧ poisonIn s a n = none ∧ b = memGetN s.mem a n := by
  unfold devRead
  cases checkRange s ac a n <;> cases poisonIn s a n <;> simp [eq_comm]

/-- A checked write succeeds exactly where every access is granted and no poisoned unit is written in part, and stores. -/
theorem devWrite_eq_ok {s t : State} {ac : Access} {a : Nat} {b : List Byte} :
    devWrite s ac a b = .ok t ↔
      checkRange s ac a b.length = none ∧ poisonPartial s a b.length = none ∧
        t = storeBytes (ddrTouch s [(a, b.length)]) a b := by
  unfold devWrite
  cases checkRange s ac a b.length <;> cases poisonPartial s a b.length <;> simp [eq_comm]

/-- What a successful write leaves: its bytes in place, every other byte, and every field but memory, poison and the times of the
last requests to LPDDR. -/
theorem devWrite_spec {s t : State} {ac : Access} {a : Nat} {b : List Byte} (h : devWrite s ac a b = .ok t)
    (w : Memory.wf s.mem = true) :
    memGetN t.mem a b.length = b ∧ bytesKeptOutside s t a b.length ∧
      t = { s with mem := t.mem, poison := t.poison, ddr := { s.ddr with touched := t.ddr.touched } } := by
  obtain ⟨-, -, rfl⟩ := devWrite_eq_ok.1 h
  exact ⟨memGetN_memPutN a b w, fun x hx => memGet_memPutN_other b hx, rfl⟩

/-! ### What an operation keeps -/

/-- The queue is untouched, and a sound state stays sound. -/
def Kept (s t : State) : Prop := t.pending = s.pending ∧ (soundState s → soundState t)

theorem Kept.refl (s : State) : Kept s s := ⟨rfl, id⟩

theorem Kept.trans {s t u : State} (h : Kept s t) (k : Kept t u) : Kept s u :=
  ⟨k.1.trans h.1, fun x => k.2 (h.2 x)⟩

/-- A change that reaches neither the queue, nor memory, nor the log. -/
theorem kept_of_fields {s t : State} (p : t.pending = s.pending) (m : t.mem = s.mem) (l : t.log = s.log)
    (n : t.logHead = s.logHead) : Kept s t :=
  ⟨p, fun h => by unfold soundState; rw [m, l, n]; exact h⟩

/-- A change after another that reaches neither the queue, nor memory, nor the log. -/
theorem Kept.fields {s t u : State} (h : Kept s t) (p : u.pending = t.pending) (m : u.mem = t.mem) (l : u.log = t.log)
    (n : u.logHead = t.logHead) : Kept s u := h.trans (kept_of_fields p m l n)

theorem Kept.ite {s t u : State} {c : Prop} [Decidable c] (h : Kept s t) (k : Kept s u) : Kept s (if c then t else u) := by
  split <;> assumption

theorem kept_foldl {α : Type} {g : State → α → State} (h : ∀ s x, Kept s (g s x)) (l : List α) (s : State) :
    Kept s (l.foldl g s) := by
  induction l generalizing s with
  | nil => exact .refl s
  | cons x l ih => exact (h s x).trans (ih _)

theorem kept_storeBytes (s : State) (a : Nat) (b : List Byte) : Kept s (storeBytes s a b) :=
  ⟨rfl, fun h => ⟨wf_memPutN a b h.1, h.2⟩⟩

/-- Memory that loses contents stays in its canonical form. -/
theorem kept_memLose (s : State) (p : Nat → Bool) : Kept s { s with mem := memLose s.mem p } :=
  ⟨rfl, fun h => ⟨wf_memLose p h.1, h.2⟩⟩

theorem kept_logPush (s : State) (e : LogEntry) : Kept s (logPush s e) :=
  ⟨rfl, fun h => ⟨h.1, by simp, Nat.mod_lt _ (by decide)⟩⟩

theorem kept_logAdd (s : State) (code source sev arg : Nat) : Kept s (logAdd s code source sev arg) := kept_logPush ..

theorem kept_logAdd2 (s : State) (code source sev arg x y : Nat) : Kept s (logAdd2 s code source sev arg x y) :=
  (kept_logPush ..).trans (kept_logPush ..)

theorem kept_logRefused (s : State) (w : Writer) (a : Nat) (v : Word) : Kept s (logRefused s w a v) := kept_logAdd2 ..

theorem kept_regPut (s : State) (a v : Nat) : Kept s (regPut s a v) := kept_of_fields rfl rfl rfl rfl

theorem kept_regPut64 (s : State) (a v : Nat) : Kept s (regPut64 s a v) := kept_of_fields (by simp) (by simp) (by simp) (by simp)

theorem kept_regSetF (s : State) (a h l v : Nat) : Kept s (regSetF s a h l v) :=
  kept_of_fields (by simp) (by simp) (by simp) (by simp)

theorem kept_bump (s : State) (a : Nat) : Kept s (bump s a) := kept_of_fields (by simp) (by simp) (by simp) (by simp)

theorem kept_bumpBy (s : State) (a n : Nat) : Kept s (bumpBy s a n) :=
  kept_of_fields (by simp) (by simp) (by simp) (by simp)

theorem kept_bumpF (s : State) (a h l : Nat) : Kept s (bumpF s a h l) :=
  kept_of_fields (by simp) (by simp) (by simp) (by simp)

theorem kept_bump64 (s : State) (a n : Nat) : Kept s (bump64 s a n) :=
  kept_of_fields (by simp) (by simp) (by simp) (by simp)

theorem kept_pairPut (s : State) (p : Nat) (x : Pair) : Kept s (pairPut s p x) := kept_of_fields rfl rfl rfl rfl

theorem kept_streamPut (s : State) (n : Nat) (x : Stream) : Kept s (streamPut s n x) := kept_of_fields rfl rfl rfl rfl

theorem kept_workPut (s : State) (n : Nat) (x : Work) : Kept s (workPut s n x) := kept_of_fields rfl rfl rfl rfl

theorem kept_consIssue (s : State) (i n : Nat) : Kept s (consIssue s i n) := kept_of_fields rfl rfl rfl rfl

theorem kept_consReturn (s : State) (i n : Nat) : Kept s (consReturn s i n) := kept_of_fields rfl rfl rfl rfl

/-- Open bytes use up a number and change nothing else. -/
theorem kept_freeBytes (s : State) (n : Nat) : Kept s (freeBytes s n).2 := kept_of_fields rfl rfl rfl rfl

theorem kept_devWrite {s t : State} {ac : Access} {a : Nat} {b : List Byte} (h : devWrite s ac a b = .ok t) : Kept s t := by
  obtain ⟨-, -, rfl⟩ := devWrite_eq_ok.1 h
  exact (kept_of_fields rfl rfl rfl rfl : Kept s (ddrTouch s [(a, b.length)])).trans (kept_storeBytes ..)

theorem kept_noteStop (s : State) (owner : Nat) (m : MemStop) : Kept s (noteStop s owner m) := by
  cases m
  · exact (kept_bump ..).trans (kept_logAdd2 ..)
  · exact (kept_bump ..).trans (kept_logAdd2 ..)
  · exact .refl s

theorem kept_freeSlot (s : State) (n : Nat) : Kept s (freeSlot s n) := by
  unfold freeSlot
  split
  · exact (kept_of_fields rfl rfl rfl rfl : Kept s { s with slots := tdel s.slots n }).trans (kept_consReturn ..)
  · exact .refl s

/-- A taken slot is the lowest free one. -/
theorem kept_takeSlot {s t : State} {wid n : Nat} (h : takeSlot s wid = some (n, t)) : Kept s t := by
  unfold takeSlot at h
  split at h
  · cases h
    exact (kept_of_fields rfl rfl rfl rfl : Kept s { s with slots := tset s.slots n wid }).trans (kept_consIssue ..)
  · cases h

theorem kept_dropRefs (s : State) (holder : Nat) : Kept s (dropRefs s holder) := by
  refine kept_foldl (fun s p => ?_) _ s
  dsimp only
  split
  · exact .refl s
  · exact (kept_of_fields rfl rfl rfl rfl : Kept s { s with pools := tset s.pools p _ }).trans (kept_consReturn ..)

theorem kept_dropWork (s : State) (wid : Nat) : Kept s { s with works := tdel s.works wid } :=
  kept_of_fields rfl rfl rfl rfl

theorem kept_noteEnded (s : State) (wid : Nat) : Kept s (noteEnded s wid) := by
  unfold noteEnded
  split
  · exact .ite (kept_of_fields rfl rfl rfl rfl) (.refl s)
  · exact .refl s

/-- A work that ends is noted and forgotten. -/
theorem kept_forget (s : State) (wid : Nat) : Kept s { noteEnded s wid with works := tdel s.works wid } :=
  (kept_noteEnded s wid).fields rfl rfl rfl rfl

theorem kept_endWork (s : State) (wid : Nat) (slot : Option Nat) : Kept s (endWork s wid slot) := by
  cases slot with
  | none => exact (kept_forget s wid).trans (kept_dropRefs _ wid)
  | some n => exact (kept_freeSlot s n).trans ((kept_forget (freeSlot s n) wid).trans (kept_dropRefs _ wid))

/-- A slot that is taken and returned in one step. -/
theorem kept_slotJob (s : State) : Kept s (slotJob s) := (kept_consIssue ..).trans (kept_consReturn ..)

/-! ### Messages, completions and events -/

theorem kept_rrpSend (s : State) (type : Nat) (b : List Byte) : Kept s (rrpSend s type b) := by
  unfold rrpSend
  exact .ite (.refl s) (kept_of_fields rfl rfl rfl rfl)

theorem kept_rrpWrite (n : Nat) (s : State) (a : Nat) (b : List Byte) : Kept s (rrpWrite n s a b) := by
  induction n generalizing s a b with
  | zero => exact .refl s
  | succ n ih => exact .ite (.refl s) ((kept_rrpSend ..).trans (ih ..))

theorem kept_hostWrite (s : State) (a : Nat) (b : List Byte) : Kept s (hostWrite s a b) := kept_rrpWrite ..

theorem kept_notifyNow (s : State) (p : Nat) : Kept s (notifyNow s p) :=
  .ite (kept_rrpSend ..) (kept_of_fields rfl rfl rfl rfl)

theorem kept_notifyPair (s : State) (p : Nat) : Kept s (notifyPair s p) := by
  refine .ite (kept_notifyNow ..) ?_
  split
  · exact .refl s
  · exact kept_pairPut ..

/-- A completion or event that was written. -/
theorem kept_tryWrite_ok {s t : State} {p : Nat} {c : Compl} (h : tryWrite s p c = .ok t) : Kept s t := by
  unfold tryWrite at h
  dsimp only at h
  split at h
  · cases h
  · next u hu =>
    have k : Kept s u := by
      split at hu
      · cases hu; exact kept_hostWrite ..
      · exact kept_devWrite hu
    cases h
    refine k.trans (.trans (kept_pairPut u p { pairGet u p with cqTail := ((pairGet s p).cqTail + 1) % 2 ^ 32 }) ?_)
    generalize pairPut u p { pairGet u p with cqTail := ((pairGet s p).cqTail + 1) % 2 ^ 32 } = v
    have k1 : Kept v (if c.status = 5 ∧ (!c.event) = true then bump v (0x5001028 + p * 0x40) else v) :=
      .ite (kept_bump ..) (.refl v)
    generalize (if c.status = 5 ∧ (!c.event) = true then bump v (0x5001028 + p * 0x40) else v) = x at *
    have k2 : Kept x (match c.wid with | some w => endWork x w c.slot | none => x) := by
      cases c.wid
      · exact .refl x
      · exact kept_endWork ..
    exact (k1.trans k2).trans (.ite (kept_notifyPair ..) (.refl _))

/-- A completion or event whose write was stopped: the pair stops, and the stop is noted. -/
theorem kept_tryWrite_error {s t : State} {p : Nat} {c : Compl} (h : tryWrite s p c = .error t) : Kept s t := by
  unfold tryWrite at h
  dsimp only at h
  split at h
  · cases h
    exact (kept_noteStop ..).trans (kept_pairPut ..)
  · cases h

theorem kept_holdEvent (s : State) (p : Nat) (c : Compl) : Kept s (holdEvent s p c) := by
  unfold holdEvent
  dsimp only
  split
  · exact kept_pairPut ..
  · split
    · exact kept_pairPut ..
    · split
      · exact kept_pairPut ..
      · exact .refl s

theorem kept_eventTo (s : State) (p status stream detail : Nat) : Kept s (eventTo s p status stream detail) := by
  unfold eventTo
  dsimp only
  split
  · exact .refl s
  · split
    · split
      · next h => exact kept_tryWrite_ok h
      · next h => exact (kept_tryWrite_error h).trans (kept_holdEvent ..)
    · exact kept_holdEvent ..

theorem kept_eventAdd (s : State) (status detail : Nat) : Kept s (eventAdd s status detail) := kept_eventTo ..

theorem kept_streamEvent (s : State) (n status detail : Nat) : Kept s (streamEvent s n status detail) := kept_eventTo ..

theorem kept_stopPair (s : State) (p : Nat) : Kept s (stopPair s p) :=
  ((kept_pairPut ..).trans (kept_logAdd ..)).trans (kept_eventAdd ..)

theorem kept_deliver (s : State) (p : Nat) (c : Compl) : Kept s (deliver s p c) := by
  unfold deliver
  dsimp only
  split
  · split
    · next h => exact kept_tryWrite_ok h
    · next h => exact ((kept_tryWrite_error h).trans (kept_pairPut ..)).trans (kept_stopPair ..)
  · exact kept_pairPut ..

theorem kept_complete (s : State) (wid status detail : Nat) : Kept s (complete s wid status detail) := by
  unfold complete
  split
  · exact .refl s
  · split
    · exact kept_endWork ..
    · exact (kept_forget s wid).trans (kept_deliver ..)

theorem kept_completeErr (s : State) (wid subcode : Nat) : Kept s (completeErr s wid subcode) := kept_complete ..

theorem kept_setStream (s : State) (n : Nat) (new : StState) (byHome : Bool) : Kept s (setStream s n new byHome) := by
  unfold setStream
  dsimp only
  exact .ite ((kept_streamPut ..).trans (kept_logAdd ..))
    (((kept_streamPut ..).trans (kept_logAdd ..)).trans (kept_streamEvent ..))

theorem kept_tryRecord_ok {s t : State} {n : Nat} {b : List Byte} (h : tryRecord s n b = .ok t) : Kept s t := by
  unfold tryRecord at h
  dsimp only at h
  split at h
  · cases h
  · split at h
    · cases h
    · split at h
      · split at h
        · cases h; exact (kept_hostWrite ..).trans (kept_streamPut ..)
        · cases h
      · split at h
        · next hu => cases h; exact (kept_devWrite hu).trans (kept_streamPut ..)
        · cases h

theorem kept_tryRecord_error {s t : State} {n : Nat} {b : List Byte} (h : tryRecord s n b = .error t) : Kept s t := by
  unfold tryRecord at h
  dsimp only at h
  split at h
  · cases h; exact .refl s
  · split at h
    · cases h; exact .refl s
    · split at h
      · split at h
        · cases h
        · cases h; exact .refl s
      · split at h
        · cases h
        · cases h; exact kept_noteStop ..

/-- A record that waits in staging. -/
theorem kept_stage (s : State) (n : Nat) (b : List Byte) :
    Kept s (match (streamGet s n).ring with
      | none => s
      | some r =>
        let full := decide (stagingSize (streamGet s n) ≤ r.staging.length + 1)
        let t := streamPut s n { streamGet s n with ring := some { r with staging := r.staging ++ [b] },
                                                    stalled := (streamGet s n).stalled || full }
        if full && !(streamGet s n).stalled then streamEvent t n 0x46 0 else t) := by
  split
  · exact .refl s
  · dsimp only
    exact .ite ((kept_streamPut ..).trans (kept_streamEvent ..)) (kept_streamPut ..)

theorem kept_resultPut (s : State) (n : Nat) (b : List Byte) : Kept s (resultPut s n b) := by
  unfold resultPut
  dsimp only
  split
  · split
    · split
      · next h => exact kept_tryRecord_ok h
      · next h => exact (kept_tryRecord_error h).trans (kept_stage ..)
    · exact kept_stage ..
  · exact .refl s

/-! ### The register bus -/

/-- A write of cores held in reset changes nothing; one that names no register, or that is refused, changes at most the log and the
response. -/
theorem busWrite_cases (s : State) (w : Writer) (addr width : Nat) (v : Word) :
    (awake s w = false ∧ busWrite s w addr width v = s) ∨
    (namedReg addr width = none ∧ busWrite s w addr width v = answer s 0 true) ∨
    (∃ r i a, namedReg addr width = some (r, i, a) ∧
      (busWrite s w addr width v = answer (logRefused s w addr v) 0 false ∨
       (mayWrite s w = true ∧ ∃ t, gateWrite s w r i (addr - 0x6000000000) (v.toNat &&& (r.rw ||| r.wo)) = some t ∧
         busWrite s w addr width v = answer t 0 false))) := by
  unfold busWrite
  cases k : awake s w with
  | false => exact .inl ⟨rfl, rfl⟩
  | true =>
  cases h : namedReg addr width with
  | none => exact .inr (.inl ⟨rfl, rfl⟩)
  | some x =>
    obtain ⟨r, i, a⟩ := x
    refine .inr (.inr ⟨r, i, a, rfl, ?_⟩)
    rw [if_neg (by decide : ¬(!true) = true)]
    dsimp only
    split
    · exact .inl rfl
    · next hw =>
      split
      · exact .inl rfl
      · split
        · next t ht => exact .inr ⟨by simpa using hw, t, ht, rfl⟩
        · exact .inl rfl

theorem kept_tick (s : State) : Kept s (tick s) := by
  unfold tick
  exact .ite (kept_of_fields rfl rfl rfl rfl) (kept_of_fields rfl rfl rfl rfl)

end Sys2Proof.Machine
end

