-- ==== Sys2Proof/WellFormed.lean ====
section
/-! DEFINITION. Which commands the interfaces of the device can deliver: every number within the range that its
rule gives the thing it names. A meaning does not rely on it (a number out of range finds nothing to act on). -/
namespace Sys2Proof

/-- A register command carries a 40-bit address (00 R9). -/
def addrWf (a : Nat) : Bool := decide (a < 2 ^ 40)

/-- An RRP header holds 32-bit numbers, and a session number that is not 0 (09 R311); its source is four words and a port. -/
def RrpHdr.wf (h : RrpHdr) : Bool :=
  decide (h.src.length = 4 ∧ h.srcPort < 2 ^ 16) && h.src.all (fun a => decide (a < 2 ^ 32)) &&
    decide (h.session ≠ 0 ∧ h.session < 2 ^ 32 ∧ h.seq < 2 ^ 32 ∧ h.ack < 2 ^ 32)

/-- Field widths of a packet header (12 R387). -/
def Packet.wf (p : Packet) : Bool :=
  decide (p.vc < 10 ∧ p.dst < 4096 ∧ p.src < 4096 ∧ p.stream < 128 ∧ p.addr < 2 ^ 40 ∧ p.tag < 2 ^ 16)

/-- Port numbers of an offer's way in (12 R406, 13 R419). -/
def BootPort.wf : BootPort → Bool
  | .fabric p => decide (p < 6)
  | .eth q a => decide (q < 2 ∧ a.length = 4) && a.all fun w => decide (w < 2 ^ 32)

/-- A stream identifier in use (06 R193). -/
def streamWf (n : Nat) : Bool := decide (1 ≤ n ∧ n ≤ 127)

/-- Outputs, pools and buffer numbers of a schedule's steps. -/
def SchedAct.wf : SchedAct → Bool
  | .commit d a => decide (d < 2) && addrWf a
  | .alloc p => decide (p < 8)
  | .free p i => decide (p < 8 ∧ i < 4096)

/-- Places and head of an operation of a schedule (05 R145, 08 R261). -/
def SchedOp.wf (o : SchedOp) : Bool :=
  addrWf o.opBlock && o.mappings.all addrWf && match o.cross with
    | some c => decide (c.node < 4096) && addrWf c.own && addrWf c.remote && c.others.all addrWf
    | none => true

/-- A core's access carries a 40-bit address; an atomic is one of a word of 1 to 8 bytes. -/
def CoreAccess.wf : CoreAccess → Bool
  | .load a _ => addrWf a
  | .store a _ => addrWf a
  | .atomicOr a b => addrWf a && decide (b.length ∈ [1, 2, 4, 8])
  | .atomicAdd a b => addrWf a && decide (b.length ∈ [1, 2, 4, 8])

/-- Well-formed commands. -/
def Instr.wf : Instr → Bool
  | .registerWrite _ a _ _ => addrWf a
  | .loReadCapture _ a _ => addrWf a
  | .rcCounterRead _ a _ => addrWf a
  | .powerUp _ _ _ => true
  | .resetNRelease b _ => decide (b < 8)
  | .resetNAssert => true
  | .fullReset _ => true
  | .partialReset _ => true
  | .arrRangeTimeout => true
  | .wavePowerUp w _ => decide (w < 8)
  | .podSelfTestDone l => l.all fun x => decide (x.1 < 104 ∧ 1 ≤ x.2 ∧ x.2 ≤ 4)
  | .lpddrTrainingDone g m => decide (g ≤ 128 ∧ m < 2 ^ 16)
  | .marchBlockDone _ => true
  | .leekTestDone _ _ => true
  | .microcodeLoaded => true
  | .topoGo _ _ => true
  | .topoCtrlWrite _ _ => true
  | .imageVerify _ _ _ => true
  | .offerTimer => true
  | .offer p _ _ => p.wf
  | .pull p _ _ _ => decide (p < 6)
  | .relayData p _ _ d => p.wf && decide (d.length ≤ 1024)
  | .sqDb _ p _ => decide (p < 64)
  | .cqDb _ p _ => decide (p < 64)
  | .resDb _ n _ => streamWf n
  | .pairCfgWrite _ p _ => decide (p < 64)
  | .descriptorFetch => true
  | .nop _ => true
  | .arrayOp _ => true
  | .conv _ _ => true
  | .convDw _ _ => true
  | .matmul _ _ => true
  | .wino3 _ _ => true
  | .s2d _ _ => true
  | .d2s _ _ => true
  | .pool _ _ => true
  | .argmaxC _ _ => true
  | .eltw _ _ => true
  | .convert _ _ => true
  | .copy _ _ => true
  | .measure _ _ => true
  | .prefetchBlock n _ a d _ _ => streamWf n && addrWf a && addrWf d
  | .multicastSlotRelease d m => addrWf d && decide (m < 96)
  | .bandCounterWake n l _ _ _ => streamWf n && decide (l < 96)
  | .tileCompletion _ l _ => decide (l < 96)
  | .operationComplete _ => true
  | .partialCombine n _ _ _ => streamWf n
  | .bandReady n l st => streamWf n && l.all SchedOp.wf && st.all fun t => t.act.wf
  | .bandKept n _ => streamWf n
  | .preempt _ => true
  | .dma _ _ => true
  | .dmaDone _ => true
  | .admit_ _ x => x.scheds.all fun d => decide (d.fedBy < 128 ∧ d.group < 16)
  | .release _ => true
  | .streamDrained n => streamWf n
  | .start _ _ => true
  | .resume _ _ => true
  | .halt _ => true
  | .streamFault n _ => streamWf n
  | .haltRecord n => streamWf n
  | .cancel _ => true
  | .cancelDrained _ => true
  | .camCtrl _ => true
  | .cameraAck _ c _ => decide (c < 256)
  | .camCtrlTimeout _ => true
  | .flushTracks _ => true
  | .flip _ => true
  | .resultRing _ => true
  | .attest _ => true
  | .sign _ => true
  | .hash _ => true
  | .verify _ _ => true
  | .seal _ => true
  | .macsecCak _ _ => true
  | .random _ => true
  | .readCert _ => true
  | .completionWrite p => decide (p < 64)
  | .resultRecordWrite n => streamWf n
  | .coalesceTimer p => decide (p < 64)
  | .open_ _ => true
  | .openFragmentTimeout => true
  | .doorbell h t n _ => h.wf && decide (t < 3 ∧ n < 256)
  | .readResp h _ d => h.wf && decide (d.length ≤ 1024)
  | .ack h => h.wf
  | .regRead h a => h.wf && addrWf a
  | .regWrite h a _ => h.wf && addrWf a
  | .keepalive h => h.wf
  | .rrpRetransmit => true
  | .lineHeader p _ _ _ _ _ => decide (p < 16)
  | .lineArrival p _ _ => decide (p < 16)
  | .cameraLinkUp p l r => decide (p < 16 ∧ l < 3 ∧ r < 7)
  | .cameraEventPacket p d => decide (p < 16 ∧ d.length ≤ 248)
  | .cameraLoss p _ => decide (p < 16)
  | .encoderEdge e _ => decide (e < 2)
  | .triggerDeferred c => decide (c < 16)
  | .odoSourceReturn => true
  | .positionMessage _ => true
  | .correctionStart => true
  | .ppsEdge => true
  | .linePositionEval c => decide (c < 16)
  | .outputLine c => decide (c < 16)
  | .standstill c => decide (c < 16)
  | .areaFrame c => decide (c < 16)
  | .lineReserveRelease c => decide (c < 16)
  | .degradeStep n => streamWf n
  | .shedStep => true
  | .lineDueDeadline c => decide (c < 16)
  | .returnStep n => streamWf n
  | .detection n x => streamWf n && decide (x.bytes.length = 32)
  | .watermark g _ _ => decide (1 ≤ g ∧ g ≤ 15)
  | .sourceTimeout g _ => decide (1 ≤ g ∧ g ≤ 15)
  | .criticalCompare n _ x => streamWf n && x.third.all SchedOp.wf
  | .criticalThirdRun n _ _ => streamWf n
  | .spoolBufferRequest n _ => streamWf n
  | .spoolDeadlockCheck => true
  | .spillRestore n => streamWf n
  | .enforcementWindow => true
  | .ddrShareWrite _ _ => true
  | .selfRefreshEntry p => decide (p < 8)
  | .rtbW3Write _ n _ => decide (1 ≤ n ∧ n ≤ 15)
  | .windowCtrlWrite _ n _ => decide (n < 256)
  | .resSet _ _ => true
  | .resClr _ _ => true
  | .autoRefill n => streamWf n
  | .poolAlloc _ p => decide (p < 8)
  | .poolFree _ p _ => decide (p < 8)
  | .leekHalfPowerDown h => decide (h < 2)
  | .displayEnable d _ _ => decide (d < 2)
  | .displayDisable _ d => decide (d < 2)
  | .hpdEvent d _ => decide (d < 2)
  | .auxCmd _ d _ => decide (d < 2)
  | .auxDone d _ => decide (d < 2)
  | .commit _ d _ => decide (d < 2)
  | .frameLatch d => decide (d < 2)
  | .frameStart d => decide (d < 2)
  | .underrun d => decide (d < 2)
  | .linkFrame p _ => decide (p < 6)
  | .linkAckTimeout p => decide (p < 6)
  | .linkRetry p _ => decide (p < 6)
  | .credit p v _ => decide (p < 6 ∧ v < 10)
  | .ident p _ => decide (p < 6)
  | .fabricWrite p => p.wf
  | .fabricRead p => p.wf
  | .readData p => p.wf
  | .done p => p.wf
  | .refuse p => p.wf
  | .assoc p => p.wf
  | .wmark p => p.wf
  | .e2eTimeout t => decide (t < 2 ^ 16)
  | .assocResend => true
  | .portTraining p _ => decide (p < 6)
  | .portDown p r => decide (p < 6 ∧ 1 ≤ r ∧ r ≤ 3)
  | .reconcileReq p k => decide (p < 6) && k.wf
  | .reconcileRsp p k => decide (p < 6) && k.wf
  | .reconcileTimeout p => decide (p < 6)
  | .routeNotice p _ _ _ _ => decide (p < 6)
  | .routeRebuild => true
  | .portRetrain p => decide (p < 6)
  | .holdTimeout => true
  | .ethFrame q _ => decide (q < 2)
  | .gptpMessage g => decide (g.port < 2)
  | .syncTimeout => true
  | .timeSet _ _ => true
  | .qbvCycleStart q => decide (q < 2)
  | .mkaFailover q => decide (q < 2)
  | .sakRotate q => decide (q < 2)
  | .debugUnlock _ => true
  | .governorTick r _ _ => decide (r.length = 104)
  | .thermalTick t => decide (t.length = 32)
  | .hardwareTrip => true
  | .supplyFault r _ => decide (r < 11)
  | .pllLockLoss k _ => decide (k < 12)
  | .podFailure p _ => decide (p < 104)
  | .conservationCheck => true
  | .sproutHeartbeatTimeout => true
  | .supervisorHeartbeatTimeout => true
  | .idleEntry => true
  | .dormantRequest _ _ => true
  | .wake n _ => decide (n < 3)
  | .maintStart _ _ _ => true
  | .maintStop _ _ => true
  | .maintPeriodicStart a _ => decide (1 ≤ a ∧ a ≤ 7)
  | .maintUnitDone t _ _ _ => decide (t < 19)
  | .consSnap _ _ => true
  | .cameraHeartbeat p => decide (p < 16)
  | .ethernetLinkChange q _ => decide (q < 2)
  | .pllRelock k _ => decide (k < 12)
  | .supplyRestored r => decide (r < 11)
  | .suppliesRemoved => true
  | .selfRefreshExit p => decide (p < 8)
  | .wckDqCheck c => decide (c < 16)
  | .perBankRefresh c _ => decide (c < 16)
  | .coreMemoryAccess a _ => a.wf

end Sys2Proof
end

