-- ==== Sys2Proof/Laws/PerInstr.lean ====
section
/-! SUPPORT. What well-formedness says of a command's operands, one lemma per command: a stream number it names is a
stream number of the device (06 R193), an address it carries fits the address of the map (00 R9). -/
namespace Sys2Proof.Laws

/-- The stream a command names. -/
def streamOf : Instr → Option Nat
  | .resDb _ stream _ => some stream
  | .prefetchBlock stream _ _ _ _ _ => some stream
  | .bandCounterWake stream _ _ _ _ => some stream
  | .partialCombine stream _ _ _ => some stream
  | .bandReady stream _ _ => some stream
  | .bandKept stream _ => some stream
  | .streamDrained stream => some stream
  | .streamFault stream _ => some stream
  | .haltRecord stream => some stream
  | .resultRecordWrite stream => some stream
  | .degradeStep stream => some stream
  | .returnStep stream => some stream
  | .detection stream _ => some stream
  | .criticalCompare stream _ _ => some stream
  | .criticalThirdRun stream _ _ => some stream
  | .spoolBufferRequest stream _ => some stream
  | .spillRestore stream => some stream
  | .autoRefill stream => some stream
  | _ => none

/-- The 40-bit address a command carries. -/
def addrOf : Instr → Option Nat
  | .registerWrite _ addr _ _ => some addr
  | .loReadCapture _ addr _ => some addr
  | .rcCounterRead _ addr _ => some addr
  | .prefetchBlock _ _ addr _ _ _ => some addr
  | .regRead _ addr => some addr
  | .regWrite _ addr _ => some addr
  | _ => none

/-- A well-formed command names streams 1 to 127 and addresses below 2^40. -/
def Wf.Statement (i : Instr) : Prop :=
  i.wf = true → (∀ n, streamOf i = some n → 1 ≤ n ∧ n ≤ 127) ∧ (∀ a, addrOf i = some a → a < 2 ^ 40)

theorem Wf.plain {i : Instr} (h : streamOf i = none) (k : addrOf i = none) : Wf.Statement i := by
  intro _; simp [h, k]

theorem Wf.ofStream {i : Instr} {n : Nat} (h : streamOf i = some n) (k : addrOf i = none)
    (w : i.wf = true → streamWf n = true) : Wf.Statement i := by
  intro x
  have := w x
  simp only [streamWf, decide_eq_true_eq] at this
  simp only [h, k, Option.some.injEq, forall_eq', this, reduceCtorEq, false_implies, implies_true, and_self]

theorem Wf.ofAddr {i : Instr} {a : Nat} (h : streamOf i = none) (k : addrOf i = some a)
    (w : i.wf = true → addrWf a = true) : Wf.Statement i := by
  intro x
  have := w x
  simp only [addrWf, decide_eq_true_eq] at this
  simp only [h, k, Option.some.injEq, forall_eq', this, reduceCtorEq, false_implies, implies_true, and_self]

theorem Wf.registerWrite (x0 : Writer) (x1 : Nat) (x2 : Nat) (x3 : Word) : Wf.Statement (.registerWrite x0 x1 x2 x3) :=
  Wf.ofAddr rfl rfl (fun h => h)

theorem Wf.loReadCapture (x0 : Writer) (x1 : Nat) (x2 : Nat) : Wf.Statement (.loReadCapture x0 x1 x2) :=
  Wf.ofAddr rfl rfl (fun h => h)

theorem Wf.rcCounterRead (x0 : Writer) (x1 : Nat) (x2 : Nat) : Wf.Statement (.rcCounterRead x0 x1 x2) :=
  Wf.ofAddr rfl rfl (fun h => h)

theorem Wf.powerUp (x0 : Bool) (x1 : Bool) (x2 : Bool) : Wf.Statement (.powerUp x0 x1 x2) := Wf.plain rfl rfl

theorem Wf.resetNRelease (x0 : Nat) (x1 : Nor) : Wf.Statement (.resetNRelease x0 x1) := Wf.plain rfl rfl

theorem Wf.resetNAssert : Wf.Statement (.resetNAssert) := Wf.plain rfl rfl

theorem Wf.fullReset (x0 : ResetOrder) : Wf.Statement (.fullReset x0) := Wf.plain rfl rfl

theorem Wf.partialReset (x0 : ResetOrder) : Wf.Statement (.partialReset x0) := Wf.plain rfl rfl

theorem Wf.arrRangeTimeout : Wf.Statement (.arrRangeTimeout) := Wf.plain rfl rfl

theorem Wf.wavePowerUp (x0 : Nat) (x1 : Bool) : Wf.Statement (.wavePowerUp x0 x1) := Wf.plain rfl rfl

theorem Wf.podSelfTestDone (x0 : List (Nat × Nat)) : Wf.Statement (.podSelfTestDone x0) := Wf.plain rfl rfl

theorem Wf.lpddrTrainingDone (x0 : Nat) (x1 : Nat) : Wf.Statement (.lpddrTrainingDone x0 x1) := Wf.plain rfl rfl

theorem Wf.marchBlockDone (x0 : MarchResult) : Wf.Statement (.marchBlockDone x0) := Wf.plain rfl rfl

theorem Wf.leekTestDone (x0 : Option Nat) (x1 : Option Nat) : Wf.Statement (.leekTestDone x0 x1) := Wf.plain rfl rfl

theorem Wf.microcodeLoaded : Wf.Statement (.microcodeLoaded) := Wf.plain rfl rfl

theorem Wf.topoGo (x0 : Writer) (x1 : Word) : Wf.Statement (.topoGo x0 x1) := Wf.plain rfl rfl

theorem Wf.topoCtrlWrite (x0 : Writer) (x1 : Word) : Wf.Statement (.topoCtrlWrite x0 x1) := Wf.plain rfl rfl

theorem Wf.imageVerify (x0 : Bool) (x1 : Bool) (x2 : Bool) : Wf.Statement (.imageVerify x0 x1 x2) := Wf.plain rfl rfl

theorem Wf.offerTimer : Wf.Statement (.offerTimer) := Wf.plain rfl rfl

theorem Wf.offer (x0 : BootPort) (x1 : Nat) (x2 : Nat) : Wf.Statement (.offer x0 x1 x2) := Wf.plain rfl rfl

theorem Wf.pull (x0 : Nat) (x1 : Nat) (x2 : Nat) (x3 : Nat) : Wf.Statement (.pull x0 x1 x2 x3) := Wf.plain rfl rfl

theorem Wf.relayData (x0 : BootPort) (x1 : Nat) (x2 : Nat) (x3 : List Byte) : Wf.Statement (.relayData x0 x1 x2 x3) := Wf.plain rfl rfl

theorem Wf.sqDb (x0 : Writer) (x1 : Nat) (x2 : Word) : Wf.Statement (.sqDb x0 x1 x2) := Wf.plain rfl rfl

theorem Wf.cqDb (x0 : Writer) (x1 : Nat) (x2 : Word) : Wf.Statement (.cqDb x0 x1 x2) := Wf.plain rfl rfl

theorem Wf.resDb (x0 : Writer) (x1 : Nat) (x2 : Word) : Wf.Statement (.resDb x0 x1 x2) :=
  Wf.ofStream rfl rfl (fun h => h)

theorem Wf.pairCfgWrite (x0 : Writer) (x1 : Nat) (x2 : Word) : Wf.Statement (.pairCfgWrite x0 x1 x2) := Wf.plain rfl rfl

theorem Wf.descriptorFetch : Wf.Statement (.descriptorFetch) := Wf.plain rfl rfl

theorem Wf.nop (x0 : Nat) : Wf.Statement (.nop x0) := Wf.plain rfl rfl

theorem Wf.arrayOp (x0 : Nat) : Wf.Statement (.arrayOp x0) := Wf.plain rfl rfl

theorem Wf.conv (x0 : Nat) (x1 : MemErrs) : Wf.Statement (.conv x0 x1) := Wf.plain rfl rfl

theorem Wf.convDw (x0 : Nat) (x1 : MemErrs) : Wf.Statement (.convDw x0 x1) := Wf.plain rfl rfl

theorem Wf.matmul (x0 : Nat) (x1 : MemErrs) : Wf.Statement (.matmul x0 x1) := Wf.plain rfl rfl

theorem Wf.wino3 (x0 : Nat) (x1 : MemErrs) : Wf.Statement (.wino3 x0 x1) := Wf.plain rfl rfl

theorem Wf.s2d (x0 : Nat) (x1 : MemErrs) : Wf.Statement (.s2d x0 x1) := Wf.plain rfl rfl

theorem Wf.d2s (x0 : Nat) (x1 : MemErrs) : Wf.Statement (.d2s x0 x1) := Wf.plain rfl rfl

theorem Wf.pool (x0 : Nat) (x1 : MemErrs) : Wf.Statement (.pool x0 x1) := Wf.plain rfl rfl

theorem Wf.argmaxC (x0 : Nat) (x1 : MemErrs) : Wf.Statement (.argmaxC x0 x1) := Wf.plain rfl rfl

theorem Wf.eltw (x0 : Nat) (x1 : MemErrs) : Wf.Statement (.eltw x0 x1) := Wf.plain rfl rfl

theorem Wf.convert (x0 : Nat) (x1 : MemErrs) : Wf.Statement (.convert x0 x1) := Wf.plain rfl rfl

theorem Wf.copy (x0 : Nat) (x1 : MemErrs) : Wf.Statement (.copy x0 x1) := Wf.plain rfl rfl

theorem Wf.measure (x0 : Nat) (x1 : MemErrs) : Wf.Statement (.measure x0 x1) := Wf.plain rfl rfl

theorem Wf.prefetchBlock (x0 : Nat) (x1 : Nat) (x2 : Nat) (x3 : Nat) (x4 : Nat) (x5 : MemErrs) : Wf.Statement (.prefetchBlock x0 x1 x2 x3 x4 x5) := by
  intro h
  simp only [Instr.wf, streamWf, addrWf, Bool.and_eq_true, decide_eq_true_eq] at h
  refine ⟨fun n e => ?_, fun a e => ?_⟩ <;> cases e
  · exact h.1.1
  · exact h.1.2

theorem Wf.multicastSlotRelease (x0 : Nat) (x1 : Nat) : Wf.Statement (.multicastSlotRelease x0 x1) := Wf.plain rfl rfl

theorem Wf.bandCounterWake (x0 : Nat) (x1 : Nat) (x2 : Nat) (x3 : Nat) (x4 : Nat) : Wf.Statement (.bandCounterWake x0 x1 x2 x3 x4) :=
  Wf.ofStream rfl rfl (fun h => (Bool.and_eq_true_iff.mp h).1)

theorem Wf.tileCompletion (x0 : Nat) (x1 : Nat) (x2 : Nat) : Wf.Statement (.tileCompletion x0 x1 x2) := Wf.plain rfl rfl

theorem Wf.operationComplete (x0 : Nat) : Wf.Statement (.operationComplete x0) := Wf.plain rfl rfl

theorem Wf.partialCombine (x0 : Nat) (x1 : Nat) (x2 : Nat) (x3 : MemErrs) : Wf.Statement (.partialCombine x0 x1 x2 x3) :=
  Wf.ofStream rfl rfl (fun h => h)

theorem Wf.bandReady (x0 : Nat) (x1 : List SchedOp) (x2 : List SchedStep) : Wf.Statement (.bandReady x0 x1 x2) :=
  Wf.ofStream rfl rfl (fun h => (Bool.and_eq_true_iff.mp (Bool.and_eq_true_iff.mp h).1).1)

theorem Wf.bandKept (x0 : Nat) (x1 : List HeadResult) : Wf.Statement (.bandKept x0 x1) :=
  Wf.ofStream rfl rfl (fun h => h)

theorem Wf.preempt (x0 : Nat) : Wf.Statement (.preempt x0) := Wf.plain rfl rfl

theorem Wf.dma (x0 : Nat) (x1 : MemErrs) : Wf.Statement (.dma x0 x1) := Wf.plain rfl rfl

theorem Wf.dmaDone (x0 : Nat) : Wf.Statement (.dmaDone x0) := Wf.plain rfl rfl

theorem Wf.admit_ (x0 : Nat) (x1 : AdmitIn) : Wf.Statement (.admit_ x0 x1) := Wf.plain rfl rfl

theorem Wf.release (x0 : Nat) : Wf.Statement (.release x0) := Wf.plain rfl rfl

theorem Wf.streamDrained (x0 : Nat) : Wf.Statement (.streamDrained x0) :=
  Wf.ofStream rfl rfl (fun h => h)

theorem Wf.start (x0 : Nat) (x1 : MemErrs) : Wf.Statement (.start x0 x1) := Wf.plain rfl rfl

theorem Wf.resume (x0 : Nat) (x1 : MemErrs) : Wf.Statement (.resume x0 x1) := Wf.plain rfl rfl

theorem Wf.halt (x0 : Nat) : Wf.Statement (.halt x0) := Wf.plain rfl rfl

theorem Wf.streamFault (x0 : Nat) (x1 : FaultInfo) : Wf.Statement (.streamFault x0 x1) :=
  Wf.ofStream rfl rfl (fun h => h)

theorem Wf.haltRecord (x0 : Nat) : Wf.Statement (.haltRecord x0) :=
  Wf.ofStream rfl rfl (fun h => h)

theorem Wf.cancel (x0 : Nat) : Wf.Statement (.cancel x0) := Wf.plain rfl rfl

theorem Wf.cancelDrained (x0 : Nat) : Wf.Statement (.cancelDrained x0) := Wf.plain rfl rfl

theorem Wf.camCtrl (x0 : Nat) : Wf.Statement (.camCtrl x0) := Wf.plain rfl rfl

theorem Wf.cameraAck (x0 : Nat) (x1 : Nat) (x2 : List Byte) : Wf.Statement (.cameraAck x0 x1 x2) := Wf.plain rfl rfl

theorem Wf.camCtrlTimeout (x0 : Nat) : Wf.Statement (.camCtrlTimeout x0) := Wf.plain rfl rfl

theorem Wf.flushTracks (x0 : Nat) : Wf.Statement (.flushTracks x0) := Wf.plain rfl rfl

theorem Wf.flip (x0 : Nat) : Wf.Statement (.flip x0) := Wf.plain rfl rfl

theorem Wf.resultRing (x0 : Nat) : Wf.Statement (.resultRing x0) := Wf.plain rfl rfl

theorem Wf.attest (x0 : Nat) : Wf.Statement (.attest x0) := Wf.plain rfl rfl

theorem Wf.sign (x0 : Nat) : Wf.Statement (.sign x0) := Wf.plain rfl rfl

theorem Wf.hash (x0 : Nat) : Wf.Statement (.hash x0) := Wf.plain rfl rfl

theorem Wf.verify (x0 : Nat) (x1 : Bool) : Wf.Statement (.verify x0 x1) := Wf.plain rfl rfl

theorem Wf.seal (x0 : Nat) : Wf.Statement (.seal x0) := Wf.plain rfl rfl

theorem Wf.macsecCak (x0 : Nat) (x1 : Option (List Byte)) : Wf.Statement (.macsecCak x0 x1) := Wf.plain rfl rfl

theorem Wf.random (x0 : Nat) : Wf.Statement (.random x0) := Wf.plain rfl rfl

theorem Wf.readCert (x0 : Nat) : Wf.Statement (.readCert x0) := Wf.plain rfl rfl

theorem Wf.completionWrite (x0 : Nat) : Wf.Statement (.completionWrite x0) := Wf.plain rfl rfl

theorem Wf.resultRecordWrite (x0 : Nat) : Wf.Statement (.resultRecordWrite x0) :=
  Wf.ofStream rfl rfl (fun h => h)

theorem Wf.coalesceTimer (x0 : Nat) : Wf.Statement (.coalesceTimer x0) := Wf.plain rfl rfl

theorem Wf.open_ (x0 : Bool) : Wf.Statement (.open_ x0) := Wf.plain rfl rfl

theorem Wf.openFragmentTimeout : Wf.Statement (.openFragmentTimeout) := Wf.plain rfl rfl

theorem Wf.doorbell (x0 : RrpHdr) (x1 : Nat) (x2 : Nat) (x3 : Word) : Wf.Statement (.doorbell x0 x1 x2 x3) := Wf.plain rfl rfl

theorem Wf.readResp (x0 : RrpHdr) (x1 : Nat) (x2 : List Byte) : Wf.Statement (.readResp x0 x1 x2) := Wf.plain rfl rfl

theorem Wf.ack (x0 : RrpHdr) : Wf.Statement (.ack x0) := Wf.plain rfl rfl

theorem Wf.regRead (x0 : RrpHdr) (x1 : Nat) : Wf.Statement (.regRead x0 x1) :=
  Wf.ofAddr rfl rfl (fun h => (Bool.and_eq_true_iff.mp h).2)

theorem Wf.regWrite (x0 : RrpHdr) (x1 : Nat) (x2 : Word) : Wf.Statement (.regWrite x0 x1 x2) :=
  Wf.ofAddr rfl rfl (fun h => (Bool.and_eq_true_iff.mp h).2)

theorem Wf.keepalive (x0 : RrpHdr) : Wf.Statement (.keepalive x0) := Wf.plain rfl rfl

theorem Wf.rrpRetransmit : Wf.Statement (.rrpRetransmit) := Wf.plain rfl rfl

theorem Wf.lineHeader (x0 : Nat) (x1 : Nat) (x2 : Nat) (x3 : Bool) (x4 : Bool) (x5 : Bool) : Wf.Statement (.lineHeader x0 x1 x2 x3 x4 x5) := Wf.plain rfl rfl

theorem Wf.lineArrival (x0 : Nat) (x1 : List Nat) (x2 : Bool) : Wf.Statement (.lineArrival x0 x1 x2) := Wf.plain rfl rfl

theorem Wf.cameraLinkUp (x0 : Nat) (x1 : Nat) (x2 : Nat) : Wf.Statement (.cameraLinkUp x0 x1 x2) := Wf.plain rfl rfl

theorem Wf.cameraEventPacket (x0 : Nat) (x1 : List Byte) : Wf.Statement (.cameraEventPacket x0 x1) := Wf.plain rfl rfl

theorem Wf.cameraLoss (x0 : Nat) (x1 : Bool) : Wf.Statement (.cameraLoss x0 x1) := Wf.plain rfl rfl

theorem Wf.encoderEdge (x0 : Nat) (x1 : Quad) : Wf.Statement (.encoderEdge x0 x1) := Wf.plain rfl rfl

theorem Wf.triggerDeferred (x0 : Nat) : Wf.Statement (.triggerDeferred x0) := Wf.plain rfl rfl

theorem Wf.odoSourceReturn : Wf.Statement (.odoSourceReturn) := Wf.plain rfl rfl

theorem Wf.positionMessage (x0 : List Byte) : Wf.Statement (.positionMessage x0) := Wf.plain rfl rfl

theorem Wf.correctionStart : Wf.Statement (.correctionStart) := Wf.plain rfl rfl

theorem Wf.ppsEdge : Wf.Statement (.ppsEdge) := Wf.plain rfl rfl

theorem Wf.linePositionEval (x0 : Nat) : Wf.Statement (.linePositionEval x0) := Wf.plain rfl rfl

theorem Wf.outputLine (x0 : Nat) : Wf.Statement (.outputLine x0) := Wf.plain rfl rfl

theorem Wf.standstill (x0 : Nat) : Wf.Statement (.standstill x0) := Wf.plain rfl rfl

theorem Wf.areaFrame (x0 : Nat) : Wf.Statement (.areaFrame x0) := Wf.plain rfl rfl

theorem Wf.lineReserveRelease (x0 : Nat) : Wf.Statement (.lineReserveRelease x0) := Wf.plain rfl rfl

theorem Wf.degradeStep (x0 : Nat) : Wf.Statement (.degradeStep x0) :=
  Wf.ofStream rfl rfl (fun h => h)

theorem Wf.shedStep : Wf.Statement (.shedStep) := Wf.plain rfl rfl

theorem Wf.lineDueDeadline (x0 : Nat) : Wf.Statement (.lineDueDeadline x0) := Wf.plain rfl rfl

theorem Wf.returnStep (x0 : Nat) : Wf.Statement (.returnStep x0) :=
  Wf.ofStream rfl rfl (fun h => h)

theorem Wf.detection (x0 : Nat) (x1 : DetIn) : Wf.Statement (.detection x0 x1) :=
  Wf.ofStream rfl rfl (fun h => (Bool.and_eq_true_iff.mp h).1)

theorem Wf.watermark (x0 : Nat) (x1 : Nat) (x2 : Nat) : Wf.Statement (.watermark x0 x1 x2) := Wf.plain rfl rfl

theorem Wf.sourceTimeout (x0 : Nat) (x1 : Nat) : Wf.Statement (.sourceTimeout x0 x1) := Wf.plain rfl rfl

theorem Wf.criticalCompare (x0 : Nat) (x1 : Nat) (x2 : CompareIn) : Wf.Statement (.criticalCompare x0 x1 x2) :=
  Wf.ofStream rfl rfl (fun h => (Bool.and_eq_true_iff.mp h).1)

theorem Wf.criticalThirdRun (x0 : Nat) (x1 : Nat) (x2 : ThirdIn) : Wf.Statement (.criticalThirdRun x0 x1 x2) :=
  Wf.ofStream rfl rfl (fun h => h)

theorem Wf.spoolBufferRequest (x0 : Nat) (x1 : SpoolAsk) : Wf.Statement (.spoolBufferRequest x0 x1) :=
  Wf.ofStream rfl rfl (fun h => h)

theorem Wf.spoolDeadlockCheck : Wf.Statement (.spoolDeadlockCheck) := Wf.plain rfl rfl

theorem Wf.spillRestore (x0 : Nat) : Wf.Statement (.spillRestore x0) :=
  Wf.ofStream rfl rfl (fun h => h)

theorem Wf.enforcementWindow : Wf.Statement (.enforcementWindow) := Wf.plain rfl rfl

theorem Wf.ddrShareWrite (x0 : Writer) (x1 : Word) : Wf.Statement (.ddrShareWrite x0 x1) := Wf.plain rfl rfl

theorem Wf.selfRefreshEntry (x0 : Nat) : Wf.Statement (.selfRefreshEntry x0) := Wf.plain rfl rfl

theorem Wf.rtbW3Write (x0 : Writer) (x1 : Nat) (x2 : Word) : Wf.Statement (.rtbW3Write x0 x1 x2) := Wf.plain rfl rfl

theorem Wf.windowCtrlWrite (x0 : Writer) (x1 : Nat) (x2 : Word) : Wf.Statement (.windowCtrlWrite x0 x1 x2) := Wf.plain rfl rfl

theorem Wf.resSet (x0 : Writer) (x1 : Word) : Wf.Statement (.resSet x0 x1) := Wf.plain rfl rfl

theorem Wf.resClr (x0 : Writer) (x1 : Word) : Wf.Statement (.resClr x0 x1) := Wf.plain rfl rfl

theorem Wf.autoRefill (x0 : Nat) : Wf.Statement (.autoRefill x0) :=
  Wf.ofStream rfl rfl (fun h => h)

theorem Wf.poolAlloc (x0 : Writer) (x1 : Nat) : Wf.Statement (.poolAlloc x0 x1) := Wf.plain rfl rfl

theorem Wf.poolFree (x0 : Writer) (x1 : Nat) (x2 : Word) : Wf.Statement (.poolFree x0 x1 x2) := Wf.plain rfl rfl

theorem Wf.leekHalfPowerDown (x0 : Nat) : Wf.Statement (.leekHalfPowerDown x0) := Wf.plain rfl rfl

theorem Wf.displayEnable (x0 : Nat) (x1 : List (Nat × Nat)) (x2 : Bool) : Wf.Statement (.displayEnable x0 x1 x2) := Wf.plain rfl rfl

theorem Wf.displayDisable (x0 : Writer) (x1 : Nat) : Wf.Statement (.displayDisable x0 x1) := Wf.plain rfl rfl

theorem Wf.hpdEvent (x0 : Nat) (x1 : HpdEvent) : Wf.Statement (.hpdEvent x0 x1) := Wf.plain rfl rfl

theorem Wf.auxCmd (x0 : Writer) (x1 : Nat) (x2 : Word) : Wf.Statement (.auxCmd x0 x1 x2) := Wf.plain rfl rfl

theorem Wf.auxDone (x0 : Nat) (x1 : AuxReply) : Wf.Statement (.auxDone x0 x1) := Wf.plain rfl rfl

theorem Wf.commit (x0 : Writer) (x1 : Nat) (x2 : Word) : Wf.Statement (.commit x0 x1 x2) := Wf.plain rfl rfl

theorem Wf.frameLatch (x0 : Nat) : Wf.Statement (.frameLatch x0) := Wf.plain rfl rfl

theorem Wf.frameStart (x0 : Nat) : Wf.Statement (.frameStart x0) := Wf.plain rfl rfl

theorem Wf.underrun (x0 : Nat) : Wf.Statement (.underrun x0) := Wf.plain rfl rfl

theorem Wf.linkFrame (x0 : Nat) (x1 : LinkFrameIn) : Wf.Statement (.linkFrame x0 x1) := Wf.plain rfl rfl

theorem Wf.linkAckTimeout (x0 : Nat) : Wf.Statement (.linkAckTimeout x0) := Wf.plain rfl rfl

theorem Wf.linkRetry (x0 : Nat) (x1 : Nat) : Wf.Statement (.linkRetry x0 x1) := Wf.plain rfl rfl

theorem Wf.credit (x0 : Nat) (x1 : Nat) (x2 : Nat) : Wf.Statement (.credit x0 x1 x2) := Wf.plain rfl rfl

theorem Wf.ident (x0 : Nat) (x1 : List Byte) : Wf.Statement (.ident x0 x1) := Wf.plain rfl rfl

theorem Wf.fabricWrite (x0 : Packet) : Wf.Statement (.fabricWrite x0) := Wf.plain rfl rfl

theorem Wf.fabricRead (x0 : Packet) : Wf.Statement (.fabricRead x0) := Wf.plain rfl rfl

theorem Wf.readData (x0 : Packet) : Wf.Statement (.readData x0) := Wf.plain rfl rfl

theorem Wf.done (x0 : Packet) : Wf.Statement (.done x0) := Wf.plain rfl rfl

theorem Wf.refuse (x0 : Packet) : Wf.Statement (.refuse x0) := Wf.plain rfl rfl

theorem Wf.assoc (x0 : Packet) : Wf.Statement (.assoc x0) := Wf.plain rfl rfl

theorem Wf.wmark (x0 : Packet) : Wf.Statement (.wmark x0) := Wf.plain rfl rfl

theorem Wf.e2eTimeout (x0 : Nat) : Wf.Statement (.e2eTimeout x0) := Wf.plain rfl rfl

theorem Wf.assocResend : Wf.Statement (.assocResend) := Wf.plain rfl rfl

theorem Wf.portTraining (x0 : Nat) (x1 : TrainIn) : Wf.Statement (.portTraining x0 x1) := Wf.plain rfl rfl

theorem Wf.portDown (x0 : Nat) (x1 : Nat) : Wf.Statement (.portDown x0 x1) := Wf.plain rfl rfl

theorem Wf.reconcileReq (x0 : Nat) (x1 : Packet) : Wf.Statement (.reconcileReq x0 x1) := Wf.plain rfl rfl

theorem Wf.reconcileRsp (x0 : Nat) (x1 : Packet) : Wf.Statement (.reconcileRsp x0 x1) := Wf.plain rfl rfl

theorem Wf.reconcileTimeout (x0 : Nat) : Wf.Statement (.reconcileTimeout x0) := Wf.plain rfl rfl

theorem Wf.routeNotice (x0 : Nat) (x1 : Nat) (x2 : Nat) (x3 : Nat) (x4 : Nat) : Wf.Statement (.routeNotice x0 x1 x2 x3 x4) := Wf.plain rfl rfl

theorem Wf.routeRebuild : Wf.Statement (.routeRebuild) := Wf.plain rfl rfl

theorem Wf.portRetrain (x0 : Nat) : Wf.Statement (.portRetrain x0) := Wf.plain rfl rfl

theorem Wf.holdTimeout : Wf.Statement (.holdTimeout) := Wf.plain rfl rfl

theorem Wf.ethFrame (x0 : Nat) (x1 : EthFrameIn) : Wf.Statement (.ethFrame x0 x1) := Wf.plain rfl rfl

theorem Wf.gptpMessage (x0 : GptpIn) : Wf.Statement (.gptpMessage x0) := Wf.plain rfl rfl

theorem Wf.syncTimeout : Wf.Statement (.syncTimeout) := Wf.plain rfl rfl

theorem Wf.timeSet (x0 : Writer) (x1 : Word) : Wf.Statement (.timeSet x0 x1) := Wf.plain rfl rfl

theorem Wf.qbvCycleStart (x0 : Nat) : Wf.Statement (.qbvCycleStart x0) := Wf.plain rfl rfl

theorem Wf.mkaFailover (x0 : Nat) : Wf.Statement (.mkaFailover x0) := Wf.plain rfl rfl

theorem Wf.sakRotate (x0 : Nat) : Wf.Statement (.sakRotate x0) := Wf.plain rfl rfl

theorem Wf.debugUnlock (x0 : Bool) : Wf.Statement (.debugUnlock x0) := Wf.plain rfl rfl

theorem Wf.governorTick (x0 : List Nat) (x1 : Nat) (x2 : Bool) : Wf.Statement (.governorTick x0 x1 x2) := Wf.plain rfl rfl

theorem Wf.thermalTick (x0 : List (Option Int)) : Wf.Statement (.thermalTick x0) := Wf.plain rfl rfl

theorem Wf.hardwareTrip : Wf.Statement (.hardwareTrip) := Wf.plain rfl rfl

theorem Wf.supplyFault (x0 : Nat) (x1 : Int) : Wf.Statement (.supplyFault x0 x1) := Wf.plain rfl rfl

theorem Wf.pllLockLoss (x0 : Nat) (x1 : Nat) : Wf.Statement (.pllLockLoss x0 x1) := Wf.plain rfl rfl

theorem Wf.podFailure (x0 : Nat) (x1 : Bool) : Wf.Statement (.podFailure x0 x1) := Wf.plain rfl rfl

theorem Wf.conservationCheck : Wf.Statement (.conservationCheck) := Wf.plain rfl rfl

theorem Wf.sproutHeartbeatTimeout : Wf.Statement (.sproutHeartbeatTimeout) := Wf.plain rfl rfl

theorem Wf.supervisorHeartbeatTimeout : Wf.Statement (.supervisorHeartbeatTimeout) := Wf.plain rfl rfl

theorem Wf.idleEntry : Wf.Statement (.idleEntry) := Wf.plain rfl rfl

theorem Wf.dormantRequest (x0 : Writer) (x1 : Word) : Wf.Statement (.dormantRequest x0 x1) := Wf.plain rfl rfl

theorem Wf.wake (x0 : Nat) (x1 : Bool) : Wf.Statement (.wake x0 x1) := Wf.plain rfl rfl

theorem Wf.maintStart (x0 : Writer) (x1 : Word) (x2 : Bool) : Wf.Statement (.maintStart x0 x1 x2) := Wf.plain rfl rfl

theorem Wf.maintStop (x0 : Writer) (x1 : Word) : Wf.Statement (.maintStop x0 x1) := Wf.plain rfl rfl

theorem Wf.maintPeriodicStart (x0 : Nat) (x1 : Nat) : Wf.Statement (.maintPeriodicStart x0 x1) := Wf.plain rfl rfl

theorem Wf.maintUnitDone (x0 : Nat) (x1 : Bool) (x2 : Bool) (x3 : MemErrs) : Wf.Statement (.maintUnitDone x0 x1 x2 x3) := Wf.plain rfl rfl

theorem Wf.consSnap (x0 : Writer) (x1 : Word) : Wf.Statement (.consSnap x0 x1) := Wf.plain rfl rfl

theorem Wf.cameraHeartbeat (x0 : Nat) : Wf.Statement (.cameraHeartbeat x0) := Wf.plain rfl rfl

theorem Wf.ethernetLinkChange (x0 : Nat) (x1 : Bool) : Wf.Statement (.ethernetLinkChange x0 x1) := Wf.plain rfl rfl

theorem Wf.pllRelock (x0 : Nat) (x1 : Nat) : Wf.Statement (.pllRelock x0 x1) := Wf.plain rfl rfl

theorem Wf.supplyRestored (x0 : Nat) : Wf.Statement (.supplyRestored x0) := Wf.plain rfl rfl

theorem Wf.suppliesRemoved : Wf.Statement (.suppliesRemoved) := Wf.plain rfl rfl

theorem Wf.selfRefreshExit (x0 : Nat) : Wf.Statement (.selfRefreshExit x0) := Wf.plain rfl rfl

theorem Wf.wckDqCheck (x0 : Nat) : Wf.Statement (.wckDqCheck x0) := Wf.plain rfl rfl

theorem Wf.perBankRefresh (x0 : Nat) (x1 : Nat) : Wf.Statement (.perBankRefresh x0 x1) := Wf.plain rfl rfl

theorem Wf.coreMemoryAccess (x0 : CoreAccess) (x1 : MemErrs) : Wf.Statement (.coreMemoryAccess x0 x1) := Wf.plain rfl rfl

end Sys2Proof.Laws
end

