-- ==== Sys2Proof/Tests/Slice0.lean ====
section
/-! SUPPORT. Tests of the model: a smoke test of well-formedness with an ill-formed command for each check, worked
examples of the manual, and for every clause of every statement of Obligations.lean that has hypotheses, concrete
operands and a small state that meet them all together, most with a check of what the command then does. -/
namespace Sys2Proof.Tests
open Sys2Proof Sys2Proof.Machine
set_option Elab.async false

/-- The outcome is a next state, and it passes the check. -/
def ok (o : Host.Outcome State Fault Refusal) (p : State → Bool) : Bool :=
  match o with
  | .next t => p t
  | _ => false

/-- A state with registers set. -/
def withRegs (s : State) (l : List (Nat × Nat)) : State := l.foldl (fun s e => regPut s e.1 e.2) s

/-- A small device that has started: every domain powered, the start at its end, 896 MiB of memory. -/
def dev : State :=
  withRegs { State.reset with
    boot := { State.reset.boot with step := 12, cores := true, waves := [0] },
    pins := { State.reset.pins with rails := List.replicate 11 true, refclk := true, resetN := true },
    leekUp := [true, true], time := 1000000, elapsed := 1000000 }
    [(0, 0x2C000000), (0xD000020, 0xFFFFFFFF), (0x3000004, 14)]

/-- A work that a descriptor of a pair started. -/
def mkWork (p : Nat) (d : List Byte) : Work :=
  { pair := some p, index := 0, desc := d, stream := 0, slot := none, phase := .fetched, op := none, status := 0, detail := 0,
    aux := 0, cancelled := false, targets := [], posted := [], buf := [] }

/-- A register write by a core, by its offset. -/
def wr (a v : Nat) : Instr := .registerWrite .core (regAddr a) 4 (BitVec.ofNat 32 v)

/-! ### The queue, reset, registers -/

theorem test_wait :
    ok (step State.reset) (fun t => t.elapsed = 1 ∧ t.time = 0 ∧ t.pending = [] ∧ t.regs = []) = true ∧
    (∀ d, d < 2 → (dispGet State.reset d).running = false) ∧ State.reset.odo.means = [] ∧ odoMode State.reset ≠ 3 ∧
    State.reset.streams = [] ∧ timeRunning State.reset = false ∧ timeRunning dev = true ∧
    ok (step dev) (fun t => t.time = 1000001) = true := by decide +kernel

theorem test_step_takes_front :
    step { dev with pending := [.holdTimeout, .syncTimeout] } = exec .holdTimeout { dev with pending := [.syncTimeout] } := rfl

theorem witness_EveryStepTakesOneCommand :
    ok (step { dev with pending := [.perBankRefresh 3 7, .syncTimeout] })
      (fun t => t.pending = [.syncTimeout] ∧ t.ddr.refreshTaken = 7) = true := by decide +kernel

theorem witness_EveryStepKeepsMemoryAndLogSound :
    Memory.wf State.reset.mem = true ∧ State.reset.log.length ≤ 16384 ∧ State.reset.logHead < 2 ^ 32 := by decide +kernel

theorem test_reset_power : (∀ d, d < 32 → powered State.reset d = (d == 0)) ∧ bootState State.reset = 0 := by decide +kernel

theorem witness_EveryCommandAnswers : ok (exec (.supplyFault 0 800000) dev) (fun _ => true) = true := by decide +kernel

theorem witness_PlainRegisterWritesSetRwBits_one :
    (match namedReg (regAddr 0xD000004) 4 with
     | some (r, _, _) => r.gate == .none && r.kind == .one && r.legal (0x7 &&& (r.rw ||| r.wo))
     | _ => false) = true ∧ mayWrite dev .core = true ∧ bandHeld dev 0xD000004 = false ∧
    ok (exec (wr 0xD000004 0x7) dev) (fun t => regGet t 0xD000004 = 0x7) = true ∧
    (match namedReg (regAddr 0x7000040) 4 with
     | some (r, _, _) => r.gate == .none && r.kind == .one && r.rw != 0 && r.legal (0xA00 &&& (r.rw ||| r.wo))
     | _ => false) = true ∧
    (let s := streamPut dev 5 { Stream.free with state := .running, cls := .lineLocked, rsmpMask := 1 }
     bandHeld s 0x7000040 = true ∧
     ok (exec (wr 0x7000040 0xA00) s) (fun t => tget t.shadow 0x7000040 = some 0xA00 ∧ t.regs = s.regs) = true) := by
  decide +kernel

theorem witness_PlainRegisterWritesSetRwBits_pair :
    (match namedReg (regAddr 0xD000008) 4, namedReg (regAddr 0xD00000C) 4 with
     | some (r, _, _), some (q, _, _) => r.gate == .none && q.gate == .none && r.kind == .lo && q.kind == .hi &&
         r.rw == 2 ^ 32 - 1 && q.rw != 0 && r.legal 5 && q.legal (7 &&& (q.rw ||| q.wo))
     | _, _ => false) = true ∧ mayWrite dev .core = true ∧ bandHeld dev 0xD000008 = false ∧ bandHeld dev 0xD00000C = false ∧
    ok (exec (wr 0xD000008 5) dev) (fun t => t.regs = dev.regs ∧
      ok (exec (wr 0xD00000C 7) t) fun u => reg64 u 0xD000008 = 5 + 2 ^ 32 * 7) = true := by decide +kernel

theorem witness_AccessNamingNoRegisterAnswersError :
    findReg (0x6000000FFC - 0x6000000000) = none ∧ (0x6000000FFE : Nat) % 4 ≠ 0 ∧
    ok (exec (wr 0xFFC 1) dev) (fun t => t.resp = ⟨0, true⟩ ∧ t.regs = dev.regs ∧ t.log = []) = true ∧
    ok (exec (.loReadCapture .core 0x6000000002 4) dev) (fun t => t.resp = ⟨0, true⟩) = true := by decide +kernel

/-- 00 R17: a scrub period of 0 is reserved. -/
theorem witness_ReservedEncodingKeepsRegisterAndIsLogged :
    (match namedReg 0x6002000200 4 with
     | some (r, _, _) => r.rw + r.wo != 0 && !r.legal (0 &&& (r.rw ||| r.wo))
     | none => false) = true ∧
    ok (exec (wr 0x2000200 0) dev) (fun t => regGet t 0x2000200 = 10 ∧ t.log.map (·.code) = [0xFFFF, 0x0501] ∧
      (t.log.getD 1 ⟨0, 0, 0, 0, 0⟩).arg = 0x02000200) = true := by decide +kernel

theorem witness_RegisterReadsCaptureAndClear_capture :
    (match namedReg (regAddr 0xC000800) 4, namedReg (regAddr 0xC000804) 4 with
     | some (r, _, _), some (q, _, _) => r.kind == .lo && q.kind == .hi && r.rc == 0 && q.rc == 0 &&
         r.gate != .poolAlloc && q.gate != .poolAlloc
     | _, _ => false) = true ∧ mayRead dev .core 0xC000800 = true ∧ mayRead dev .core 0xC000804 = true ∧
    ok (exec (.loReadCapture .core 0x600C000800 4) { dev with time := 2 ^ 32 * 3 + 9 }) (fun t => t.resp = ⟨9, false⟩ ∧
      ok (exec (.loReadCapture .core 0x600C000804 4) { t with time := 2 ^ 32 * 4 }) fun u => u.resp = ⟨3, false⟩) = true := by
  decide +kernel

theorem witness_RegisterReadsCaptureAndClear_rc :
    (match namedReg (regAddr 0x5001028) 4 with
     | some (r, _, _) => r.kind == .one && r.rc != 0 && r.gate != .poolAlloc
     | none => false) = true ∧ mayRead dev .core 0x5001028 = true ∧
    ok (exec (.rcCounterRead .core 0x6005001028 4) (regPut dev 0x5001028 6)) (fun t => t.resp = ⟨6, false⟩ ∧
      regGet t 0x5001028 = 0) = true ∧ dev.cons.length = 39 ∧ dev.shadow = [] ∧ mayRead dev .core (0xD001018 + 38 * 0x20) = true ∧
    ok (exec (.rcCounterRead .core 0x600D0014D8 4) { dev with cons := modAt dev.cons 38 fun c => { c with failed := 4 } })
      (fun t => t.resp = ⟨4, false⟩ ∧ t.cons = dev.cons) = true ∧ mayRead dev .core 0x1001010 = true ∧
    ok (exec (.rcCounterRead .core 0x6001001010 4) (regPut dev 0x1001010 8)) (fun t => t.resp = ⟨8, false⟩ ∧
      reg64 t 0x1001010 = 0) = true := by decide +kernel

/-! ### Reset and start -/

/-- Supplies in range, reference running, RESET_N low. -/
def held : State :=
  { State.reset with pins := { State.reset.pins with rails := List.replicate 11 true, refclk := true } }

def badNor : Nor := { norReset with sigOk := false }

theorem witness_ResetReleaseRunsTheFirstSteps :
    held.pins.resetN = false ∧ held.pins.refclk = true ∧
    (∀ i, 1 ≤ i → i < held.pins.rails.length → held.pins.rails[i]? = some true) ∧ held.boot.step = 0 ∧
    identityFail norReset = 0 ∧ identityFail badNor ≠ 0 ∧
    ok (exec (.resetNRelease 1 badNor) held) (fun t => regGet t 0 = 0x32010000) = true := by
  have h : ∀ i, i < 11 → 1 ≤ i → held.pins.rails[i]? = some true := by decide +kernel
  exact ⟨by decide, by decide, fun i a b => h i b a, by decide, by decide +kernel, by decide +kernel, by decide +kernel⟩

theorem test_reset_release_to_step_4 :
    ok (exec (.resetNRelease 1 norReset) held) (fun t => t.boot.step = 4 ∧ powered t 1 = true ∧ powered t 2 = true ∧
      powered t 6 = false ∧ t.sec.keyReady = true ∧ bitOf (regGet t 0xC000100) 31 = true) = true := by decide +kernel

theorem test_power_up_before_reset_n :
    ok (exec (.powerUp true false true) State.reset) (fun t => t.pins.rails.map b2n = [0, 0, 1, 1, 1, 0, 0, 0, 0, 0, 0] ∧
      t.pins.refclk = true ∧ t.boot.step = 0) = true := by decide +kernel

theorem witness_FullResetsAndPowerOffClearTheDevice :
    mayWrite dev .core = true ∧ f (0xA5A50002 : Word).toNat 31 16 = 0xA5A5 ∧ f (0xA5A50002 : Word).toNat 1 0 = 2 ∧
    dev.pins.resetN = true ∧
    ok (exec (.fullReset (.mgmt .core 0xA5A50002)) { dev with mem := [(5, 1)], nextWid := 99 }) (fun t => t.mem = [] ∧
      t.nextWid = 16 ∧ t.log ≠ []) = true ∧
    ok (exec .resetNAssert dev) (fun t => t.boot.step = 0 ∧ t.pins.arrEn = false ∧ t.pins.resetN = false) = true ∧
    ok (exec .suppliesRemoved { dev with mem := [(5, 1)] }) (fun t => t.mem = [] ∧ t.log = []) = true := by decide +kernel

theorem witness_PartialResetEndsThePartition :
    partialIgnored dev = false ∧ resetting dev = false ∧ mayWrite dev .core = true ∧
    f (0xA5A50001 : Word).toNat 31 16 = 0xA5A5 ∧ f (0xA5A50001 : Word).toNat 1 0 = 1 ∧
    ok (exec (.partialReset (.mgmt .core 0xA5A50001)) dev) (fun t => t.boot.step = 6 ∧ t.boot.cores = false ∧ t.pins.arrEn) = true := by
  decide +kernel

theorem test_partial_reset :
    (let s := regPut (regPut { dev with pods := { dev.pods with good := List.range 90, lmap := List.range 90 } } 0x5000000 7) 0x2000204 1
     ok (exec (.partialReset (.supervisor 3)) s) (fun t => t.boot.step = 6 ∧ t.pods.lmap.length = 90 ∧
       regGet t 0x5000000 = 0 ∧ regGet t 0x2000204 = 1 ∧ f (regGet t 0) 31 28 = 4 ∧ t.boot.kind = 1) = true) := by decide +kernel

/-- The start in a step. -/
def inStep (n : Nat) : State := regPut { dev with boot := { dev.boot with step := n, waves := [] } } 0 (2 ^ 28 * 0 + 2 ^ 24 * n)

/-- A partial reset in step 7. -/
def resetIn7 (tripped : Bool) : State :=
  let s := regPut (inStep 7) 0 (4 * 2 ^ 28 + 7 * 2 ^ 24)
  { s with boot := { s.boot with tripped := tripped } }

theorem witness_PartialResetEndsThePartition_again :
    partialIgnored (inStep 5) = true ∧
    ok (exec (.partialReset (.supervisor 3)) (inStep 5)) (fun t => t.log.length = 1 ∧ t.boot.step = 5) = true ∧
    partialIgnored (resetIn7 false) = false ∧ resetting (resetIn7 false) = true ∧
    ok (exec (.partialReset (.supervisor 3)) (resetIn7 false)) (fun t => t.boot.step = 6) = true ∧
    partialIgnored (resetIn7 true) = false ∧ (resetIn7 true).boot.tripped = true ∧
    ok (exec (.partialReset (.supervisor 3)) (resetIn7 true)) (fun t => t.boot.step = 13) = true := by decide +kernel

theorem witness_PodWavesPowerOrStopTheStart :
    (inStep 6).boot.step = 6 ∧ (inStep 6).boot.waves.length + (inStep 6).boot.failedWaves.length = 0 ∧
    (inStep 6).boot.waves = [] ∧ (inStep 6).boot.failedWaves = [] ∧ (inStep 7).boot.step = 7 ∧ (goodPods (inStep 7) []).length < 88 ∧
    ok (exec (.wavePowerUp 0 true) (inStep 6)) (fun t => t.boot.waves = [0] ∧ t.boot.step = 6) = true ∧
    ok (exec (.wavePowerUp 7 false) { inStep 6 with boot := { (inStep 6).boot with waves := [0, 1, 2, 3, 4, 5, 6] } })
      (fun t => t.boot.failedWaves = [7] ∧ t.pods.failedWaves = [7] ∧ t.boot.step = 7) = true ∧
    ok (exec (.podSelfTestDone []) (inStep 7)) (fun t => regGet t 0 = 0x37040000) = true ∧
    ok (exec .arrRangeTimeout (inStep 6)) (fun t => t.boot.step = 13 ∧ regGet t 0 = 0x36040000) = true := by decide +kernel

/-- All eight waves, and the pods that a self-test of step 7 leaves. -/
def wavesUp : State := { inStep 7 with boot := { (inStep 7).boot with waves := List.range 8 } }

theorem witness_HarvestRanksPodsAndSpares_harvest :
    wavesUp.boot.step = 7 ∧ 88 ≤ (goodPods wavesUp [(0, 1), (50, 2)]).length ∧
    ok (exec (.podSelfTestDone [(0, 1), (50, 2)]) wavesUp) (fun t => t.pods.lmap.head? = some 1 ∧ t.pods.lmap.length = 96 ∧
      t.pods.spares = [98, 99, 100, 101, 102, 103]) = true := by decide +kernel

/-- 96 active pods and eight spares. -/
def podDev : State :=
  { dev with pods := { dev.pods with good := List.range 104, lmap := List.range 96, spares := (List.range 104).drop 96 } }

/-- 14 R456: pod 33 fails, logical index 33 goes to the spare 96, and the log says so. -/
theorem witness_HarvestRanksPodsAndSpares_spare :
    33 ∈ podDev.pods.good ∧ powered podDev (12 + 33 / 13) = true ∧ logicalOf podDev 33 = some 33 ∧
    podDev.pods.spares = 96 :: [97, 98, 99, 100, 101, 102, 103] ∧ podDev.pods.spares.Pairwise (· < ·) ∧
    33 ∉ podDev.pods.spares ∧
    ok (exec (.podFailure 33 true) podDev) (fun t => t.pods.lmap[33]? = some 96 ∧ t.pods.spares.head? = some 97 ∧
      t.log.any fun e => e.code == 0x0201 && e.arg == 0x602121) = true := by decide +kernel

theorem witness_MemoriesAreTrainedAndTested :
    (inStep 5).boot.step = 5 ∧ (inStep 5).boot.kind ≠ 2 ∧
    ok (exec (.lpddrTrainingDone 128 0) (inStep 5)) (fun t => regGet t 0x3000004 = 1792 ∧ t.boot.step = 6) = true ∧
    ok (exec (.lpddrTrainingDone 128 0x8001) (inStep 5)) (fun t => regGet t 0 = 0x35030000 ∧ regGet t 0x3000008 = 0x7FFE8001) = true ∧
    (inStep 8).boot.step = 8 ∧ f (regGet (inStep 8) 0x10) 31 24 < marchTotal (inStep 8) ∧
    marchFrom (inStep 8) (f (regGet (inStep 8) 0x10) 31 24 + 1) = marchTotal (inStep 8) ∧ f (regGet (inStep 8) 0x10) 7 0 = 0 ∧
    marchFrom (regPut (inStep 8) 0x3000004 28) 1 < min 256 (marchTotal (regPut (inStep 8) 0x3000004 28)) ∧
    ok (exec (.marchBlockDone .corrected) (regPut (inStep 8) 0x3000004 28)) (fun t => regGet t 0x10 = 0x01000100) = true ∧
    ok (exec (.marchBlockDone .clean) { inStep 8 with mem := [(9, 1)] }) (fun t => t.boot.step = 9 ∧ t.mem = []) = true ∧
    ok (exec (.marchBlockDone (.failed 3 64)) (inStep 8)) (fun t => regGet t 0 = 0x38050000) = true ∧
    (inStep 9).boot.step = 9 ∧ (inStep 9).boot.kind = 0 ∧ (inStep 9).leekUp.length = 2 ∧
    ok (exec (.leekTestDone none (some 63)) (inStep 9)) (fun t => t.leekUp = [true, false] ∧ t.boot.step = 10) = true ∧
    ok (exec (.leekTestDone (some 0) (some 1)) (inStep 9)) (fun t => regGet t 0 = 0x39060000) = true := by decide +kernel

def image (type edition : Nat) : Image := ⟨leBytes 4 1 ++ leBytes 4 (type * 2 ^ 24) ++ leBytes 4 0 ++ leBytes 2 edition, List.replicate 300 7⟩

/-- Microcode loads, and the topology record is taken. -/
def loading : State := { inStep 10 with sec := { (inStep 10).sec with pod := some (image 2 5) } }

/-- A record of one device of a 1 x 1 x 1 torus, whose identity is 0. -/
def topoRec : List Byte := leBytes 2 1 ++ [1, 1, 1] ++ leBytes 59 0 ++ leBytes 32 0

def topoDev : State := { dev with mem := memPutN [] 0x1000 topoRec, regs := (regPut64 dev 0xA8 0x1000).regs }

theorem witness_MicrocodeAndTopologyAreTaken :
    loading.sec.pod = some (image 2 5) ∧ loading.boot.step = 10 ∧ loading.boot.kind = 0 ∧ resetting loading = false ∧
    loading.boot.topo = none ∧
    ok (exec .microcodeLoaded loading) (fun t => regGet t 0x1001000 = 5 ∧ t.boot.step = 11 ∧ regGet t 0 = 0x2B000000) = true ∧
    mayWrite topoDev .core = true ∧ topoDev.boot.step ≠ 11 ∧ topoHost topoDev = false ∧
    topoLocal topoDev (reg64 topoDev 0xA8) 64 = some (topoRec.take 64) ∧
    topoLocal topoDev (reg64 topoDev 0xA8 + 64) (32 * topoCount (topoRec.take 64)) = some (topoRec.drop 64) ∧
    (decTopo topoRec).isSome = true ∧ ok (exec (.topoGo .core 0) topoDev) (fun t => t.boot.topo = none) = true ∧
    ok (exec (.topoGo .core 1) topoDev) (fun t => t.boot.topo = some topoRec) = true := by decide +kernel

/-- A device whose record of one device agrees with it, or expects a port that is down; a short identity. -/
def topoReady (width n : Nat) : State :=
  let s := { inStep n with boot := { (inStep n).boot with nor := { dev.boot.nor with bytes := [1] } }, sec := { dev.sec with pod := some (image 2 5) } }
  let b := leBytes 2 1 ++ [2, 1, 1] ++ leBytes 59 0 ++ (idDigest s).take 8 ++ leBytes 4 0 ++ leBytes 1 width ++ leBytes 19 0
  withRegs { s with boot := { s.boot with topo := some b } } [(0xB000000, 2 ^ 31), (0xB000004, 1)]

theorem witness_MicrocodeAndTopologyAreTaken_check :
    (match (topoReady 0 10).boot.topo.bind decTopo with
     | some t => assigned (topoReady 0 10) && (topoDiffs (topoReady 0 10) t).isEmpty
     | none => false) = true ∧
    ok (exec .microcodeLoaded (topoReady 0 10)) (fun t => t.boot.step = 12 ∧ regGet t 0 = 0x1B000000 ∧ regGet t 0xB8 = 0x20000000) = true ∧
    (match (topoReady 4 11).boot.topo.bind decTopo with
     | some t => assigned (topoReady 4 11) && (topoDiffs (topoReady 4 11) t).map (·.kind) == [2]
     | none => false) = true ∧
    ok (exec (.topoCtrlWrite .core 1) (topoReady 4 11)) (fun t => t.boot.step = 12 ∧ regGet t 0xB8 = 0x41000000) = true ∧
    ok (exec (.topoCtrlWrite .core 0) (topoReady 4 11)) (fun t => t.boot.step = 11 ∧ regGet t 0xB8 = 0x31000000) = true ∧
    ok (exec (.topoCtrlWrite .core 3) (inStep 11)) (fun t => t.boot.step = 11 ∧ regGet t 0 = 0x2B000000) = true := by decide +kernel

theorem witness_MicrocodeAndTopologyAreTaken_refused :
    (decTopo (leBytes 64 0)).isSome = false ∧ topoLocal dev (reg64 dev 0xA8) 64 = some ((leBytes 64 0).take 64) ∧
    topoLocal dev (reg64 dev 0xA8 + 64) (32 * topoCount ((leBytes 64 0).take 64)) = some ((leBytes 64 0).drop 64) ∧
    ok (exec (.topoGo .core 1) dev) (fun t => t.boot.topo = none ∧ regGet t 0xB8 = 0x50000000) = true ∧
    topoLocal (regPut64 dev 0xA8 0x38000000) (reg64 (regPut64 dev 0xA8 0x38000000) 0xA8) 64 = none ∧
    ok (exec (.topoGo .core 1) (regPut64 dev 0xA8 0x38000000)) (fun t => regGet t 0xB8 = 0x60000000) = true ∧
    (let s := regPut dev 0xA0 2
     topoHost s = true ∧ s.rrp.state ≠ 1 ∧ ok (exec (.topoGo .core 1) s) (fun t => regGet t 0xB8 = 0x60000000) = true ∧
     ok (exec (.topoGo .core 1) { s with rrp := { s.rrp with state := 1 } }) (fun t => t.rrp.unacked.map (·.type) = [4]) = true) ∧
    ok (exec (.topoCtrlWrite .core 3) dev) (fun t => regGet t 0xA0 = 3) = true := by decide +kernel

/-! ### Images -/

/-- A port that trained: port p active, its peer with credits. -/
def portUp (s : State) (p : Nat) : State :=
  { regPut s (0xB001004 + p * 0x40) (2 * 2 ^ 29 + 0xFFFF) with fab := { s.fab with
    ports := modAt s.fab.ports p fun x => { x with granted := List.replicate 10 64, good := 15 } } }

/-- The start in step 4, no port training, port 0 up. -/
def step4 : State := withRegs (portUp (inStep 4) 0) [(0x20, 0)]

def pull4 : Pull := ⟨.fabric 0, 2 ^ 24, 20000, [], 0, []⟩

theorem witness_ImagesArePulledVerifiedAndServed_offer :
    sourceOk step4 (.fabric 0) = true ∧ bootPortUp step4 (.fabric 0) = true ∧ step4.boot.pull = none ∧
    step4.boot.offers = [] ∧ imageNeed step4 ≠ 0 ∧ (2 ^ 24 + 5) / 2 ^ 24 = imageNeed step4 ∧
    pull4.chunks < chunkCount pull4.len ∧ (List.replicate 256 (7 : Byte)).length = min 256 (pull4.len - 256 * pull4.chunks) ∧
    ok (exec (.relayData (.fabric 0) 0 0 (List.replicate 256 7)) { step4 with boot := { step4.boot with pull := some pull4 } })
      (fun t => (t.boot.pull.map fun x => (x.chunks, x.data.length)) = some (1, 256)) = true := by decide +kernel

/-- Chunk 2, then 0, then 1: all three are kept in their order. -/
theorem witness_ImagesArePulledVerifiedAndServed_early :
    pull4.chunks < 2 ∧ 2 < min (pull4.chunks + pull4.early.length + 64) (chunkCount pull4.len) ∧ tget pull4.early 2 = none ∧
    ok (exec (.relayData (.fabric 0) 2 0 (List.replicate 256 3)) { step4 with boot := { step4.boot with pull := some pull4 } }) (fun s =>
      ok (exec (.relayData (.fabric 0) 0 0 (List.replicate 256 1)) s) fun s =>
      ok (exec (.relayData (.fabric 0) 1 0 (List.replicate 256 2)) s) fun t =>
        (t.boot.pull.map fun x => (x.chunks, x.data.length, (x.data.drop 510).take 4, x.early.length)) =
          some (3, 768, [2, 2, 3, 3], 0)) = true := by decide +kernel

/-- SHA3-512 of the bytes 1, 2, computed outside the model. -/
def tinyDigest : List Byte :=
  [0x1D, 0x19, 0x16, 0xC7, 0x89, 0x98, 0x7A, 0x9A, 0x76, 0xDF, 0x48, 0x4C, 0x1F, 0x75, 0xA2, 0x88, 0xF5, 0x24,
   0xD4, 0x88, 0x8F, 0x53, 0x95, 0x0E, 0x69, 0xC3, 0x25, 0xDD, 0x62, 0xA9, 0xEE, 0x9C, 0x0B, 0xEB, 0x4F, 0xF9,
   0xC2, 0x1B, 0x8F, 0x36, 0x82, 0x54, 0x92, 0x79, 0x21, 0xE7, 0x17, 0x9B, 0xC7, 0x11, 0xC9, 0x6F, 0xE8, 0xD2,
   0x4F, 0x04, 0xBD, 0xA5, 0x64, 0x64, 0x02, 0xA4, 0xA7, 0x22]

/-- A small management image: header, two payload bytes, signature bytes; the digest of the payload at 32. -/
def tinyImage (type : Nat) : List Byte :=
  leBytes 4 1 ++ leBytes 3 0 ++ leBytes 1 type ++ leBytes 8 0 ++ leBytes 4 2 ++ leBytes 12 0 ++ tinyDigest ++
    leBytes 160 0 ++ leBytes 4627 0 ++ [1, 2]

def pulled (type step : Nat) (b : List Byte) : State :=
  { inStep step with boot := { (inStep step).boot with
    pull := some ⟨.fabric 0, type * 2 ^ 24, b.length, b, chunkCount b.length, []⟩ } }

theorem witness_ImagesArePulledVerifiedAndServed_verify :
    imageNeed (withRegs (pulled 2 10 (tinyImage 2)) []) = 2 ∧ (tinyImage 2).length = 4885 ∧
    imagePasses (pulled 2 10 (tinyImage 2)) ⟨.fabric 0, 2 ^ 25, 4885, tinyImage 2, 20, []⟩ 2 true true true = true ∧
    imagePasses (pulled 2 10 (tinyImage 2)) ⟨.fabric 0, 2 ^ 25, 4885, tinyImage 2, 20, []⟩ 2 false true true = false ∧
    imagePasses (pulled 1 4 (tinyImage 1)) ⟨.fabric 0, 2 ^ 24, 4885, tinyImage 1, 20, []⟩ 1 true true true = true ∧
    ok (exec (.imageVerify true true true) (pulled 2 10 (tinyImage 2))) (fun t => t.sec.pod.isSome ∧ t.boot.pull = none) = true ∧
    ok (exec (.imageVerify false true true) (pulled 2 10 (tinyImage 2))) (fun t => t.sec.pod = none ∧
      regGet t 0xE000070 = 2 ^ 16 ∧ t.boot.pull = none) = true := by decide +kernel

def serving : State := { portUp dev 2 with sec := { dev.sec with mgmt := some (image 1 0) } }

theorem witness_ImagesArePulledVerifiedAndServed_serve :
    fabUp serving 2 = true ∧ (heldImages serving).find? (fun j => imageId j == 2 ^ 24) = some (image 1 0) ∧
    1 < chunkCount (image 1 0).bytes.length ∧ serving.sec.mgmt = some (image 1 0) ∧ serving.sec.pod = none ∧
    ok (exec (.pull 2 (2 ^ 24) 1 9) serving) (fun t => ((t.fab.ports.getD 2 FPort.reset).retry.flatMap (·.packets)).map
      (fun p => (p.type, p.tag, p.data.length)) = [(0x0F, 9, 48)]) = true ∧
    ok (exec .offerTimer serving) (fun t => ((t.fab.ports.getD 2 FPort.reset).retry.flatMap (·.packets)).map
      (fun p => (p.type, p.data.take 8)) = [(0x0D, [0, 0, 0, 1, 44, 1, 0, 0])]) = true := by decide +kernel

/-! ### Rings -/

/-- A device whose owner 0 may use its first 16 MiB of memory, and whose pair 0 is enabled: SQ at 0x10000, CQ at
0x20000, sixteen entries each. -/
def ring : State :=
  { withRegs dev [(0x5001000, 0x10000), (0x5001008, 0x20000), (0x5001010, 2 ^ 31 + 4 * 2 ^ 16 + 4 * 2 ^ 8)] with
    wins := [(3, ⟨0, 256, 0, true, true, true, false, 0, 0, 0, 0, false, 2, false, 0⟩)] }

/-- A NOP descriptor with a tag. -/
def nopDesc : List Byte := leBytes 4 0 ++ leBytes 4 0xABCD ++ leBytes 56 0

def nopping : State := { ring with works := [(16, mkWork 0 nopDesc)], nextWid := 17 }

theorem witness_NopWritesItsCompletion :
    startedAs nopping 16 0x00 = some (mkWork 0 nopDesc) ∧ (mkWork 0 nopDesc).slot = none ∧ cqRoom nopping 0 = true ∧
    pairRemote nopping 0 = false ∧ (pairGet nopping 0).wait = [] ∧ checkRange nopping (writeBy 0 0) (cqSlot nopping 0) 16 = none ∧
    poisonPartial nopping (cqSlot nopping 0) 16 = none ∧ Memory.wf nopping.mem = true ∧ Tab.wf nopping.works = true ∧
    ok (exec (.nop 16) nopping) (fun t => memGetN t.mem 0x20000 16 =
        [0xCD, 0xAB, 0, 0, 0, 0, 0x80, 0, 0, 0x80, 0, 0, 0x40, 0x42, 0x0F, 0] ∧ t.works = [] ∧ (pairGet t 0).cqTail = 1) = true := by
  decide +kernel

/-- 09: a ring of sixteen entries and a doorbell at the boundary of its size. -/
theorem witness_SubmissionDoorbellRules :
    mayWrite ring .core = true ∧ pairEnabled ring 0 = true ∧ (pairGet ring 0).stopped = false ∧
    serialGe 32 (pairGet ring 0).sqDb (0 : Word).toNat = true ∧ serialGe 32 (pairGet ring 0).sqDb (16 : Word).toNat = false ∧
    ((16 : Word).toNat + 2 ^ 32 - (pairGet ring 0).fetch) % 2 ^ 32 ≤ 2 ^ sqLog2 ring 0 ∧
    2 ^ sqLog2 ring 0 < ((17 : Word).toNat + 2 ^ 32 - (pairGet ring 0).fetch) % 2 ^ 32 ∧ pairEnabled ring 1 = false ∧
    ok (exec (.sqDb .core 0 16) ring) (fun t => (pairGet t 0).sqDb = 16 ∧ t.log = []) = true ∧
    ok (exec (.sqDb .core 0 17) ring) (fun t => (pairGet t 0).stopped = true ∧ (pairGet t 0).sqDb = 0 ∧ t.log.length = 1) = true ∧
    ok (exec (.sqDb .core 63 1) ring) (fun t => (t.log.map fun e => (e.code, e.arg)) = [(0x0214, 63)]) = true := by decide +kernel

/-- The device is ready. -/
def ready : State := regPut ring 0 (2 ^ 28 + 12 * 2 ^ 24)

theorem witness_PairsRingsAndConsumerIndices_cfg :
    mayWrite ready .core = true ∧
    (match namedReg (regAddr (0x5001010 + 1 * 0x40)) 4 with
     | some (r, _, _) => r.legal (0x80040400 &&& (r.rw ||| r.wo)) && 0x80040400 &&& (r.rw ||| r.wo) == 0x80040400
     | none => false) = true ∧ pairEnabled ready 1 = false ∧ ringIdle ready 1 = true ∧ deviceReady ready = true ∧
    ringsAt ready 1 0x80040400 = true ∧ ringsAt (regPut ready 0x5001044 0x100) 1 0x80040400 = false ∧
    deviceReady ring = false ∧ bitOf (pairCfg ready 0) 31 = true ∧ (0x00040400 : Word).toNat = setF (pairCfg ready 0) 31 31 0 ∧
    ok (exec (.pairCfgWrite .core 1 0x80040400) ready) (fun t => pairEnabled t 1 = true ∧ t.log = []) = true ∧
    ok (exec (.pairCfgWrite .core 1 0x80040400) ring) (fun t => pairEnabled t 1 = false ∧ t.log.length = 2) = true ∧
    ok (exec (.pairCfgWrite .core 1 0x80040400) (regPut ready 0x5001044 0x100)) (fun t => pairEnabled t 1 = false) = true ∧
    ok (exec (.pairCfgWrite .core 0 0x00040400) ready) (fun t => pairEnabled t 0 = false) = true := by decide +kernel

/-- A stream with a result ring of 64 records at 0x30000, two of its records written. -/
def resStream : Stream := { Stream.free with state := .running, ring := some ⟨0x30000, 6, 2, 0, []⟩ }

def resulting : State := streamPut { ring with pairs := [(0, { Pair.reset with cqTail := 3, cqCons := 1 })] } 127 resStream

def ringDesc : List Byte :=
  [0x0C, 0, 127, 0] ++ leBytes 4 1 ++ leBytes 8 0x40000 ++ leBytes 1 7 ++ leBytes 47 0

def ringing : State := { resulting with works := [(16, { mkWork 0 ringDesc with stream := 127 })] }

theorem witness_PairsRingsAndConsumerIndices_indices :
    mayWrite resulting .core = true ∧ pairEnabled resulting 0 = true ∧ serialGe 32 (3 : Word).toNat (pairGet resulting 0).cqCons = true ∧
    serialGe 32 (pairGet resulting 0).cqTail (3 : Word).toNat = true ∧
    ok (exec (.cqDb .core 0 3) resulting) (fun t => (pairGet t 0).cqCons = 3) = true ∧
    ok (exec (.cqDb .core 0 4) resulting) (fun t => (pairGet t 0).cqCons = 1) = true ∧
    (streamGet resulting 127).ring = some ⟨0x30000, 6, 2, 0, []⟩ ∧ serialGe 32 (2 : Word).toNat 0 = true ∧
    ok (exec (.resDb .core 127 2) resulting) (fun t => ((streamGet t 127).ring.map (·.cons)) = some 2) = true ∧
    startedAs ringing 16 0x0C = some { mkWork 0 ringDesc with stream := 127 } ∧ (streamGet ringing 127).state ≠ .free ∧
    ok (exec (.resultRing 16) ringing) (fun t => (streamGet t 127).ring = some ⟨0x40000, 7, 0, 0, []⟩ ∧
      (streamGet t 127).home = 0) = true := by decide +kernel

/-- A posted NOP, and a posted DMA that takes a scoreboard slot. -/
def posting (d : List Byte) : State :=
  { ring with mem := memPutN [] 0x10000 d, pairs := [(0, { Pair.reset with sqDb := 1 })] }

def dmaDesc : List Byte :=
  [2, 0, 0, 0] ++ leBytes 4 7 ++ leBytes 8 0x40000 ++ leBytes 8 0x50FF0 ++ leBytes 4 32 ++ leBytes 36 0

theorem witness_FetchStartsTheNextDescriptor :
    (posting dmaDesc).pairs.map (·.1) = [0] ∧ posted (posting dmaDesc) 0 = true ∧ pairRemote (posting dmaDesc) 0 = false ∧
    (match peekDesc (posting dmaDesc) 0 (pairGet (posting dmaDesc) 0).fetch with
     | some (.ok d) => d == dmaDesc | _ => false) = true ∧
    descHeld (posting dmaDesc) 0 (pairGet (posting dmaDesc) 0).fetch dmaDesc = false ∧
    (pairGet (posting dmaDesc) 0).cancels = [] ∧ descErr dmaDesc false = none ∧ streamErr (posting dmaDesc) 0 dmaDesc = none ∧
    opcodeSlot (leAt dmaDesc 0 1) = true ∧ tget (posting dmaDesc).slots 0 = none ∧
    ok (exec .descriptorFetch (posting dmaDesc)) (fun t => t.works.map (fun e => (e.1, e.2.slot, leAt e.2.desc 4 4)) = [(16, some 0, 7)] ∧
      (pairGet t 0).fetch = 1) = true := by decide +kernel

/-- A remote pair with three descriptors posted, a session open. -/
def remote : State :=
  { regPut (posting []) 0x5001010 (3 * 2 ^ 30 + 4 * 2 ^ 16 + 4 * 2 ^ 8) with
    pairs := [(0, { Pair.reset with sqDb := 17, fetch := 14 })], rrp := { State.reset.rrp with state := 1 } }

/-- 09 R312: two descriptors up to the ring's end are asked of the host; the READ_REQ has the 40 bytes of the worked example of 09. -/
theorem witness_FetchStartsTheNextDescriptor_remote :
    remote.pairs.map (·.1) = [0] ∧ posted remote 0 = true ∧ pairRemote remote 0 = true ∧
    tget (pairGet remote 0).fetched (pairGet remote 0).fetch = none ∧ rrpRoom remote = true ∧ remote.rrp.state = 1 ∧
    readsOf remote 0 = false ∧ remote.rrp.reads.length < 64 ∧
    ok (exec .descriptorFetch remote) (fun t => t.rrp.unacked.map (fun m => (m.type, m.payload.take 12)) =
      [(0x04, leBytes 8 0x10380 ++ leBytes 2 128 ++ leBytes 2 0)] ∧ (rrpWire t).map (·.length) = [40]) = true := by decide +kernel

/-- A ring whose sixteen slots are all taken, and one with a completion that waits. -/
def fullRing : State := { ring with pairs := [(0, { Pair.reset with cqTail := 16 })] }

def oneCompl : Compl := ⟨none, 5, 0, 0, 0, false, none, 0, false⟩

def waitRing : State := { ring with pairs := [(0, { Pair.reset with cqTail := 15, wait := [oneCompl] })] }

def stagedStream : Stream := { resStream with ring := some ⟨0x30000, 6, 63, 0, [List.replicate 64 9]⟩ }

def staged : State := streamPut ring 1 stagedStream

theorem witness_WaitingThingsAreWrittenInOrder :
    cqRoom fullRing 0 = false ∧ (pairGet (deliver fullRing 0 oneCompl) 0).wait = [oneCompl] ∧
    (pairGet waitRing 0).wait = oneCompl :: [] ∧ cqRoom waitRing 0 = true ∧ pairRemote waitRing 0 = false ∧
    checkRange waitRing (writeBy 0 0) (cqSlot waitRing 0) 16 = none ∧ poisonPartial waitRing (cqSlot waitRing 0) 16 = none ∧
    oneCompl.wid = none ∧ oneCompl.notify = false ∧ oneCompl.status ≠ 5 ∧ Memory.wf waitRing.mem = true ∧
    ok (exec (.completionWrite 0) waitRing) (fun t => (pairGet t 0).wait = [] ∧ memGet t.mem 0x200F0 = 5) = true ∧
    (let s := { waitRing with pairs := [(0, { Pair.reset with cqTail := 15, events := [{ oneCompl with event := true, status := 5 }] })] }
     (pairGet s 0).wait = [] ∧ ok (exec (.completionWrite 0) s) (fun t => (pairGet t 0).events = [] ∧ memGet t.mem 0x200F5 = 0xFF) = true) ∧
    (streamGet staged 1).ring = some ⟨0x30000, 6, 63, 0, [List.replicate 64 9]⟩ ∧
    (ResRing.room ⟨0x30000, 6, 63, 0, []⟩) = true ∧ (List.replicate 64 (9 : Byte)).length = 64 ∧
    checkRange staged (writeBy 0 0) (0x30000 + 63 * 64) 64 = none ∧ poisonPartial staged (0x30000 + 63 * 64) 64 = none ∧
    ok (exec (.resultRecordWrite 1) staged) (fun t => memGet t.mem 0x30FC0 = 9 ∧ memGet t.mem 0x30FCE = 0x89 ∧
      ((streamGet t 1).ring.map fun r => (r.tail, r.staging)) = some (64, [])) = true ∧
    ok (exec (.coalesceTimer 0) { ring with pairs := [(0, { Pair.reset with timer := some 1000000 })] })
      (fun t => t.out = [.irq 64]) = true := by decide +kernel

/-! ### The session -/

/-- A session is open: message 3 is expected next, and three messages wait for their acknowledgment. -/
def session : State :=
  { withRegs ring [(0xC004000, 2 ^ 31), (0xC004004, 5000), (0xC004010, 1)] with
    rrp := { ring.rrp with
      state := 1, session := 77, rxSeq := 3, txSeq := 8, reads := [(4, 1, 16, 0x9000)],
      unacked := [⟨5, 7, [], 0, 0⟩, ⟨6, 7, [], 0, 0⟩, ⟨7, 7, [], 0, 0⟩] },
    works := [(16, mkWork 0 nopDesc)] }

def hdr (seq ack : Nat) : RrpHdr := ⟨[1, 0, 0, 0], 5000, false, 77, seq, ack⟩

def accepted : State := match rrpAccept session (hdr 3 5) with | .ok u => u | .error u => u

theorem witness_SessionMessagesAct :
    (match rrpAccept session (hdr 3 5) with | .ok _ => true | _ => false) = true ∧ resetting accepted = false ∧
    tget accepted.rrp.reads 4 = some (1, 16, 0x9000) ∧ workGet accepted 16 = some (mkWork 0 nopDesc) ∧
    ok (exec (.doorbell (hdr 3 5) 0 0 16) session) (fun t => (pairGet t 0).sqDb = 16 ∧ t.rrp.rxSeq = 4) = true ∧
    ok (exec (.doorbell (hdr 3 5) 1 63 0) session) (fun t => t.rrp.rxSeq = 4) = true ∧ ok (exec (.doorbell (hdr 3 5) 2 127 0) session) (fun t => t.rrp.rxSeq = 4) = true ∧
    accepted.boot.topoWant = [] ∧
    ok (exec (.regRead (hdr 3 5) 0x6002000200) session) (fun t => (t.rrp.unacked.getLast?.map fun m => (m.type, m.payload.drop 8)) =
      some (0x0A, [10, 0, 0, 0])) = true ∧
    ok (exec (.regWrite (hdr 3 5) 0x6002000200 9) session) (fun t => regGet t 0x2000200 = 9) = true ∧
    ok (exec (.readResp (hdr 3 5) 4 [1, 2]) session) (fun t => (workGet t 16).map (·.buf) = some [(0x9000, [1, 2])] ∧
      t.rrp.reads = []) = true := by decide +kernel

theorem witness_SessionSequenceAndRetransmission_accept :
    (rrpHeard session (hdr 3 5)).isSome = true ∧ session.rrp.rxSeq < 2 ^ 32 ∧ (hdr 4 5).seq ≠ session.rrp.rxSeq ∧
    ((hdr 4 5).seq + 2 ^ 32 - session.rrp.rxSeq) % 2 ^ 32 < 2 ^ 31 ∧
    ((hdr 2 5).seq + 2 ^ 32 - session.rrp.rxSeq) % 2 ^ 32 ≥ 2 ^ 31 ∧
    (match rrpAccept session (hdr 2 5) with | .error u => u.out == [.rrpAck 3] | _ => false) = true ∧
    (match rrpAccept session (hdr 4 5) with | .error u => u.out.isEmpty | _ => false) = true := by decide +kernel

theorem witness_SessionSequenceAndRetransmission_ack :
    rrpOpenTo session (hdr 9 6).secured = true ∧ rrpFrom session (hdr 9 6).src (hdr 9 6).srcPort = true ∧
    session.rrp.state ≠ 0 ∧ (hdr 9 6).session = session.rrp.session ∧ serialGe 32 session.rrp.txSeq (hdr 9 6).ack = true ∧
    (session.rrp.unacked.any fun m => !serialGe 32 m.seq (hdr 9 6).ack) = true ∧
    ok (exec (.ack (hdr 9 6)) session) (fun t => t.rrp.unacked.map (·.seq) = [6, 7]) = true ∧
    session.rrp.state = 1 ∧ rtoOf session 0 ≤ session.elapsed - 0 ∧
    ok (exec .rrpRetransmit session) (fun t => t.rrp.unacked.map (·.retries) = [1, 1, 1] ∧ t.rrp.state = 1 ∧
      regGet t 0xC004028 = 3) = true ∧
    ok (exec .rrpRetransmit { session with elapsed := 64000000, rrp := { session.rrp with unacked := [⟨5, 7, [], 15, 0⟩] } })
      (fun t => t.rrp.state = 2 ∧ t.log.map (fun e => (e.code, e.arg)) = [(0x0215, 1)]) = true := by decide +kernel

/-- A whole OPEN of a device without owner, for the identity of the model's record. -/
def opening (b : List Byte) : State :=
  { dev with rrp := { dev.rrp with fragSession := 9, fragCount := 1, frags := [(0, b)], fragTime := 500 },
             regs := (regPut dev 0xC004004 1).regs }

def openBytes : List Byte := leBytes 4 1 ++ leBytes 4 0 ++ (idDigest dev).take 8 ++ leBytes 4 9 ++ leBytes 44 0

theorem witness_OpenTakesTheDeviceOver_fails :
    fragsWhole (opening []) = true ∧ resetting (opening []) = false ∧ openFail (opening []) (openBody (opening [])) true = some 1 ∧
    ok (exec (.open_ true) (opening [])) (fun t => t.rrp.state = 0 ∧ t.rrp.frags = [] ∧ regGet t 0xE000070 = 1) = true ∧
    fragsPartial { opening [] with rrp := { (opening []).rrp with fragCount := 2 } } = true ∧
    100000000 ≤ 100000500 - (opening []).rrp.fragTime := by decide +kernel

/-! ### Transfers -/

/-- A transfer of 32 bytes that crosses a 4 KiB boundary of its destination. -/
def dmaing : State :=
  { ring with works := [(16, mkWork 0 dmaDesc)], mem := memPutN [] 0x40000 ((List.range 32).map fun i => BitVec.ofNat 8 (i + 1)) }

theorem witness_DmaCopiesAndCompletes :
    workGet dmaing 16 = some (mkWork 0 dmaDesc) ∧ leAt dmaDesc 0 1 = 0x02 ∧ (decDma dmaDesc).srcSpace = 0 ∧
    (decDma dmaDesc).dstSpace = 0 ∧ (decDma dmaDesc).compress = false ∧ (decDma dmaDesc).decompress = false ∧
    dmaUnit (decDma dmaDesc) 0 = some ⟨0x40000, 16, 0x50FF0, 16, 0, 16⟩ ∧ dmaRoom dmaing (decDma dmaDesc) = true ∧
    ddrLineWaiting dmaing = false ∧ pairLost dmaing = false ∧ (∀ e ∈ dmaing.works, e.1 ≠ 16 → (e.2.phase ≠ .running ∧ e.2.phase ≠ .fetched) ∨ leAt e.2.desc 0 1 ≠ 0x02) ∧
    (∀ e ∈ dmaing.wins, e.2.kind ≠ 6) ∧ movedAddr (streamGet dmaing 0) 0x50FF0 = 0x50FF0 ∧
    (match dmaResult (decDma dmaDesc) ⟨0x40000, 16, 0x50FF0, 16, 0, 16⟩ (streamReader dmaing 0 16) with
     | .ok b => b.length == 16 | _ => false) = true ∧
    checkRange dmaing (writeBy 0 16) 0x50FF0 16 = none ∧ poisonPartial dmaing 0x50FF0 16 = none ∧
    Memory.wf dmaing.mem = true ∧
    ok (exec (.dma 16 ⟨[], [], 0⟩) dmaing) (fun t => memGetN t.mem 0x50FF0 17 = memGetN dmaing.mem 0x40000 16 ++ [0] ∧
      ok (exec (.dma 16 ⟨[], [], 0⟩) t) fun u => memGetN u.mem 0x50FF0 32 = memGetN dmaing.mem 0x40000 32) = true := by
  decide +kernel

/-- The same transfer to the host, and from it; a session is open. -/
def hostDma (src dst : Nat) : State :=
  { dmaing with works := [(16, mkWork 0 ([2, 0, 0, 0] ++ leBytes 4 7 ++ leBytes 8 0x40000 ++ leBytes 8 0x50000 ++ leBytes 4 32 ++
      leBytes 1 (src + 4 * dst) ++ leBytes 35 0))], rrp := { dmaing.rrp with state := 1 } }

theorem witness_DmaCopiesAndCompletes_host :
    ((workGet (hostDma 0 2) 16).map fun w => ((decDma w.desc).srcSpace, (decDma w.desc).dstSpace, (decDma w.desc).decompress)) =
      some (0, 2, false) ∧ ((workGet (hostDma 2 0) 16).map fun w => ((decDma w.desc).srcSpace, (decDma w.desc).dstSpace)) = some (2, 0) ∧
    (hostDma 2 0).rrp.reads.length + ceilDiv 32 1024 ≤ 64 ∧ openReads (hostDma 2 0) 16 = 0 ∧
    ok (exec (.dma 16 ⟨[], [], 0⟩) (hostDma 0 2)) (fun t => t.rrp.unacked.map (·.type) = [0x06] ∧
      (workGet t 16).map (·.aux) = some 1) = true ∧
    ok (exec (.dma 16 ⟨[], [], 0⟩) (hostDma 2 0)) (fun t => t.rrp.unacked.map (·.type) = [0x04] ∧ t.mem = (hostDma 2 0).mem ∧
      (workGet t 16).map (·.aux) = some 0) = true := by decide +kernel

theorem witness_DmaCopiesAndCompletes_done :
    dmaUnit (decDma dmaDesc) 2 = none ∧
    openReads { ring with works := [(16, { mkWork 0 dmaDesc with phase := .running, aux := 2 })] } 16 = 0 ∧
    ok (exec (.dmaDone 16) { ring with works := [(16, { mkWork 0 dmaDesc with phase := .running, aux := 2 })] })
      (fun t => t.works = [] ∧ memGet t.mem 0x20000 = 7) = true := by decide +kernel

/-! ### Streams -/

def strDesc (op n : Nat) (rest : List Byte) : List Byte := leBytes 1 op ++ [0] ++ leBytes 1 n ++ [0] ++ leBytes 4 1 ++ rest

def emptySched : Sched := { Sched.none with staging := 256 }

/-- A stream in a state, with a descriptor of an opcode started for it. -/
def streamWith (op : Nat) (x : Stream) (rest : List Byte) : State :=
  { streamPut ring 5 x with works := [(16, { mkWork 0 (strDesc op 5 rest) with stream := 5 })] }

def admitted : Stream :=
  { Stream.free with state := .admitted, cls := .deferrable, ring := some ⟨0x30000, 6, 0, 0, []⟩, camMask := 8, sched := some emptySched }

def halted : Stream := { admitted with state := .halted, record := true, pos := [0, 7, 0, 0, 0, 0, 0, 0] }

/-- The admitted stream with a saved record at 0x60000, and a RESUME that names it. -/
def resuming : State :=
  { streamWith 6 admitted (leBytes 8 0x60000 ++ leBytes 48 0) with
    mem := memPutN [] 0x60000 (leBytes 2 5 ++ [9, 1] ++ leBytes 4 7 ++ leBytes 24 0) }

theorem witness_StartAndResumeRunTheStream :
    startedAs (streamWith 5 admitted []) 16 0x05 = some { mkWork 0 (strDesc 5 5 []) with stream := 5 } ∧
    (streamGet (streamWith 5 admitted []) 5).state = .admitted ∧ (streamGet (streamWith 5 admitted []) 5).ring.isSome = true ∧
    (streamGet (streamWith 5 admitted []) 5).rsmpMask = 0 ∧ emptySched.group = 0 ∧ chanUnset (streamWith 5 admitted []) 5 = false ∧
    reserveShort (streamWith 5 admitted []) 5 emptySched = false ∧
    ok (exec (.start 16 ⟨[], [], 0⟩) (streamWith 5 admitted [])) (fun t => (streamGet t 5).state = .running ∧
      (streamGet t 5).camBase = [(3, 0)] ∧ t.works = [] ∧ (pairGet t 0).cqTail = 1) = true ∧
    startedAs (streamWith 6 halted []) 16 0x06 = some { mkWork 0 (strDesc 6 5 []) with stream := 5 } ∧
    (streamGet (streamWith 6 halted []) 5).record = true ∧
    ok (exec (.resume 16 ⟨[], [], 0⟩) (streamWith 6 halted [])) (fun t => (streamGet t 5).state = .running ∧
      (streamGet t 5).band = 7 ∧ t.works = []) = true ∧
    (startedAs resuming 16 0x06).isSome = true ∧ leAt (strDesc 6 5 (leBytes 8 0x60000 ++ leBytes 48 0)) 8 8 = 0x60000 ∧
    (match devRead resuming (readBy 0 16) 0x60000 32 with
     | .ok b => leAt b 0 2 == 5 && bitOf (leAt b 3 1) 0 && leAt b 2 1 == 9 | _ => false) = true ∧
    ok (exec (.resume 16 ⟨[], [], 0⟩) resuming) (fun t => (streamGet t 5).state = .running ∧ (streamGet t 5).band = 7) = true := by decide +kernel

def running : Stream := { admitted with state := .running, band := 4, kept := 4, camMask := 0 }

def faulting : Stream := { running with faulting := some ({ plainFault 0x07 with wid := none }, 900) }

theorem witness_FaultsAndHaltStopAStream :
    (plainFault 0x07).wid = none ∧ (streamGet (streamWith 7 running []) 5).state ∈ [StState.running, .bypass, .shed] ∧
    (streamGet (streamWith 7 running []) 5).faulting = none ∧
    ok (exec (.streamFault 5 (plainFault 0x07)) (streamWith 7 running [])) (fun t => (streamGet t 5).faulting.isSome) = true ∧
    (workGet (streamWith 1 running []) 16).map (fun v => (v.stream, v.pair.isSome)) = some (5, true) ∧
    ok (exec (.streamFault 5 { plainFault 0x07 with wid := some 16 }) (streamWith 1 running []))
      (fun t => (workGet t 16).map (·.phase) = some .waiting ∧ ok (exec (.haltRecord 5) t) fun u =>
        u.works = [] ∧ memGetN u.mem 0x20014 1 = [4] ∧ memGetN u.mem 0x2001A 2 = [0x07, 0xFF]) = true ∧
    startedAs (streamWith 7 running []) 16 0x07 = some { mkWork 0 (strDesc 7 5 []) with stream := 5 } ∧
    ok (exec (.halt 16) (streamWith 7 running [])) (fun t => ok (exec (.haltRecord 5) t) fun u =>
      (streamGet u 5).state = .halted ∧ (streamGet u 5).cause = 0x0A ∧ u.works = []) = true ∧
    (streamGet (streamWith 7 faulting []) 5).faulting = some (plainFault 0x07, 900) ∧ readsOpen (streamWith 7 faulting []) 5 = false ∧
    (plainFault 0x07).cause ≠ 0x0A ∧
    ok (exec (.haltRecord 5) (streamWith 7 faulting [])) (fun t => (streamGet t 5).state = .halted ∧
      (streamGet t 5).pos.getD 0 0 = 0x01070005 ∧ (streamGet t 5).pos.getD 1 0 = 4) = true := by decide +kernel

/-- A CANCEL of a scope, of stream 5 or of tag 1, after a descriptor of stream 5 with that tag. -/
def cancelScope (scope : Nat) : State :=
  { ring with works := [(16, { mkWork 0 (strDesc 1 5 (leBytes 56 0)) with stream := 5 }),
      (17, { mkWork 0 (strDesc 8 5 (leBytes 1 scope ++ leBytes 3 0 ++ leBytes 4 1 ++ leBytes 48 0)) with stream := 5 })] }

def cancelling : State := cancelScope 2

theorem witness_ReleaseAndCancelReturnWork :
    startedAs (streamWith 4 running []) 16 0x04 = some { mkWork 0 (strDesc 4 5 []) with stream := 5 } ∧
    (streamWith 4 running []).works = [(16, { mkWork 0 (strDesc 4 5 []) with stream := 5 })] ∧
    (∀ e ∈ (streamWith 4 running []).pairs, e.1 ≠ 0 → pairEnabled (streamWith 4 running []) e.1 = false) ∧
    groupGet (streamWith 4 running []) (groupOf running) = none ∧ running.faulting = none ∧
    ok (exec (.release 16) (streamWith 4 running [])) (fun t => (streamGet t 5).state = .free ∧ t.works = []) = true ∧
    (streamGet (streamPut ring 5 { running with state := .releasing }) 5).state = .releasing ∧
    ok (exec (.streamDrained 5) (streamPut ring 5 { running with state := .releasing })) (fun t => (streamGet t 5).state = .free) = true ∧
    (startedAs cancelling 17 0x08).isSome = true ∧ leAt (strDesc 8 0 (leBytes 1 2)) 8 1 = 2 ∧
    (leAt (strDesc 1 0 (leBytes 56 0)) 0 1) = 0x01 ∧ leAt (strDesc 1 5 (leBytes 56 0)) 4 4 = 1 ∧
    (workGet (cancelScope 3) 17).map (fun w => (leAt w.desc 8 1, leAt w.desc 12 4)) = some (3, 1) ∧
    ok (exec (.cancel 17) (cancelScope 1)) (fun t => (workGet t 17).map (·.aux) = some 1) = true ∧
    ok (exec (.cancel 17) (cancelScope 3)) (fun t => (workGet t 17).map (·.aux) = some 1) = true ∧
    ok (exec (.cancel 17) cancelling) (fun t => t.works.map (·.1) = [17] ∧ (workGet t 17).map (·.aux) = some 1 ∧
      ok (exec (.cancelDrained 17) t) fun u => u.works = [] ∧ memGetN u.mem 0x20000 6 = [1, 0, 0, 0, 3, 1] ∧
        memGetN u.mem 0x20010 12 = [1, 0, 0, 0, 0, 8, 0x85, 0, 0, 0x80, 1, 0]) = true := by decide +kernel

/-! ### Array operations -/

/-- A tensor record: one row pitch of 64 bytes. -/
def tens (base word h w c exp : Nat) : List Byte :=
  leBytes 5 base ++ leBytes 3 0 ++ leBytes 4 word ++ leBytes 2 h ++ leBytes 2 w ++ leBytes 2 c ++ leBytes 2 0 ++
    leBytes 4 64 ++ leBytes 8 exp ++ leBytes 16 0

/-- An operation block of strides and dilations of 1, without options. -/
def opBytes (op mode kh kw pad aux : Nat) (a b d : List Byte) : List Byte :=
  leBytes 1 op ++ leBytes 2 0 ++ leBytes 1 mode ++ leBytes 1 0 ++ leBytes 1 kh ++ leBytes 1 kw ++ [0x11, 0x11] ++
    (List.replicate 4 (leBytes 1 pad)).flatten ++ leBytes 1 aux ++ leBytes 2 1 ++ leBytes 48 0 ++ a ++ b ++ d ++ leBytes 112 0

def mapBytes (dc : Nat) : List Byte := [1, 0] ++ leBytes 2 1 ++ leBytes 2 1 ++ leBytes 2 dc ++ leBytes 24 0

/-- A running stream of whose work 16 an operation block stands at 0x30000, A's codes 5 7 at 0x40000, B's 3 at 0x42000,
with an exponent block each, D in Leek space. -/
def arrayDev (op mode kw aux aw ac bh bw dh dw dc aword dword : Nat) : State :=
  let blk := opBytes op mode 1 kw 0 aux (tens 0x40000 aword 1 aw ac (if aword < 2 then 0x41000 else 0))
    (if bh = 0 then leBytes 48 0 else tens 0x42000 1 bh bw 1 0x43000)
    (tens (if op = 12 then 0 else 0x4000000000) dword dh dw dc (if dword < 2 then 0x45000 else 0))
  let s := { streamPut ring 5 running with
    works := [(16, { mkWork 0 (strDesc 1 5 (leBytes 8 0x30000 ++ leBytes 8 0x31000 ++ leBytes 40 0)) with stream := 5 })],
    wins := [(3, ⟨0, 256, 0, true, true, true, false, 5, 0, 0, 0, false, 2, false, 0⟩),
             (4, ⟨0x4000000000, 4, 0, true, true, true, false, 5, 0, 0, 0, false, 2, false, 0⟩)] }
  [(0x30000, blk), (0x31000, mapBytes dc), (0x40000, [5, 7]), (0x42000, [3]), (0x41000, [0, BitVec.ofNat 8 aw]),
   (0x43000, [0, BitVec.ofNat 8 (bh * bw)])].foldl (fun s e => { s with mem := memPutN s.mem e.1 e.2 }) s

/-- An operation as its issue leaves it, of first runs on no division, its tables not read. -/
def plainOp (block map : List Byte) : Op :=
  { block := block, map := map, scale := none, stand := [], lut := [], exps := [], ptrs := [], rt := none, band := 0, opIdx := 0xFFFF,
    pass := 0, maps := [], head := none, cross := none, kept := [], reissue := [], fetched := [], refetched := 0, last := false,
    counts := [], adapt := none, waits := [], satLogged := false, asked := false, stopped := [], fromRow := 0 }

/-- The same with the operation issued. -/
def issued (op mode kw aux aw ac bh bw dh dw dc aword dword : Nat) : State :=
  let s := arrayDev op mode kw aux aw ac bh bw dh dw dc aword dword
  match workGet s 16 with
  | some w => { s with works := [(16, { w with phase := .running, op := some (plainOp (memGetN s.mem 0x30000 320) (mapBytes dc)) })] }
  | none => s

/-- The row runs the operation and leaves these first bytes of its output. -/
def arrayRuns (s : State) (c : Instr) (at_ : Nat) (bytes : List Byte) : Bool :=
  ok (exec c s) fun v => memGetN v.mem at_ bytes.length == bytes && (workGet v 16).map (·.phase) == some .computed

/-- The operation of work 16, run on its own, and its writes, are both granted. -/
def granted (s : State) (k : Nat) : Bool :=
  match workGet s 16 with
  | some w => match w.op with
    | some op => (decOp op.block).opcode == k && mayCompute s 16 w && !s.pods.below &&
        (match op.run s 5 16 true with
         | .ok (.done r) => !ddrPending (requestOp s 16 w op r.writes) 5 &&
           (match applyWrites (requestOp s 16 w op r.writes) 5 16 r.writes with | .ok _ => true | _ => false)
         | _ => false)
    | none => false
  | none => false

theorem witness_ArrayOperationsWriteTheirOutputs :
    arrayRow 16 ⟨[], [], 0⟩ 3 = some (.matmul 16 ⟨[], [], 0⟩) ∧ granted (issued 3 0 1 0 1 1 1 1 1 1 1 1 3) 3 = true ∧
    partBase (issued 3 0 1 0 1 1 1 1 1 1 1 1 3) 0 5 = none := by
  decide +kernel

/-- 04 R108: one tiny operation of an opcode; sums of products, largest and copies by hand. -/
theorem test_products :
    arrayRuns (issued 1 0 1 0 1 1 1 1 1 1 1 1 3) (.conv 16 ⟨[], [], 0⟩) 0x4000000000 [15, 0, 0, 0] = true ∧
    arrayRuns (issued 2 0 1 8 1 1 1 1 1 1 1 1 3) (.convDw 16 ⟨[], [], 0⟩) 0x4000000000 [15, 0, 0, 0] = true ∧
    arrayRuns (issued 3 0 1 0 1 1 1 1 1 1 1 1 3) (.matmul 16 ⟨[], [], 0⟩) 0x4000000000 [15, 0, 0, 0] = true := by decide +kernel

theorem test_moves :
    arrayRuns (issued 5 0 1 0x21 2 1 0 0 1 1 2 1 3) (.s2d 16 ⟨[], [], 0⟩) 0x4000000000 [5, 0, 0, 0, 7, 0, 0, 0] = true ∧
    arrayRuns (issued 6 0 1 0x21 1 2 0 0 1 2 1 1 3) (.d2s 16 ⟨[], [], 0⟩) 0x4000000000 [5, 0, 0, 0, 7, 0, 0, 0] = true ∧
    arrayRuns (issued 7 0 2 0 2 1 0 0 1 1 1 1 3) (.pool 16 ⟨[], [], 0⟩) 0x4000000000 [7, 0, 0, 0] = true ∧
    arrayRuns (issued 8 0 1 0 1 2 0 0 1 1 1 1 2) (.argmaxC 16 ⟨[], [], 0⟩) 0x4000000000 [1, 0] = true := by decide +kernel

theorem test_elementwise :
    arrayRuns (issued 9 1 1 0 1 1 1 1 1 1 1 1 3) (.eltw 16 ⟨[], [], 0⟩) 0x4000000000 [8, 0, 0, 0] = true ∧
    arrayRuns (issued 10 0 1 0 2 1 0 0 1 2 1 1 3) (.convert 16 ⟨[], [], 0⟩) 0x4000000000 [5, 0, 0, 0, 7, 0, 0, 0] = true ∧
    arrayRuns (issued 11 0 1 0 2 1 0 0 1 2 1 1 1) (.copy 16 ⟨[], [], 0⟩) 0x4000000000 [5, 7] = true ∧
    arrayRuns (issued 12 0 1 0 1 1 0 0 1 1 1 3 1) (.measure 16 ⟨[], [], 0⟩) 0x45000 [0, 1, 0, 0, 4] = true := by decide +kernel

/-- The copy above with run-time extents h and w from register set 1. -/
def boundDev (h w : Nat) : State :=
  let s := arrayDev 11 0 1 0 2 1 0 0 1 2 1 1 1
  regPut { s with mem := memPutN (memPutN s.mem 0x30002 [2]) 0x30020 [1] } 0x2000110 (2 ^ 16 * w + h)

def shedDev : State :=
  let s := arrayDev 11 0 1 0 2 1 0 0 1 2 1 1 1
  streamPut s 5 { running with state := .shed }

theorem witness_ArrayOpIsIssuedOrHeldOff :
    (match workGet (boundDev 1 1) 16 with
     | some w => leAt w.desc 0 1 == 0x01 && w.pair.isSome && w.phase == .fetched && !w.cancelled && leAt w.desc 8 8 == 0x30000 &&
        leAt w.desc 16 8 == 0x31000 && w.stream == 5
     | none => false) = true ∧ (boundDev 1 1).pods.below = false ∧ (streamGet (boundDev 1 1) 5).state = .running ∧
    (match issueOp (boundDev 1 1) 5 16 Place.ring 0x30000 [0x31000] with | .ready _ => true | _ => false) = true ∧
    issueOp (boundDev 1 3) 5 16 Place.ring 0x30000 [0x31000] = .bound ∧
    issueOp (boundDev 0 2) 5 16 Place.ring 0x30000 [0x31000] = .empty ∧
    issueOp (regPut (boundDev 1 1) 0x2000114 1) 5 16 Place.ring 0x30000 [0x31000] = .err 0x01 ∧
    ok (exec (.arrayOp 16) (boundDev 1 1)) (fun t => (workGet t 16).map (·.phase) = some .running) = true ∧
    ok (exec (.arrayOp 16) (boundDev 1 3)) (fun t => t.works = []) = true ∧
    ok (exec (.arrayOp 16) (boundDev 0 2)) (fun t => t.works = [] ∧ regGet t 0x1001030 = 1) = true ∧
    (streamGet shedDev 5).state = .shed ∧
    ok (exec (.arrayOp 16) shedDev) (fun t => (workGet t 16).map (·.phase) = some .heldOff) = true ∧
    ok (exec (.arrayOp 16) (streamPut shedDev 5 { running with state := .admitted })) (fun t => t.works = []) = true ∧
    ok (exec (.arrayOp 16) { shedDev with pods := { shedDev.pods with below := true } }) (fun t => t.works = []) = true := by
  decide +kernel

/-- A matrix product issued in partition 0 of half 0, which its stream has, its only tile open. -/
def tilesIn (ph : Phase) (kept : List (Nat × Nat)) : State :=
  let s := issued 3 0 1 0 1 1 1 1 1 1 1 1 3
  { s with parts := [(0, ⟨5, 0, 1, 2⟩)], pods := { dev.pods with good := [0], lmap := [0] }, endedOps := [12],
           works := s.works.map fun e => (e.1, { e.2 with phase := ph, op := e.2.op.map fun o => { o with kept := kept } }) }

def tiling : State := tilesIn .computed []

theorem witness_ArrayOperationsWriteTheirOutputs_header :
    granted (tilesIn .running []) 3 = true ∧ partBase (tilesIn .running []) 0 5 = some 0x4000020000 ∧
    ok (exec (.matmul 16 ⟨[], [], 0⟩) (tilesIn .running [])) (fun t => memGetN t.mem 0x4000020300 8 = [0, 0, 0, 0, 0, 0, 0, 0] ∧
      (workGet t 16).map (·.phase) = some .computed) = true := by decide +kernel

def opOf (s : State) : Op := ((workGet s 16).bind (·.op)).getD (plainOp [] [])

def tiled : State :=
  match exec (.tileCompletion 16 0 0) tiling with
  | .next t => t
  | _ => dev

def computed (p : Option Nat) (adapt : Option (Nat × List Byte)) : State :=
  { tiling with works := [(16, { mkWork 0 [] with
      pair := p, stream := 5, phase := .computed,
      op := some { opOf tiled with counts := [9, 2, 3, 4], opIdx := 3, adapt := adapt } })] }

theorem witness_TilesAndOperationsComplete :
    (∃ t ∈ tilesOf tiling (opOf tiling) 0, t.num = 0) ∧ (opOf tiling).kept = [] ∧
    (workGet tiling 16).map (fun w => (unpark tiling 16 w).phase) = some .computed ∧
    partBase tiling (decMap (opOf tiling).map).part 5 = some 0x4000020000 ∧
    ok (exec (.tileCompletion 16 0 0) tiling) (fun t => (opOf t).kept = [(0, 0)] ∧ memGetN t.mem 0x4000020300 8 = [1, 0, 0, 0, 1, 0, 0, 0]) = true ∧
    (opOf tiled).kept = [(0, 0)] ∧ ok (exec (.tileCompletion 16 0 0) tiled) (fun t => regGet t 0x1001034 = 1) = true ∧
    tilesOf tiling (opOf tiling) 5 = [] ∧ ok (exec (.tileCompletion 16 5 0) tiling) (fun t => t.works = tiling.works) = true ∧
    higherReady tiling 5 = false ∧ workGet tiling 12 = none ∧ ok (exec (.tileCompletion 12 0 0) tiling) (fun t => regGet t 0x1001034 = 1) = true ∧
    (workGet (computed (some 0) none) 16).map (fun w => (w.phase, w.pair)) = some (.computed, some 0) := by
  decide +kernel

theorem witness_TilesAndOperationsComplete_ends :
    (opOf (computed (some 0) none)).adapt = none ∧ (opOf (computed (some 0) none)).cross = none ∧
    opKept (computed (some 0) none) (opOf (computed (some 0) none)) = true ∧
    ok (exec (.operationComplete 16) (computed (some 0) none)) (fun t => t.works = [] ∧ regGet t 0x1001010 = 9 ∧ regGet t 0x1001018 = 2 ∧
      memGetN t.mem 0x20004 1 = [0]) = true ∧
    checkRange (computed (some 0) none) (writeBy 5 16) 0x46000 2 = none ∧ Memory.wf (computed (some 0) none).mem = true ∧
    ok (exec (.operationComplete 16) (computed (some 0) (some (0x46000, [1, 2])))) (fun t => memGetN t.mem 0x46000 2 = [1, 2]) = true ∧
    (workGet (computed none none) 16).map (fun w => (w.phase, w.pair)) = some (.computed, none) ∧
    ok (exec (.operationComplete 16) (computed none none)) (fun t => (workGet t 16).map (·.phase) = some .waiting) = true := by
  decide +kernel

/-- The product above before its tiles, and a staging slot in the partition of its stream. -/
def fetching : State := tilesIn .running []

def stagedFor (members : List Nat) : State := { fetching with staging := [⟨5, 16, 0, 0x40000, 0x4000021000, members⟩] }

/-- A deferrable operation runs, or has tiles open, beside one of a stream of a higher priority. -/
def yielding (ph : Phase) : State :=
  let s := tilesIn ph []
  { regPut (streamPut s 6 running) (0x4004 + 6 * 0x40) 0x10000 with
    works := (s.works.map fun e => (e.1, { e.2 with op := e.2.op.map fun o => { o with stopped := [0] } })) ++ [(17, { mkWork 0 [] with stream := 6, phase := .running, op := some (opOf s) })] }

theorem witness_PrefetchCountersAndPreemption :
    (streamGet fetching 5).active = true ∧ (streamGet fetching 5).faulting = none ∧ (streamGet fetching 5).prefStop = false ∧
    (workGet fetching 16).map (fun w => (w.open, w.cancelled, w.op.isSome)) = some (true, false, true) ∧
    fetchUnit (opOf fetching) 0x40001 = (0x40000, none) ∧ multicastGroup fetching (opOf fetching) 0 0x40000 4096 = [0] ∧
    unitRanges fetching (opOf fetching) 0 (0x40000, none) [0] = [(0x40000, 1)] ∧ stillToCome fetching 5 16 [(0x40000, 1)] = false ∧
    stepsAhead fetching (opOf fetching) 0 ≤ prefetchDepth fetching 5 true ∧ slotOk fetching 5 0x4000021000 = true ∧
    ddrWaits fetching 5 0 0x40000 = false ∧ ddrHeldBack fetching 5 = false ∧ Memory.wf fetching.mem = true ∧
    (match fetchUnitBytes (bandReader fetching 5 16 0 0xFFFF) (0x40000, none) [(0x40000, 1)] with
     | .ok b => b == [(0x40000, [5])] | _ => false) = true ∧
    ok (exec (.prefetchBlock 5 16 0x40001 0x4000021000 0 ⟨[], [], 0⟩) fetching) (fun t => t.staging = [⟨5, 16, 0, 0x40000, 0x4000021000, [0]⟩] ∧
      memGetN t.mem 0x4000021000 2 = [5, 0]) = true ∧
    hasRoom (stagedFor [3]) (opOf (stagedFor [3])) ⟨5, 16, 0, 0x40000, 0x4000021000, [3]⟩ 3 = true ∧ ddrPending (stagedFor [3]) 5 = false ∧
    ok (exec (.multicastSlotRelease 0x4000021000 3) (stagedFor [3])) (fun u => u.staging = []) = true ∧
    ok (exec (.multicastSlotRelease 0x4000021000 3) (stagedFor [2, 3])) (fun u => u.staging.map (·.members) = [[2]]) = true := by
  decide +kernel

theorem witness_PrefetchCountersAndPreemption_counters :
    (computed none none).works.map (fun e => (e.2.stream, e.2.pair, e.2.phase)) = [(5, none, .computed)] ∧
    (opOf (computed none none)).band = 0 ∧ (opOf (computed none none)).opIdx = 3 ∧
    (∀ t ∈ tilesOf (computed none none) (opOf (computed none none)) 0, 1 ≤ t.y ∨ (0, t.num) ∈ (opOf (computed none none)).kept) ∧
    partBase (computed none none) (decMap (opOf (computed none none)).map).part 5 = some 0x4000020000 ∧
    counterAfter (0, 3, 1) (counterAt (computed none none) 0 5 0) = true ∧
    ok (exec (.bandCounterWake 5 0 0 3 1) (computed none none)) (fun t => memGetN t.mem 0x4000020000 8 = [0, 0, 0, 0, 3, 0, 1, 0] ∧
      counterAfter (0, 3, 1) (counterAt t 0 5 0) = false ∧ ok (exec (.bandCounterWake 5 0 0 3 1) t) fun u => u.mem = t.mem) = true ∧
    higherReady (yielding .running) 5 = true ∧
    ok (exec (.preempt 16) (yielding .running)) (fun t => (workGet t 16).map (·.phase) = some .yielded) = true ∧
    higherReady (yielding .computed) 5 = true ∧ opKept (yielding .computed) (opOf (yielding .computed)) = false ∧
    (∀ l, l < 96 → allKept (yielding .computed) (opOf (yielding .computed)) l = true ∨ l ∈ (opOf (yielding .computed)).stopped) ∧
    ok (exec (.preempt 16) (yielding .computed)) (fun t => (workGet t 16).map (·.phase) = some .parked) = true := by decide +kernel

/-- A product whose reduction crosses devices, this one its combiner, with the other device's block at 0x4A000. -/
def crossing (ph : Phase) : State :=
  let s := issued 3 0 1 0 1 1 1 1 1 1 1 1 3
  { s with works := s.works.map fun e => (e.1, { e.2 with phase := ph, op := e.2.op.map fun o =>
      { o with cross := some ⟨true, 0, 0, 0, 1, 0x49000, 0, [0x4A000]⟩ } }) }

theorem witness_CombinerSumsExactly :
    (match workGet (crossing .running) 16 with
     | some w => mayCompute (crossing .running) 16 w && (match (opOf (crossing .running)).run (crossing .running) 5 16 true with
        | .ok (.partials ws _) =>
          let s := requestOp (crossing .running) 16 w (opOf (crossing .running)) ws
          !ddrPending s 5 && (match applyWrites s 5 16 ws with | .ok _ => true | _ => false)
        | _ => false)
     | none => false) = true ∧ arrayRow 16 ⟨[], [], 0⟩ 3 = some (.matmul 16 ⟨[], [], 0⟩) ∧
    ok (exec (.matmul 16 ⟨[], [], 0⟩) (crossing .running)) (fun t => (workGet t 16).map (·.phase) = some .partials ∧
      (streamGet t 5).active ∧ (t.works.find? fun k => k.2.combines 5 (opOf t).band (opOf t).opIdx).map (·.1) = some 16 ∧
      ok (exec (.partialCombine 5 (opOf t).band (opOf t).opIdx ⟨[], [], 0⟩) t) fun u =>
        memGetN u.mem 0x4000000000 4 = [15, 0, 0, 0] ∧ (workGet u 16).map (·.phase) = some .computed) = true := by decide +kernel

/-- A stream whose schedule's one operation stands in memory, in a state. -/
def bandingAs (x : Stream) : State :=
  let s := streamPut (arrayDev 3 0 1 0 1 1 1 1 1 1 1 1 3) 5 { x with band := 4, kept := 4 }
  { s with works := [], parts := [(0, ⟨5, 0, 1, 2⟩)], nextWid := 20 }

def banding : State := bandingAs running

def schedOp : SchedOp := ⟨0x30000, [0x31000], none, none, [], []⟩

/-- Its operation has completed. -/
def keeping : State :=
  let s := streamPut ring 5 { running with band := 5, kept := 4, empties := [4] }
  { s with slots := [(0, 20)], works := [(20, { mkWork 0 [] with
      pair := none, stream := 5, slot := some 0, phase := .waiting, op := some { plainOp [] [] with band := 4 } })] }

theorem witness_BandsAreIssuedAndKept :
    (streamGet banding 5).state = .running ∧ (streamGet banding 5).cls = .deferrable ∧ (streamGet banding 5).faulting = none ∧
    spools (streamGet banding 5) = false ∧ bandStored banding 5 = true ∧ banding.shadow = [] ∧ banding.pods.below = false ∧
    (streamGet banding 5).wants = none ∧ (streamGet banding 5).spilled = [] ∧ slotsFor banding 5 1 = true ∧ tget banding.slots 0 = none ∧ bandWorks banding 5 4 = [] ∧
    (match issueOp banding 5 20 ⟨4, 0, schedPass schedOp, none, none, []⟩ 0x30000 [0x31000] with | .ready _ => true | _ => false) = true ∧
    ok (exec (.bandReady 5 [schedOp] []) banding) (fun t => (streamGet t 5).band = 5 ∧
      (workGet t 20).map (·.phase) = some .running ∧ t.nextWid = 21) = true ∧
    groupGet banding (groupOf (streamGet banding 5)) = none ∧
    ok (exec (.bandReady 5 [schedOp] []) (bandingAs { running with state := .bypass, cls := .lineLocked, step := 4 }))
      (fun t => (streamGet t 5).band = 5 ∧ 4 ∈ (streamGet t 5).bypassed ∧ (streamGet t 5).state = .bypass) = true ∧
    ok (exec (.bandReady 5 [schedOp] []) (bandingAs { running with cls := .lineLocked, step := 4 }))
      (fun t => (streamGet t 5).state = .bypass ∧ t.works = []) = true := by decide +kernel

theorem witness_BandsAreIssuedAndKept_kept :
    (streamGet keeping 5).active = true ∧ (streamGet keeping 5).stalled = false ∧ (streamGet keeping 5).kept < (streamGet keeping 5).band ∧
    critOpen keeping 5 4 = false ∧ unsent keeping 5 = false ∧ (streamGet keeping 5).critDone = [] ∧
    (streamGet keeping 5).bypassed = [] ∧ (streamGet keeping 5).camMask = 0 ∧ groupGet keeping (groupOf (streamGet keeping 5)) = none ∧
    (bandWorks keeping 5 4).map (·.1) = [20] ∧ Tab.wf keeping.works = true ∧
    ok (exec (.bandKept 5 []) keeping) (fun t => (streamGet t 5).kept = 5 ∧ t.works = [] ∧ t.slots = [] ∧ regGet t 0x1001030 = 1) = true := by
  decide +kernel

def noErrs : MemErrs := ⟨[], [], 0⟩

/-- The operation of critical head 9 in a run, with one output element. -/
def critOp (pass base : Nat) : Op :=
  { plainOp (opBytes 3 0 1 1 0 0 (tens 0x40000 1 1 1 1 0x41000) (tens 0x42000 1 1 1 1 0x43000) (tens base 3 1 1 1 0)) (mapBytes 1) with
    band := 4, opIdx := 3, head := some 9, pass := pass }

def critWork (pass base : Nat) : Work :=
  { mkWork 0 [] with pair := none, stream := 5, phase := .waiting, op := some (critOp pass base) }

/-- The first two runs have written `a` and `b` at 0x48000 and 0x48100, the third, where it ran, `c` at 0x48200. -/
def critical (a b c : List Byte) : State :=
  let s := bandingAs running
  { streamPut { s with mem := memPutN (memPutN (memPutN s.mem 0x48000 a) 0x48100 b) 0x48200 c } 5 { running with band := 5, kept := 4, ring := none } with
    works := [(16, critWork 0 0x48000), (17, critWork 1 0x48100)] ++ (if c.isEmpty then [] else [(18, critWork 2 0x48200)]),
    pods := { podDev.pods with below := false } }

def critTile0 : Tile := ((critOp 0 0x48000).tiles (critical [] [] [])).headD ⟨0, 0, 0, 0, 0, 0, 0, 0, 0, 0⟩

theorem witness_CriticalHeadsAreComparedAndVoted_compare :
    (let s := critical [1, 0, 0, 0] [1, 0, 0, 0] []
     critGoes s 5 = true ∧ headRan s 5 4 9 0 true = true ∧ headRan s 5 4 9 1 true = true ∧ headWorks s 5 4 9 2 = [] ∧
     critEnded s 5 9 = false ∧ slotsFor s 5 0 = true ∧ finalOp s 5 9 0 = some (critOp 0 0x48000) ∧ finalOp s 5 9 1 = some (critOp 1 0x48100) ∧
     (match critDiff s 5 (critOp 0 0x48000) (critOp 1 0x48100) with | .ok l => l.isEmpty | _ => false) = true ∧
     ok (exec (.criticalCompare 5 9 ⟨[[3]], [[3]], [], noErrs⟩) s) (fun t =>
       (streamGet t 5).critDone = [⟨9, 0, 0, 0, 1, 0x48000, 0xFFFFFFFF⟩]) = true ∧
     ok (exec (.criticalCompare 5 9 ⟨[[3]], [[4]], [schedOp], noErrs⟩) s) (fun t => (streamGet t 5).critDone = [] ∧ t.nextWid = 21) = true) ∧
    (let s := critical [1, 0, 0, 0] [2, 0, 0, 0] []
     (match critDiff s 5 (critOp 0 0x48000) (critOp 1 0x48100) with | .ok l => l.length == 1 | _ => false) = true ∧
     slotsFor s 5 1 = true ∧ tget s.slots 0 = none ∧ (streamGet s 5).faulting = none ∧
     ((headWorks s 5 4 9 1).map fun e => e.2.opIdx) = [3] ∧
     (match issueOp s 5 20 ⟨4, 3, 2, some 9, none, []⟩ 0x30000 [0x31000] with | .ready _ => true | _ => false) = true ∧
     ok (exec (.criticalCompare 5 9 ⟨[], [], [schedOp], noErrs⟩) s) (fun t => (workGet t 20).map (fun w => w.op.map fun o => (o.pass, o.head)) =
       some (some (2, some 9))) = true) := by decide +kernel

/-- The outcomes of the tiles of the three runs. -/
def votes (s : State) : List CritTile :=
  match critTiles s 5 (critOp 0 0x48000) (critOp 1 0x48100) (critOp 2 0x48200) with
  | .ok l => l.map (·.2)
  | _ => []

theorem witness_CriticalHeadsAreComparedAndVoted_vote :
    (let s := critical [1, 0, 0, 0] [2, 0, 0, 0] [1, 0, 0, 0]
     headRan s 5 4 9 2 true = true ∧ finalOp s 5 9 2 = some (critOp 2 0x48200) ∧ votes s = [.odd 1] ∧
     tilePod s (critOp 1 0x48100) critTile0 = 48 ∧
     ok (exec (.criticalThirdRun 5 9 ⟨[], [], [], noErrs⟩) s) (fun t =>
       (streamGet t 5).critDone = [⟨9, 1, 0, 0, 1, 0x48000, 0xFFFFFFFF⟩] ∧ t.pods.lmap[48]? = some 96) = true) ∧
    (let s := critical [2, 0, 0, 0] [1, 0, 0, 0] [1, 0, 0, 0]
     votes s = [.odd 0] ∧ ok (exec (.criticalThirdRun 5 9 ⟨[], [], [], noErrs⟩) s) (fun t =>
       (streamGet t 5).critDone = [⟨9, 1, 1, 0, 1, 0x48100, 0xFFFFFFFF⟩] ∧ t.pods.lmap[0]? = some 96) = true) ∧
    (let s := critical [1, 0, 0, 0] [1, 0, 0, 0] [1, 0, 0, 0]
     votes s = [.same] ∧ critOf [[(1 : Byte)]] [] [[1]] ≠ .apart ∧
     ok (exec (.criticalThirdRun 5 9 ⟨[[1]], [], [[1]], noErrs⟩) s) (fun t => ((streamGet t 5).critDone.map (·.outcome)) = [1] ∧
       t.pods.lmap = s.pods.lmap) = true) ∧
    (let s := critical [1, 0, 0, 0] [2, 0, 0, 0] [3, 0, 0, 0]
     votes s = [.apart] ∧
     ok (exec (.criticalThirdRun 5 9 ⟨[], [], [], noErrs⟩) s) (fun t => (streamGet t 5).critDone = [⟨9, 2, 0, 1, 1, 0x48000, 0⟩] ∧
       t.pods.lmap = s.pods.lmap ∧ regGet (keepCrit t 5 4) 0x100103C = 0x10000 ∧ regGet (keepCrit t 5 4) 0x1001038 = 1) = true) ∧
    (streamGet (critical [] [] []) 5).ring = none := by decide +kernel

/-! ### Cameras and odometry -/

/-- Port 3 enabled for 3 pixels of 8 bits, 4 lanes' code 1 and rate 2, not yet up. -/
def camOff : State := regPut ring (0x6001000 + 3 * 0x40) (2 ^ 31 + 2 ^ 28 + 2 * 2 ^ 24 + 3)

def place3 : CamPlace := ⟨3, 0x40000, 0x41000, 0x42000, 4, 64, 32, 0⟩

/-- The port up and held by a running stream whose schedule places its rings. -/
def camOn : State :=
  { streamPut (withRegs camOff [(0x6001004 + 3 * 0x40, 2 ^ 31)]) 5 { running with
      camMask := 8, camBase := [(3, 0)], sched := some { emptySched with cams := [place3] } } with
    wins := [(3, ⟨0, 256, 0, true, true, true, false, 5, 0, 0, 0, false, 2, false, 0⟩)] }

def hdr3 : LineHdr := ⟨999000, 7, 8, false, false, false, 0⟩

def lineRec (q : Nat) : LineRec := ⟨q, 100, false, false, false, 7, false, false, 0, none, true⟩

def camHdr (lines : List LineRec) : State :=
  camPut camOn 3 { Camera.reset with hdr := some hdr3, lines := lines, seq := 9, lastPixels := some [1, 2, 3] }

theorem witness_LinesAreStoredWithTheirHeaders :
    camUp camOn 3 = true ∧ (camGet camOn 3).lines = [] ∧
    (let s := camPut camOn 3 { Camera.reset with image := some (7, 500, 5), trigs := [77] }
     ok (exec (.lineHeader 3 7 8 false true true) s) (fun t => (camGet t 3).hdr = some ⟨1000000, 7, 8, false, true, true, 77⟩ ∧
       (camGet t 3).trigs = []) = true ∧
     ok (exec (.lineHeader 3 7 9 true false false) s) (fun t => (camGet t 3).hdr.map (·.time) = some 500) = true ∧
     ok (exec (.lineHeader 3 7 5 true false false) s) (fun t => (camGet t 3).hdr.map (·.time) = some 1000000) = true ∧
     ok (exec (.lineHeader 3 8 0 true false false) s) (fun t => (camGet t 3).image = some (8, 1000000, 0)) = true) ∧
    (camGet (camHdr []) 3).hdr = some hdr3 ∧ camPlace (streamGet (camHdr []) (camHolder (camHdr []) 3)) 3 = some place3 ∧
    camUp (camHdr []) 3 = true ∧ (streamGet (camHdr []) (camHolder (camHdr []) 3)).ingests = true ∧
    rowFree place3 (camGet (camHdr []) 3) = true ∧
    (match putAll (camHdr []) 5 (lineWrites place3 0 9 3 [10, 20, 30] (lineHeaderBytes hdr3 9 3 false false)) with
     | .ok _ => true | _ => false) = true ∧
    ok (exec (.lineArrival 3 [10, 20, 30] false) (camHdr [])) (fun t => (camGet t 3).seq = 10 ∧
      memGetN t.mem 0x40040 3 = [138, 148, 158] ∧ (camGet t 3).lines.map (·.seq) = [9]) = true ∧
    ok (exec (.lineArrival 3 [10] false) (camHdr [])) (fun t => (camGet t 3).lines.map (·.replaced) = [true] ∧
      memGetN t.mem 0x40040 3 = [129, 130, 131] ∧ regGet t (0x6001010 + 3 * 0x40) = 1) = true ∧
    rowFree place3 (camGet (camHdr [lineRec 8, lineRec 7, lineRec 6, lineRec 5]) 3) = false ∧
    rowFree place3 (camGet (camHdr [lineRec 5]) 3) = false ∧
    ok (exec (.lineArrival 3 [10, 20, 30] false) (camHdr [lineRec 8, lineRec 7, lineRec 6, lineRec 5]))
      (fun t => regGet t (0x600100C + 3 * 0x40) = 1 ∧ (camGet t 3).missed) = true := by decide +kernel

def camDesc (cmd : Nat) : List Byte :=
  leBytes 1 9 ++ [0] ++ leBytes 1 5 ++ [0] ++ leBytes 4 1 ++ leBytes 1 3 ++ leBytes 1 cmd ++ leBytes 2 4 ++ leBytes 4 0x10 ++ leBytes 8 0x43000 ++
    leBytes 40 0

def camWork (cmd : Nat) (ph : Phase) : State :=
  { camOn with works := [(16, { mkWork 0 (camDesc cmd) with stream := 5, phase := ph })], time := 3000000000, elapsed := 3000000000 }

theorem witness_CameraLinksControlAndEvents_links :
    camEnabled camOff 3 = true ∧ camUp camOff 3 = false ∧ f (camCfg camOff 3) 29 28 = 1 ∧ 2 ≤ f (camCfg camOff 3) 27 24 ∧
    ok (exec (.cameraLinkUp 3 1 2) camOff) (fun t => camUp t 3 = true ∧ regGet t (0x6001004 + 3 * 0x40) = 0x92000000 ∧
      ok (exec (.cameraHeartbeat 3) t) fun u => bitOf (camStatus u 3) 30 = true) = true ∧
    (let s := camPut { camOn with elapsed := 300000000 } 3 { Camera.reset with heartbeat := some 100000000 }
     camUp s 3 = true ∧ ok (exec (.cameraLoss 3 false) s) (fun t => (camGet t 3).lost ∧ t.log.map (·.code) = [0x020B]) = true) ∧
    (let s := { regPut camOn 0x5000008 0x50000 with
        wins := [(3, ⟨0, 256, 0, true, true, true, false, 0, 0, 0, 0, false, 2, false, 0⟩)] }
     (match devWrite s (writeBy 0 0) (reg64 s 0x5000008 + (3 * 16 + 0) * 256) ([0, 0, 0, 0, 2, 0, 0, 0] ++ [7, 8]) with
      | .ok _ => true | _ => false) = true ∧
     ok (exec (.cameraEventPacket 3 [7, 8]) s) (fun t => memGetN t.mem 0x53004 6 = [2, 0, 0, 0, 7, 8] ∧ (camGet t 3).evSeq = 1) = true) := by
  decide +kernel

theorem witness_CameraLinksControlAndEvents_control :
    (workGet (camWork 1 .fetched) 16).map (fun w => (w.pair.isSome, leAt w.desc 0 1, w.phase, w.cancelled, w.stream)) =
      some (true, 9, .fetched, false, 5) ∧
    camHolder (camWork 1 .fetched) 3 = 5 ∧
    (match devRead (camWork 1 .fetched) (readBy 5 16) 0x43000 4 with | .ok _ => true | _ => false) = true ∧
    ok (exec (.camCtrl 16) (camWork 1 .fetched)) (fun t => t.out = [.camera 3 1 0x10 4 [0, 0, 0, 0]] ∧
      (workGet t 16).map (·.phase) = some .waiting) = true ∧
    ok (exec (.camCtrl 16) (camWork 0 .fetched)) (fun t => t.out = [.camera 3 0 0x10 4 []]) = true ∧
    (let s := streamPut (camWork 1 .fetched) 5 { running with camMask := 0 }
     camHolder s 3 = 0 ∧ ok (exec (.camCtrl 16) s) (fun t => t.works = []) = true) ∧
    (camPending (camWork 0 .waiting) 16).isSome = true ∧
    ok (exec (.cameraAck 16 0 [1, 2, 3]) (camWork 0 .waiting)) (fun t => t.works = [] ∧ memGetN t.mem 0x43000 3 = [1, 2, 3]) = true ∧
    ok (exec (.cameraAck 16 0x40 []) (camWork 1 .waiting)) (fun t => t.works = []) = true ∧
    1000000000 ≤ (camWork 0 .waiting).elapsed - 0 ∧
    ok (exec (.camCtrlTimeout 16) (camWork 0 .waiting)) (fun t => t.works = []) = true := by decide +kernel

/-- Encoder 0 counts up and drives the odometry at 1/16 mm per edge, with a correction of 1,000 steps left at 10 in 1,000. -/
def turning : State :=
  { withRegs dev [(0x7000000, 2 ^ 31), (0x7000004, 2 ^ 20), (0x7000040, 10 * 2 ^ 8)] with
    odo := { State.reset.odo with remaining := 1000000 } }

def mode3 : State :=
  { withRegs dev [(0x7000000, 2 ^ 31), (0x7000004, 2 ^ 20), (0x7000040, 3)] with
    elapsed := 2000000000, odo := { State.reset.odo with using1 := true, diffAt := some 1000000000 } }

def chan0 : Chan :=
  { motion := 1, back := false, extreme := 900, next := some 500, lineBack := false, legFrom := 0, extremeAt := 0, legs := [], stopAt := none, lastMove := 0,
    lastMovePos := 0, lines := [], coef := [], outSeq := 0, turn := false, afterStop := false, dirLast := false, held := [],
    released := 0, trigLast := none, trigHeld := none, latches := [], lastOut := 0, lastFrame := [] }

/-- A channel of port 3 with a trigger held back. -/
def holding : State :=
  { streamPut (regPut ring 0x7001000 (3 * 2 ^ 24)) 5 { running with rsmpMask := 1, maxRate := 1000 } with
    chans := [(0, { chan0 with next := none, extreme := 0, trigLast := some 0, trigHeld := some 77 })] }

theorem witness_OdometryFollowsEncodersAndMessages_edges :
    bitOf (encCfg turning 0) 31 = true ∧ odoMode turning = 0 ∧ turning.chans = [] ∧ bitOf (encCfg turning 0) 30 = false ∧
    ok (exec (.encoderEdge 0 .fwd) turning) (fun t => (encGet t 0).count = 1 ∧ t.odo.pos = 2 ^ 20 + 10485 ∧
      t.odo.remaining = 1000000 - 10485) = true ∧
    ok (exec (.encoderEdge 0 .bwd) turning) (fun t => t.odo.lastDist = -(2 ^ 20)) = true ∧
    ok (exec (.encoderEdge 0 .both) turning) (fun t => (encGet t 0).count = 0 ∧ regGet t 0x7000008 = 1) = true ∧
    (let m := { mode3 with odo := { mode3.odo with using1 := false } }
     bitOf (encCfg m 0) 31 = true ∧ m.odo.using1 = false ∧ ok (exec (.encoderEdge 0 .both) m) (fun t => t.odo.using1 = true ∧
       t.log.map (fun e => (e.code, e.arg)) = [(0x020D, 1)]) = true) ∧
    odoMode mode3 = 3 ∧ ok (exec .odoSourceReturn mode3) (fun t => t.odo.using1 = false ∧ t.log.map (·.code) = [0x020D]) = true ∧
    (tget holding.chans 0).bind (·.trigHeld) = some 77 ∧ trigAllowed holding 0 = true ∧
    ok (exec (.triggerDeferred 0) holding) (fun t => t.out = [.trigger 3 77] ∧ (camGet t 3).trigs = [77]) = true := by decide +kernel

/-- A position message of sequence number 4. -/
def posMsg (time pos : Nat) : List Byte := leBytes 2 1 ++ leBytes 2 0 ++ leBytes 4 4 ++ leBytes 8 time ++ leBytes 6 pos ++ [1, 0] ++ leBytes 8 0

def listening : State :=
  { withRegs dev [(0x7000044, 2 ^ 16), (0x7000040, 2 ^ 16)] with
    time := 50000000, odo := { State.reset.odo with pending := [(40000000, 0x20000)] } }

theorem witness_OdometryFollowsEncodersAndMessages_messages :
    posMsgTaken listening (posMsg 40000000 5) = true ∧
    ok (exec (.positionMessage (posMsg 40000000 5)) listening) (fun t => t.odo.pending = [(40000000, 0x20000), (40000000, 5)]) = true ∧
    ok (exec (.positionMessage (posMsg 39999999 5)) listening) (fun t => regGet t 0x7000058 = 0x10000) = true ∧
    40000000 + 10000000 ≤ listening.time ∧ f (regGet listening 0x7000040) 31 16 * 65536 = 65536 ∧
    (serialDiff 48 0x20000 (odoAt listening 40000000)).natAbs = 131072 ∧
    ok (exec .correctionStart listening) (fun t => t.odo.remaining = 0x2000000 ∧ t.log.map (·.code) = [0x020E] ∧
      regGet t 0x7000058 = 1) = true ∧
    (serialDiff 48 0x8000 (odoAt { listening with odo := { listening.odo with pending := [(40000000, 0x8000)] } } 40000000)).natAbs ≤ 65536 := by
  decide +kernel

/-! ### Resampler channels -/

/-- Lines 9 to 0, one of each image, 100 apart. -/
def posLines : List PosLine := (List.range 10).reverse.map fun i => ⟨{ lineRec i with image := i }, 100 * i⟩

/-- A channel of port 3 with a pitch of 100, held by a stream in bypass; 16-bit pixels, 16-bit results. -/
def resampling (cfg : Nat) (x : Chan) : State :=
  let sch := { emptySched with
    cams := [{ place3 with ringRows := 16 }], chans := [⟨0, 0x49000, leBytes 48 0, tens 0x48000 2 4 3 1 0⟩] }
  { streamPut (withRegs camOn [(0x6001000 + 3 * 0x40, 2 ^ 31 + 2 ^ 20 + 3), (0x7001000, cfg + 3 * 2 ^ 24 + 5), (0x7001004, 100), (0x7001020, 2)])
      5 { running with state := .bypass, camMask := 8, camBase := [(3, 0)], rsmpMask := 1, reserve := 100,
                       sched := some sch } with
    wins := [(3, ⟨0, 256, 0, true, true, true, false, 5, 0, 0, 0, false, 2, false, 0⟩)],
    chans := [(0, x)],
    odo := { State.reset.odo with lastSeq := some 0, pos := 500 * 256 } }

/-- Frames of one row for the area mode. -/
def frameLines : List PosLine := posLines.map fun p =>
  { p with line := { p.line with area := true, frame := some p.line.seq } }

def lastRow : FrameRow := ⟨[], 0, 0, 0, 0, 0, 0⟩

def oneLine : State := camPut (resampling 0 { chan0 with next := none }) 3 { Camera.reset with lines := [lineRec 0] }

theorem witness_OutputLinesFollowTheTrack_lines :
    (camGet oneLine (f (chanCfg oneLine 0) 27 24)).lines = [lineRec 0] ∧ (lineRec 0).time + 100000 < oneLine.time ∧
    ok (exec (.linePositionEval 0) oneLine) (fun t => (tget t.chans 0).map (fun x => (x.lines.length, x.next)) = some (1, some 500)) = true ∧
    bitOf (chanCfg (resampling 0 { chan0 with lines := posLines }) 0) 31 = false ∧
    chanHolder (resampling 0 { chan0 with lines := posLines }) 0 = 5 ∧
    (streamGet (resampling 0 { chan0 with lines := posLines }) 5).outputs = true ∧
    slotsFor (resampling 0 { chan0 with lines := posLines }) 5 1 = true ∧
    (match planLine (resampling 0 { chan0 with lines := posLines }) 0 5 .normal with
     | some (g, p) =>
       let s := resampling 0 { chan0 with lines := posLines }
       let r := writeLine s 0 5 g (passTime s 0 false g) p
       g == 500 && p.i == 5 && r.1.isSome && (tget r.2.chans 0).isSome
     | none => false) = true ∧
    ok (exec (.outputLine 0) (resampling 0 { chan0 with lines := posLines })) (fun t =>
      (tget t.chans 0).map (fun x => (x.next, x.outSeq, x.held.length)) = some (some 600, 1, 1)) = true ∧
    (tget (nextFrame (resampling 0 chan0) 0 500 []).chans 0).map (·.next) = some (some 600) ∧
    (tget (nextFrame (resampling (2 ^ 29) { chan0 with latches := [7, 8] }) 0 500 []).chans 0).map (·.latches) = some [8] := by
  decide +kernel

theorem witness_OutputLinesFollowTheTrack_frames :
    f (chanCfg (resampling 0 chan0) 0) 15 0 * 1000000 ≤ 5000000 - chan0.lastMove ∧
    ok (exec (.standstill 0) { resampling 0 chan0 with elapsed := 5000000 }) (fun t =>
      (tget t.chans 0).map (fun x => (x.motion, x.stopAt)) = some (3, some 900)) = true ∧
    (let s := resampling (2 ^ 31 + 2 ^ 29) { chan0 with motion := 3, latches := [700], lastFrame := [lastRow] }
     bitOf (chanCfg s 0) 31 = true ∧ f (chanCfg s 0) 30 29 ≠ 0 ∧ (chanPlace (streamGet s (chanHolder s 0)) 0).isSome = true ∧
     (streamGet s (chanHolder s 0)).outputs = true ∧
     slotsFor s (chanHolder s 0) 1 = true ∧
     ok (exec (.areaFrame 0) s) (fun t => (tget t.chans 0).map (fun y => (y.latches, y.outSeq)) = some ([], 1)) = true) ∧
    (let s := resampling (2 ^ 31 + 2 ^ 29) { chan0 with latches := [700], lastFrame := [lastRow] }
     let s := { s with odo := { s.odo with lastSeq := none } }
     hasOdo s = false ∧ ok (exec (.areaFrame 0) s) (fun t => (tget t.chans 0).map (fun y => (y.latches, y.outSeq)) = some ([], 1)) = true) ∧
    (let x := { chan0 with lines := frameLines.drop 4 }
     let s := resampling (2 ^ 31) x
     f (chanCfg s 0) 30 29 = 0 ∧ hasOdo s = true ∧ frameOwed s 0 x = some (500, 100) ∧
     (match makeFrame s 0 false x 500 100 with | some u => (tget u.chans 0).isSome | none => false) = true ∧
     ok (exec (.areaFrame 0) s) (fun t => (tget t.chans 0).map (·.next) = some (some 600)) = true) ∧
    (let s := resampling 0 { chan0 with held := [⟨0, 500, 0, 900000, 0⟩] }
     900000 + (streamGet s (chanHolder s 0)).reserve * 1000 ≤ s.time ∧
     ok (exec (.lineReserveRelease 0) s) (fun t => (tget t.chans 0).map (fun x => (x.held.length, x.released)) = some (0, 1)) = true) := by
  decide +kernel

/-! ### Degradation and association -/

/-- The channel's stream is line-locked at a step, with a reserve of 100 µs and one line held that is due in `due` ns. -/
def degrading (step due : Nat) (st : StState := .running) (ls : List PosLine := posLines) : State :=
  let s := resampling 0 { chan0 with lines := ls, held := [⟨0, 500, 0, 1000000, 1000000 + due⟩] }
  streamPut s 5 { streamGet s 5 with cls := .lineLocked, state := st, step := step, shedMargin := 60, highSince := some 0 }

theorem witness_DegradationTakesItsStepsInOrder_steps :
    inOrder (streamGet (degrading 1 70000) 5) = true ∧ lowMargin (degrading 1 70000) 5 75 = true ∧
    ok (exec (.degradeStep 5) (degrading 1 70000)) (fun t => (streamGet t 5).step = 2) = true ∧
    lowMargin (degrading 2 49000) 5 50 = true ∧ (govCap (degrading 2 49000)).1 ≤ arrayMv (regPut (degrading 2 49000) 0xD000034 850) ∧
    deferrables (degrading 2 49000) .running = [] ∧
    ok (exec (.degradeStep 5) (regPut (degrading 2 49000) 0xD000034 850)) (fun t => (streamGet t 5).step = 3) = true ∧
    lowMargin (degrading 3 24000) 5 25 = true ∧
    ok (exec (.degradeStep 5) (degrading 3 24000)) (fun t => (streamGet t 5).step = 4) = true ∧
    lowMargin (degrading 1 75000) 5 75 = false ∧ lowMargin (degrading 1 75000) 5 50 = false ∧ lowMargin (degrading 1 75000) 5 25 = false ∧
    ok (exec (.degradeStep 5) (degrading 1 75000)) (fun t => (streamGet t 5).step = 1) = true := by decide +kernel

theorem witness_DegradationTakesItsStepsInOrder_shed :
    (let s := streamPut (degrading 3 49000) 6 { Stream.free with state := .running, cls := .deferrable }
     (lineLockedIds s).filter (shedDue s) = [5] ∧ deferrables s .running = [6] ∧ lowestRank s (deferrables s .running) = some 6 ∧
     s.hold3.undone = none ∧
     ok (exec .shedStep s) (fun t => (streamGet t 6).state = .shed ∧ (streamGet t 5).shedMargin = 49 ∧ t.hold3 = s.hold3) = true ∧
     (lineLockedIds (regPut { s with hold3 := ⟨1, 0, some 900000⟩ } 0xD000034 850)).filter (shedDue (regPut { s with hold3 := ⟨1, 0, some 900000⟩ } 0xD000034 850)) = [5] ∧
     ok (exec .shedStep (regPut { s with hold3 := ⟨1, 0, some 900000⟩ } 0xD000034 850)) (fun t => (streamGet t 6).state = .shed ∧ (streamGet t 5).highSince = none ∧
       t.hold3.undone = none) = true) ∧
    (let s := regPut (streamPut (degrading 2 49000) 6 { Stream.free with state := .running, cls := .deferrable }) 0xD000034 850
     shedPaced s 5 = true ∧ ok (exec (.degradeStep 5) s) (fun t => (streamGet t 5).step = 3 ∧ (streamGet t 6).state = .shed) = true) ∧
    (let s := degrading 1 49000
     (streamGet s (chanHolder s 0)).cls = .lineLocked ∧ lineReady s 0 (chanHolder s 0) = false ∧
     (match nextDue s 0 (chanHolder s 0) with | some due => decide (due ≤ s.time + 50000) | none => false) = true ∧
     inOrder (streamGet s (chanHolder s 0)) = true ∧ (streamGet s (chanHolder s 0)).outputs = true ∧
     ok (exec (.lineDueDeadline 0) s) (fun t => (streamGet t 5).step = 4 ∧ (tget t.chans 0).map (·.outSeq) = some 1) = true) ∧
    (let s := degrading 1 49000 .bypass (posLines.drop 1)
     (streamGet s (chanHolder s 0)).outputs = true ∧ (streamGet s (chanHolder s 0)).cls = .lineLocked ∧ lineReady s 0 (chanHolder s 0) = false ∧
     (match nextDue s 0 (chanHolder s 0) with | some due => decide (due ≤ s.time + 50000) | none => false) = true ∧
     inOrder (streamGet s (chanHolder s 0)) = false ∧
     ok (exec (.lineDueDeadline 0) s) (fun t => (streamGet t 5).step = 1 ∧ (tget t.chans 0).map (·.outSeq) = some 1) = true) := by
  decide +kernel

theorem witness_DegradationTakesItsStepsInOrder_return :
    (let s := degrading 4 90000
     (streamGet s 5).outputs = true ∧ (streamGet s 5).bypass47 = false ∧ lowMargin s 5 90 = false ∧
     holdEnded s (streamGet s 5) (streamGet s 5).hold4 = true ∧
     ok (exec (.returnStep 5) s) (fun t => (streamGet t 5).step = 3) = true) ∧
    (let s := streamPut (degrading 3 90000) 6 { Stream.free with state := .shed, cls := .deferrable }
     restorable s 5 = true ∧ deferrables s .shed = [6] ∧ 5 ∈ lineLockedIds s ∧
     ok (exec (.returnStep 5) s) (fun t => (streamGet t 6).state = .running ∧ (streamGet t 5).step = 2) = true) ∧
    (let s := degrading 2 90000
     lowMargin s 5 90 = false ∧ deferrables s .shed = [] ∧ ok (exec (.returnStep 5) s) (fun t => (streamGet t 5).step = 0) = true) ∧
    (let s := streamPut ring 6 { Stream.free with state := .shed, cls := .deferrable }
     deferrables s .shed = [6] ∧ lineLockedIds s = [] ∧ ok (exec (.returnStep 6) s) (fun t => (streamGet t 6).state = .running) = true) := by
  decide +kernel

/-- A group of nodes 4 and 9: cells of 1,024 mm, a timeout of 5 ms, class 1 valid. -/
def grpRecord (n : Nat) : List Byte :=
  leBytes 4 1024 ++ leBytes 2 n ++ leBytes 2 5 ++ leBytes 56 0 ++ leBytes 8 0 ++ (leBytes 7 0 ++ [1]) ++ leBytes 2032 0 ++
    leBytes 2 4 ++ leBytes 2 9 ++ leBytes 956 0

def group0 (n : Nat) : Group :=
  { record := grpRecord n, streams := [5], tracks := [], marks := [(4, 100)], notAwaited := [], stalls := [(4, 5000000)],
    queue := [], seen := [], applied := 50, nextIndex := 7 }

/-- This device is node 4; stream 5 works in group 3. -/
def homing (n : Nat) : State :=
  { streamPut (regPut ring 0xB000000 (2 ^ 31 + 4)) 5 { running with sched := some { emptySched with group := 3 } } with
    groups := [(3, group0 n)], elapsed := 5000000 }

/-- A detection of class 1 at time 60, camera 2. -/
def det : List Byte := leBytes 6 0 ++ leBytes 2 1 ++ leBytes 6 0 ++ [2, 0] ++ leBytes 8 0 ++ leBytes 8 60

def packet (type addr dlen : Nat) (data : List Byte) : Packet := ⟨type, 6, false, 4, 9, 5, dlen, addr, 0, 77, data⟩

def closedTrack (c : Bool) (slot : Nat) : Track := { openTrack det slot slot 5 with closed := c }

/-- The group's detection sent to another node, too late, or of a class that is not valid. -/
def homed (n applied : Nat) : State :=
  { homing n with groups := [(3, { group0 n with applied := applied })] }

theorem witness_DetectionsReachTheirHome_local :
    groupOf (streamGet (homing 1) 5) = 3 ∧ (group0 1).streams.contains 5 = true ∧ tableRoom (homing 1) 1 = true ∧
    (grpClass (grpRecord 1) (detClass det)).valid = true ∧ homeOf (grpRecord 1) (detPos det) = ownNode (homing 1) ∧
    (group0 1).applied ≤ detTime det ∧ (group0 1).seen = [] ∧
    ok (exec (.detection 5 ⟨det, none⟩) (homing 1)) (fun t => (groupGet t 3).map (fun x => (x.queue.map (·.index), x.nextIndex)) = some ([7], 8)) = true ∧
    homeOf (grpRecord 2) (detPos (patch det 0 (leBytes 6 0x4000000))) = 9 ∧ ownNode (homing 2) ≠ 9 ∧
    tableRoom (homing 2) 1 = true ∧ ok (exec (.detection 5 ⟨patch det 0 (leBytes 6 0x4000000), none⟩) (homing 2)) (fun t => regGet t 0x800020C = 1 ∧
      t.fab.outstanding.map (fun r => (r.packet.type, r.packet.dst, r.packet.addr)) = [(6, 9, 0x703)]) = true ∧
    detTime det < 70 ∧ ok (exec (.detection 5 ⟨det, none⟩) (homed 1 70)) (fun t => (groupGet t 3).map (fun x => (x.queue.length, x.nextIndex)) = some (0, 8) ∧
      ((streamGet t 5).ring.map (·.tail)) = some 1) = true ∧
    (grpClass (grpRecord 1) (detClass (patch det 6 [0, 2]))).valid = false ∧
    ok (exec (.detection 5 ⟨patch det 6 [0, 2], none⟩) (homing 1)) (fun t => (groupGet t 3).map (fun x => (x.queue.length, x.nextIndex)) = some (0, 7)) = true ∧
    (grpMembers (grpRecord 2)).contains 9 = true ∧ (group0 2).queue = [] ∧ (group0 2).tracks = [] ∧
    ok (exec (.watermark 3 9 80) (homing 2)) (fun t => (groupGet t 3).map (fun x => (tget x.marks 9, x.applied)) = some (some 80, 80)) = true ∧
    ((group0 2).stalls.any fun e => e.1 != 9 && decide ((tget (group0 2).stalls 9).getD 0 < e.2)) = true ∧
    grpTimeout (grpRecord 2) * 1000000 ≤ (homing 2).elapsed - (tget (group0 2).stalls 9).getD 0 ∧
    ok (exec (.sourceTimeout 3 9) (homing 2)) (fun t => (groupGet t 3).map (·.notAwaited) = some [9] ∧ t.log.map (·.code) = [0x0213]) = true := by
  decide +kernel

/-- Stream 5 has compared critical head 9 of band 4, and its second run is released. -/
def voted : State := streamPut (homing 1) 5 { streamGet (homing 1) 5 with critRuns := [(9, 4, some 1)] }

theorem witness_DetectionsReachTheirHome_ring :
    detReleased (streamGet (homing 1) 5) ⟨det, some (9, 4, 0)⟩ = none ∧
    ok (exec (.detection 5 ⟨det, some (9, 4, 0)⟩) (homing 1)) (fun t => (streamGet t 5).dets.length = 1 ∧ (groupGet t 3).map (·.nextIndex) = some 7) = true ∧
    (streamGet voted 5).dets = [] ∧ detReleased (streamGet voted 5) ⟨det, some (9, 4, 0)⟩ = some false ∧
    ok (exec (.detection 5 ⟨det, some (9, 4, 0)⟩) voted) (fun t => (streamGet t 5).dets = [] ∧ (groupGet t 3).map (·.nextIndex) = some 7) = true ∧
    detReleased (streamGet voted 5) ⟨det, some (9, 4, 1)⟩ = some true ∧
    ok (exec (.detection 5 ⟨det, some (9, 4, 1)⟩) voted) (fun t => (groupGet t 3).map (·.nextIndex) = some 8) = true ∧
    (let s := { homing 2 with fab := { (homing 2).fab with outstanding := List.replicate 4096 ⟨0, packet 6 3 2 det, none, 5, 0⟩ } }
     tableRoom s 1 = false ∧ ok (exec (.detection 5 ⟨patch det 0 (leBytes 6 0x4000000), none⟩) s) (fun t => (streamGet t 5).dets.length = 1 ∧
       regGet t 0x800020C = 0) = true) := by decide +kernel

theorem witness_DetectionsReachTheirHome_requests :
    reaches (homing 2) (packet 6 3 2 det) 0x06 = true ∧ resetting (homing 2) = false ∧ det.length = 32 ∧
    groupGet (homing 2) 4 = none ∧ ok (exec (.assoc (packet 6 4 2 det)) (homing 2)) (fun t => regGet t 0xB000010 = 1) = true ∧
    (groupGet (homing 2) ((packet 6 (3 + 256 * 7) 2 det).addr % 256)).isSome = true ∧
    ok (exec (.assoc (packet 6 (3 + 256 * 7) 2 det)) (homing 2)) (fun t =>
      (groupGet t 3).map (fun x => x.seen) = some [(60, 9, 2, 7)]) = true ∧
    reaches (homing 2) (packet 7 3 1 (leBytes 16 80)) 0x07 = true ∧ (leBytes 16 80).length = 16 ∧
    ok (exec (.wmark (packet 7 3 1 (leBytes 15 80))) (homing 2)) (fun t => regGet t 0xB000010 = 1) = true ∧
    ok (exec (.wmark (packet 7 4 1 (leBytes 16 80))) (homing 2)) (fun t => regGet t 0xB000010 = 1) = true ∧
    ok (exec (.wmark (packet 7 3 1 (leBytes 16 80))) (homing 2)) (fun t => (groupGet t 3).map (·.applied) = some 80) = true ∧
    (let s := { streamPut ring 5 running with
        groups := [(3, { group0 1 with tracks := [closedTrack true 0, closedTrack false 1] })],
        works := [(16, mkWork 0 (strDesc 10 0 ([3] ++ leBytes 55 0)))] }
     (startedAs s 16 0x0A).isSome = true ∧ (groupGet s (leAt (strDesc 10 0 ([3] ++ leBytes 55 0)) 8 1)).isSome = true ∧
     ok (exec (.flushTracks 16) s) (fun t => (groupGet t 3).map (fun x => x.tracks.map (·.slot)) = some [1] ∧ regGet t 0x8000200 = 1 ∧
       t.works = []) = true) := by decide +kernel

/-! ### Time, frames and links -/

/-- Ethernet port 0 runs with gPTP, its link up, its MAC address 0x20000 and the IPv4 address 10.0.0.1. -/
def etherDev (mode : Nat) : State :=
  withRegs dev [(0xC000000, 2 ^ 31 + 2 ^ 29), (0xC00000C, 3 * 2 ^ 30), (0xC000810, mode * 2 ^ 30), (0xC000004, 0x20000), (0xC000400, 0x0A000001)]

def lineLockedDev (mode : Nat) : State := streamPut (etherDev mode) 5 { Stream.free with state := .running, cls := .lineLocked }

theorem witness_TimeFramesAndEthernetLinks_time :
    timeRunning (etherDev 0) = true ∧ timeMode (etherDev 0) ≠ 2 ∧
    ok (exec .ppsEdge (etherDev 0)) (fun t => reg64 t 0x7000050 = 1000000) = true ∧
    timeMode (lineLockedDev 2) = 2 ∧ (lineLockedDev 2).eth.setAtPps = none ∧ lineLockedAdmitted (lineLockedDev 2) = true ∧
    ok (exec .ppsEdge { lineLockedDev 2 with time := 600000000 }) (fun t => t.eth.slew = 400000000) = true ∧
    mayWrite (etherDev 0) .core = true ∧ lineLockedAdmitted (etherDev 0) = false ∧
    ok (exec (.timeSet .core 1) { etherDev 0 with held := [(0xC000808, 5)] }) (fun t => t.time = 4294967301 ∧
      t.log.map (·.code) = [0xFFFF, 0x0107]) = true ∧
    ok (exec (.timeSet .core 1) { lineLockedDev 0 with held := [(0xC000808, 5)] }) (fun t => t.time = 1000000 ∧
      t.log.map (·.code) = [0xFFFF, 0x0501]) = true ∧
    gptpPort (lineLockedDev 1) 0 = true ∧ timeMode (lineLockedDev 1) = 1 ∧
    ok (exec (.gptpMessage ⟨0, 1, true, 250⟩) (lineLockedDev 1)) (fun t => t.eth.slew = -250 ∧ regGet t 0xC000814 = 0x60000000) = true ∧
    (let s := { etherDev 1 with eth := { (etherDev 1).eth with follower := some 0 } }
     gptpPort s (1 - 0) = false ∧ ok (exec .syncTimeout s) (fun t => t.eth.follower = none ∧ regGet t 0xC000814 = 0) = true) := by
  decide +kernel

/-- A frame for that port. -/
def frame (p : EthProto) : EthFrameIn := ⟨0x20000, 0, 64, none, [0x0A000001, 0xFFFF, 0, 0], false, true, p⟩

/-- Port 0 with a new gate list of one entry, whose base time has come. -/
def gating : State :=
  let s := etherDev 0
  withRegs { s with eth := { s.eth with newList := [true, false], gateLists := [[], []] } }
    [(0xC000018, 2 ^ 31 + 1), (0xC001000, 0xFF), (0xC001004, 500), (0xC000020, 1000000)]

theorem witness_TimeFramesAndEthernetLinks_frames :
    ethUp (etherDev 0) 0 = true ∧
    (let s := regPut (etherDev 0) 0xC000000 (2 ^ 31 + 2 ^ 30)
     secDrops s 0 (frame .arp) = true ∧ ok (exec (.ethFrame 0 (frame .arp)) s) (fun t => regGet t 0xC000014 = 1) = true) ∧
    secDrops (etherDev 0) 0 (frame .other) = false ∧ frameTaken (etherDev 0) 0 (frame .other) = false ∧
    ok (exec (.ethFrame 0 (frame .other)) (etherDev 0)) (fun t => regGet t 0xC000010 = 1) = true ∧
    (let s := withRegs (etherDev 0) [(0xC002400 + 16 * 63, 2 ^ 31 + 32 * 2 ^ 24 + 32 * 2 ^ 17 + 63), (0xC002404 + 16 * 63, 0x20000)]
     frameTaken s 0 (frame .arp) = true ∧ filterOf s (frame .arp) = some 63 ∧ (filterTake s 63 (frame .arp)).1 = false ∧
     ok (exec (.ethFrame 0 (frame .arp)) s) (fun t => regGet t (0xC00240C + 16 * 63) = 1 ∧ t.out = []) = true) ∧
    (let s := withRegs (etherDev 0) [(0xC002400 + 16 * 63, 2 ^ 31 + 32 * 2 ^ 24 + 32 * 2 ^ 17 + 64), (0xC002404 + 16 * 63, 0x20000)]
     filterOf s (frame .arp) = some 63 ∧ (filterTake s 63 (frame .arp)).1 = true ∧
     ok (exec (.ethFrame 0 (frame .arp)) s) (fun t => t.out = [.ethReply 0 0]) = true) ∧
    frameTaken (etherDev 0) 0 { frame .arp with ip := [0x0A000002, 0xFFFF, 0, 0] } = false ∧
    frameTaken (etherDev 0) 0 (frame .icmpEcho) = true ∧ filterOf (etherDev 0) (frame .icmpEcho) = none ∧ frerOf (etherDev 0) (frame .icmpEcho) = none ∧
    ok (exec (.ethFrame 0 (frame .icmpEcho)) (etherDev 0)) (fun t => t.out = [.ethReply 0 2]) = true ∧
    ethEnabled gating 0 = true ∧ 0 < gating.eth.gateLists.length ∧ reg64 gating (0xC000020 + 0 * 0x100) ≤ gating.time ∧
    ok (exec (.qbvCycleStart 0) gating) (fun t => t.eth.gateLists = [[(0xFF, 500)], []]) = true ∧
    powered dev 2 = true ∧ bitOf (regGet dev (0xC00000C + 1 * 0x100)) 31 = false ∧
    ok (exec (.ethernetLinkChange 1 true) dev) (fun t => regGet t 0xC00010C = 0xC0000000 ∧ t.log.map (·.code) = [0x020A]) = true := by
  decide +kernel

theorem witness_TimeFramesAndEthernetLinks_roles :
    (let s := etherDev 1
     gptpPort s 0 = true ∧ timeMode s = 1 ∧ lineLockedAdmitted s = false ∧
     ok (exec (.gptpMessage ⟨0, 0, false, 0⟩) (regPut s 0xC000814 (2 ^ 30))) (fun t => regGet t 0xC000814 = 0)) = true ∧
    (let s := withRegs { etherDev 1 with eth := { (etherDev 1).eth with follower := some 0 } }
       [(0xC000100, 2 ^ 31 + 2 ^ 29), (0xC00010C, 3 * 2 ^ 30), (0xC000814, 2 ^ 30)]
     gptpPort s (1 - 0) ∧ ok (exec .syncTimeout s) (fun t => t.eth.follower = some 1 ∧ regGet t 0xC000814 = 0x50000000)) = true := by
  decide +kernel

/-- Receive stream 31 has taken frame 1000 of its 16 places of history, after which 4 places are seen and 12 are not. -/
def receiving (h : Option (Nat × Nat × Nat)) : State :=
  let s := withRegs (etherDev 0) [(0xC002000 + 16 * 31, 2 ^ 31 + 15 * 2 ^ 24 + 100), (0xC002004 + 16 * 31, 0x20000)]
  { s with eth := { s.eth with frer := match h with | some x => [(31, x)] | none => [] } }

def tagged (n : Nat) : EthFrameIn := { frame .arp with rtag := some n }

theorem witness_TimeFramesAndEthernetLinks_recovery :
    frerOf (receiving none) (tagged 7) = some 31 ∧ frameTaken (receiving none) 0 (tagged 7) = true ∧ filterOf (receiving none) (tagged 7) = none ∧
    ok (exec (.ethFrame 0 (tagged 7)) (receiving none)) (fun t => tget t.eth.frer 31 = some (7, 1, 1000000) ∧ t.out = [.ethReply 0 0]) = true ∧
    (let s := receiving (some (1000, 15, 900000))
     ok (exec (.ethFrame 0 (tagged 1016)) s) (fun t => t.out = [] ∧ t.regs = s.regs) = true ∧
     ok (exec (.ethFrame 0 (tagged 984)) s) (fun t => t.out = [] ∧ t.regs = s.regs) = true ∧
     ok (exec (.ethFrame 0 (tagged 997)) s) (fun t => regGet t (0xC00200C + 16 * 31) = 0x10000 ∧ t.out = []) = true ∧
     ok (exec (.ethFrame 0 (tagged 1015)) s) (fun t => regGet t (0xC00200C + 16 * 31) = 12 ∧
       tget t.eth.frer 31 = some (1015, 0x8001, 1000000) ∧ t.out = [.ethReply 0 0]) = true) := by decide +kernel

/-! ### Power, heat and supplies -/

theorem witness_GovernorHeatSuppliesAndClocks_power :
    arrayOn dev = true ∧ arrayBusy dev = false ∧ gradeOk dev.boot.nor.bytes = true ∧
    ok (exec (.governorTick [] 1234 true) (regPut dev 0xD000034 700)) (fun t => 695 ≤ arrayMv t ∧ arrayMv t ≤ 705 ∧ regGet t 0xD000038 = 1234) = true ∧
    hottest [some 300, none, some 305] = some (2, 305) ∧ dev.power.tripLatched = false ∧ nextLevel dev (thermLevel dev) 305 = thermLevel dev ∧
    thermLevel dev < 4 ∧ arrDue dev = false ∧
    ok (exec (.thermalTick [some 300, none, some 305]) dev) (fun t => regGet t 0xD00003C = 0x00020131) = true ∧
    ok (exec .hardwareTrip dev) (fun t => t.power.tripLatched ∧ thermLevel t = 4 ∧ t.pins.thermTripN = false ∧ regGet t 0xD000020 = 1) = true := by
  decide +kernel

def faults (o : Host.Outcome State Fault Refusal) : Bool :=
  match o with
  | .fault .beyondAbsoluteLimits => true
  | _ => false

theorem witness_GovernorHeatSuppliesAndClocks_heat :
    tJ dev = 1050 ∧ hottest [some 200, some 1150] = some (1, 1150) ∧ nextLevel dev (thermLevel dev) 1150 = 3 ∧ thermLevel dev = 0 ∧
    ok (exec (.thermalTick [some 200, some 1150]) dev) (fun t => thermLevel t = 3 ∧
      (t.log.map fun e => (e.code, e.arg)).contains (0x0101, 0x047E0103)) = true ∧
    nextLevel dev (thermLevel dev) 1250 = 4 ∧ ok (exec (.thermalTick [some 1250]) dev) (fun t => t.power.tripLatched) = true ∧
    hottest [none, none] = none ∧ dev.power.invalidSince = none ∧
    ok (exec (.thermalTick [none, none]) dev) (fun t => t.power.invalidSince = some dev.elapsed) = true := by decide +kernel

/-- VDD_ARR at 0.5 V: the partial reset comes 100 µs after it left its range. -/
theorem witness_GovernorHeatSuppliesAndClocks_array :
    dev.pins.rails[0]? = some true ∧ (500000 : Int) < (railRange dev 0).1 ∧
    ok (exec (.supplyFault 0 500000) dev) (fun t => t.power.arrOutAt = some dev.elapsed ∧ resetting t = false ∧
      (let u := { t with elapsed := t.elapsed + 90000 }
       ok (exec (.thermalTick [some 300]) u) fun v => v.power.arrOutAt = none ∧ resetting v = true) ∧
      ok (exec (.supplyRestored 0) t) fun v => v.power.arrOutAt = none) = true := by decide +kernel

theorem witness_GovernorHeatSuppliesAndClocks_supplies :
    faults (exec (.supplyFault 10 3800001) dev) = true ∧ ok (exec (.supplyFault 10 3800000) dev) (fun _ => true) = true ∧
    faults (exec (.supplyFault 0 (-300001)) dev) = true ∧
    dev.pins.rails[3]? = some true ∧ (1710000 : Int) ≤ (railRange dev 3).1 ∧ (1709999 : Int) ≤ railMax 3 ∧
    ok (exec (.supplyFault 3 1709999) dev) (fun t => t.pins.rails[3]? = some false ∧ regGet t 0xD000044 = 0x10000 ∧
      t.log.map (·.code) = [0x0102] ∧ ok (exec (.supplyRestored 3) t) fun u => u.pins.rails[3]? = some true) = true ∧
    dev.boot.step ≠ 0 ∧ dev.power.unlocked.contains (3, 0) = false ∧ clockRuns dev 3 0 = true ∧
    ok (exec (.pllLockLoss 3 0) dev) (fun t => t.power.unlocked = [(3, 0)] ∧ t.log.map (·.code) = [0x020C] ∧
      ok (exec (.pllRelock 3 0) t) fun u => u.power.unlocked = [] ∧ u.log.length = 2) = true := by decide +kernel

/-- A window of 64 MiB for the save area. -/
def saving : State := { ring with wins := [(3, ⟨0, 1024, 0, true, true, true, false, 0, 0, 0, 0, false, 2, false, 0⟩)] }

theorem witness_PowerStatesAreEntered :
    dev.boot.step = 12 ∧ dev.power.mode = 0 ∧ lineLockedAdmitted dev = false ∧ arrayBusy dev = false ∧ 1000000 ≤ dev.elapsed - dev.power.lastArray ∧
    ok (exec .idleEntry dev) (fun t => t.power.mode = 1) = true ∧ mayWrite ring .core = true ∧ ring.power.mode < 2 ∧
    dormantReason dev = 6 ∧ ok (exec (.dormantRequest .core 2) dev) (fun t => regGet t 0xD000000 = 0x06000000 ∧ t.log.map (·.code) = [0x0104]) = true ∧
    dormantReason saving = 0 ∧
    ok (exec (.dormantRequest .core 2) saving) (fun t => t.power.mode = 2 ∧ t.boot.step = 0 ∧ regGet t 0xD000020 = 0x601 ∧
      t.wins = [] ∧ (t.power.saved.map fun x => x.1.map (·.1)) = some [3]) = true ∧
    (let edges := List.replicate 16 ring.elapsed
     let s := regPut { ring with power := { ring.power with mode := 2, wakeEdges := [(0, edges)] }, boot := { ring.boot with step := 0 } }
       0xD000004 4
     s.power.mode = 2 ∧ wakeHolds s 2 = true ∧ bitOf (regGet s 0xD000004) 2 = true ∧ tget s.power.wakeEdges 0 = some edges ∧
     edges.length = 16 ∧ ok (exec (.encoderEdge 0 .fwd) s) (fun t => t.power.wakeEdges = s.power.wakeEdges) = true ∧
     ok (exec (.wake 2 true) s) (fun t => t.power.mode = 3 ∧ t.boot.step = 4 ∧ f (regGet t 0xD000000) 15 8 = 4) = true) := by decide +kernel

def balanced : State := { dev with cons := List.replicate 39 ⟨10, 3, 7, 20, 0⟩ }

def managed : State := { dev with sec := { dev.sec with mgmt := some ⟨[], []⟩ } }

theorem witness_SupervisorChecksAndMaintenance_checks :
    balanced.cons.length = 39 ∧ (∀ c ∈ balanced.cons, c.ok = true) ∧
    ok (exec .conservationCheck balanced) (fun t => t.log = []) = true ∧
    (let s := { balanced with cons := modAt balanced.cons 38 fun c => { c with outstanding := 8 } }
     s.cons.length = 39 ∧ s.cons[38]? = some ⟨10, 3, 8, 20, 0⟩ ∧ (Cons.mk 10 3 8 20 0).ok = false ∧
     ok (exec .conservationCheck s) (fun t => (t.log.map (·.code)).contains 0x0F01 ∧ (t.cons[38]?).map (·.failed) = some 1) = true) ∧
    mayWrite balanced .core = true ∧ ok (exec (.consSnap .core 1) balanced) (fun t => t.snap.length = 39) = true ∧
    ok (exec (.consSnap .core 2) balanced) (fun t => t.snap = balanced.snap) = true ∧ managed.sec.mgmt.isSome = true ∧
    ok (exec .sproutHeartbeatTimeout managed) (fun t => regGet t 0xD000044 = 0x100) = true ∧
    ok (exec .supervisorHeartbeatTimeout managed) (fun t => regGet t 0xD000044 = 1) = true := by decide +kernel

/-- A refresh of pool 7 requested, ticket 9: start and stop. -/
def ask (op : Nat) : Word := BitVec.ofNat 32 (9 * 2 ^ 24 + 2 * 2 ^ 20 + op * 2 ^ 16 + 7)

theorem witness_SupervisorChecksAndMaintenance_tokens :
    f (ask 1).toNat 23 20 = 2 ∧ f (ask 1).toNat 15 0 = 7 ∧ f (ask 1).toNat 19 16 = 1 ∧ maintTarget dev 2 7 = true ∧ maintAllowed dev 2 7 = true ∧
    tokenConflict dev 2 7 = none ∧
    ok (exec (.maintStart .core (ask 1) true) dev) (fun t => t.tokens = [(7, ⟨2, 7, false⟩)] ∧ regGet t 0xD000304 = 0x09100000 ∧
      t.log.map (·.code) = [0x0301]) = true ∧
    (let s := { dev with tokens := [(7, ⟨2, 7, false⟩)] };
     tokenConflict s 2 7 = some ⟨2, 7, false⟩ ∧ tget s.tokens (tokenOf 2 7) = some ⟨2, 7, false⟩ ∧
     ok (exec (.maintStart .core (ask 1) true) s) (fun t => regGet t 0xD000304 = 0x09220007) = true ∧ f (ask 2).toNat 19 16 = 2 ∧
     ok (exec (.maintStop .core (ask 2)) s) (fun t => t.tokens = [(7, ⟨2, 7, true⟩)] ∧ regGet t 0xD000304 = 0x09400000) = true ∧
     ok (exec (.maintUnitDone 7 true false ⟨[], [], 0⟩) s) (fun t => t.tokens = [] ∧ t.log.map (·.code) = [0x0302]) = true ∧
     ok (exec (.maintUnitDone 7 false false ⟨[], [], 0⟩) s) (fun t => t.tokens = s.tokens) = true) ∧
    dev.boot.step = 12 ∧ maintTarget dev 1 7 = true ∧ maintAllowed dev 1 7 = true ∧ maintDue dev 1 7 = true ∧ tokenConflict dev 1 7 = none ∧
    ok (exec (.maintPeriodicStart 1 7) dev) (fun t => t.tokens = [(7, ⟨1, 7, false⟩)]) = true := by decide +kernel

/-- Port 5 is down, spares are ready, and pool 7 was scrubbed 0.1 ms ago. -/
def upkeep : State := withRegs { podDev with power := { podDev.power with maintAt := [(7, 900000)] } } [(0xB001004 + 5 * 0x40, 3 * 2 ^ 29)]

/-- A start of an activity for a target, ticket 9. -/
def askFor (act tgt : Nat) : Word := BitVec.ofNat 32 (9 * 2 ^ 24 + act * 2 ^ 20 + 2 ^ 16 + tgt)

theorem witness_SupervisorChecksAndMaintenance_activities :
    maintTarget upkeep 4 96 = true ∧ maintAllowed upkeep 4 96 = true ∧ substPending upkeep = false ∧ tokenConflict upkeep 4 96 = none ∧
    ok (exec (.maintStart .core (askFor 4 96) true) upkeep) (fun t => t.tokens = [(18, ⟨4, 96, false⟩)] ∧ t.pods.selfTest = some 96) = true ∧
    maintTarget upkeep 5 5 = true ∧ maintAllowed upkeep 5 5 = true ∧ tokenConflict upkeep 5 5 = none ∧
    ok (exec (.maintStart .core (askFor 5 5) true) upkeep) (fun t => t.tokens = [(15, ⟨5, 5, false⟩)] ∧ fabState t 5 = 1) = true ∧
    maintDue upkeep 4 96 = true ∧
    ok (exec (.maintPeriodicStart 4 96) upkeep) (fun t => t.tokens = [(18, ⟨4, 96, false⟩)] ∧ maintDue t 4 96 = false) = true ∧
    maintDue upkeep 1 7 = false ∧ ok (exec (.maintPeriodicStart 1 7) upkeep) (fun t => t.tokens = []) = true := by decide +kernel

/-- 14 R459: a spare choice, a token grant and a voltage command with which the Supervisor disagrees. -/
theorem witness_SupervisorChecksAndMaintenance_decisions :
    choosesSpare podDev 33 = true ∧
    ok (exec (.podFailure 33 false) podDev) (fun t => t.pods = podDev.pods ∧
      t.log.map (fun e => (e.code, e.arg)) = [(0x020F, 2), (0x0F02, 3)]) = true ∧
    tget dev.tokens (tokenOf 2 7) = none ∧
    ok (exec (.maintStart .core (ask 1) false) dev) (fun t => t.tokens = [] ∧
      t.log.map (fun e => (e.code, e.arg)) = [(0x020F, 2), (0x0F02, 2)]) = true ∧
    arrayOn (regPut dev 0xD000034 700) = true ∧ arrayBusy (regPut dev 0xD000034 700) = false ∧
    ok (exec (.governorTick [] 1234 false) (regPut dev 0xD000034 700)) (fun t => arrayMv t = 700 ∧ regGet t 0xD000044 = 0x100 ∧
      t.log.map (fun e => (e.code, e.arg)) = [(0x020F, 2), (0x0F02, 4)]) = true := by decide +kernel

/-! ### Windows, pools, memory shares -/

/-- Window 255 staged at 1 MiB, 2 units. -/
def stagedWin : State :=
  { ring with shadow := [(0x4000000 + 255 * 0x20, 0x100000), (0x4000004 + 255 * 0x20, 0), (0x4000008 + 255 * 0x20, 1)] }

def lockedWin : State := { ring with wins := [(0, ⟨0, 256, 0, true, true, true, false, 5, 0, 0, 0, false, 2, true, 0⟩)] }

/-- A deferrable stream halted at unit 1 of window 7, which window 8 backs. -/
def refilling : State :=
  { streamPut ring 5 { Stream.free with state := .halted, cls := .deferrable, record := true, pos := [0x01010005, 4, 0, 0, 0x30000, 0x700, 0, 0] } with
    wins := [(7, ⟨0x20000, 2, 3, true, true, false, true, 5, 0, 10, 8, true, 2, false, 0⟩),
             (8, ⟨0x40000, 2, 4, true, true, false, false, 5, 0, 0, 0, false, 2, false, 0⟩)] }

theorem witness_WindowsResidencyAndPoolsChange_windows :
    mayWrite lockedWin .core = true ∧ (tget lockedWin.wins 0).map (·.lock) = some true ∧
    ok (exec (.windowCtrlWrite .core 0 0) lockedWin) (fun t => t.wins = lockedWin.wins ∧ (t.log.map (·.code)).contains 0x0501) = true ∧
    (0x83000000 : Nat) = (0x83000000 : Word).toNat &&& 0xDFC07F7F ∧ tget stagedWin.wins 255 = none ∧ f 0x83000000 31 30 = 2 ∧
    f 0x83000000 28 26 ∈ [0, 3, 4, 5, 6] ∧ winLegal stagedWin 255 0 (winOf stagedWin 255 0x83000000 0) = true ∧
    ok (exec (.windowCtrlWrite .core 255 0x83000000) stagedWin) (fun t => (tget t.wins 255).map (fun w => (w.base, w.len, w.state)) =
      some (0x100000, 2, 2) ∧ t.shadow = []) = true ∧
    (tget ring.wins 3).map (fun w => (w.lock, w.holder, editable ring w.owner)) = some (false, 0, true) ∧ Tab.wf ring.wins = true ∧
    ok (exec (.windowCtrlWrite .core 3 0) ring) (fun t => t.wins = []) = true ∧
    f (0x0003FFFF : Word).toNat 17 0 + f (0x0003FFFF : Word).toNat 31 18 + 1 ≤ 262144 ∧
    ok (exec (.resSet .core 0x0003FFFF) ring) (fun t => residentBit t.resident 262143 ∧ ok (exec (.resClr .core 0x0003FFFF) t) fun u =>
      u.resident = []) = true ∧
    262144 < f (0x0007FFFF : Word).toNat 17 0 + f (0x0007FFFF : Word).toNat 31 18 + 1 ∧
    ok (exec (.resSet .core 0x0007FFFF) ring) (fun t => t.resident = [] ∧ (t.log.map (·.code)).contains 0x0501) = true := by decide +kernel

/-- The hypotheses of the refill; its copy of 64 KiB is left to the statement. -/
theorem witness_WindowsResidencyAndPoolsChange_refill :
    (let pos := (streamGet refilling 5).pos.flatMap fun v => leBytes 4 v.toNat
     leAt pos 2 1 = 0x01 ∧ leAt pos 16 5 = 0x30000 ∧ leAt pos 21 1 = 7 ∧ leAt pos 4 4 = 4) ∧
    (match tget refilling.wins 7 with
     | some w => w.covers 0x30000 && w.tracked && (backingOf refilling w).isSome && (0x30000 - w.base) / 65536 == 1
     | none => false) = true ∧ (streamGet refilling 5).record = true ∧ refilling.poison = [] ∧ Memory.wf refilling.mem = true := by decide +kernel

/-- Pool 7 of window 9, four buffers of a unit; buffer 0 held, 1 held with a reader, 2 pending. -/
def pooling : State :=
  { regPut ring (0x4003000 + 7 * 0x20) (9 * 65536 + 1) with
    wins := [(9, ⟨0x80000, 4, 6, true, true, false, false, 0, 0, 0, 0, false, 2, false, 0⟩)],
    pools := [(7, { poolGet ring 7 with held := [0, 1], pending := [2], refs := [(1, 16)] })] }

theorem witness_WindowsResidencyAndPoolsChange_pools :
    mayRead pooling .core (0x4003004 + 7 * 0x20) = true ∧ poolCount pooling 7 = 4 ∧ 3 ∉ (poolGet pooling 7).held ∧
    3 ∉ (poolGet pooling 7).pending ∧ (∀ k ∈ List.range 3, k ∈ (poolGet pooling 7).held ∨ k ∈ (poolGet pooling 7).pending) ∧
    ok (exec (.poolAlloc .core 7) pooling) (fun t => t.resp = ⟨0x80000003, false⟩ ∧
      ok (exec (.poolAlloc .core 7) t) fun u => u.resp = ⟨0, false⟩) = true ∧
    poolCount ring 7 = 0 ∧ mayWrite pooling .core = true ∧
    (∀ r ∈ (poolGet pooling 7).refs, r.1 ≠ 0) ∧ ok (exec (.poolFree .core 7 0) pooling) (fun t => (poolGet t 7).held = [1]) = true ∧
    (∃ r ∈ (poolGet pooling 7).refs, r.1 = 1) ∧
    ok (exec (.poolFree .core 7 1) pooling) (fun t => (poolGet t 7).pending = [1, 2] ∧ regGet t (0x4003010 + 7 * 0x20) = 1) = true ∧
    ok (exec (.poolFree .core 7 3) pooling) (fun t => regGet t (0x4003014 + 7 * 0x20) = 1 ∧ t.log.map (·.code) = [0x0408]) = true := by
  decide +kernel

def ledger : State :=
  { ring with ddr := { ring.ddr with window := 0, used := [(5, 0, 0)], selfRefresh := [2] }, shadow := [(0x20001F0, 7), (0x20001F4, 9)] }

theorem witness_MemorySharesAndUpkeep :
    mayWrite (lineLockedDev 0) .core = true ∧ f 0x5A0505 23 16 + f 0x5A0505 15 8 + f 0x5A0505 7 0 = 100 ∧ lineLockedAdmitted (lineLockedDev 0) = true ∧
    ok (exec (.ddrShareWrite .core 0xFF5A0505) (lineLockedDev 0)) (fun t => t.ddr.heldShare = some 0x5A0505) = true ∧
    lineLockedAdmitted ring = false ∧ ok (exec (.ddrShareWrite .core 0xFF5A0505) ring) (fun t => regGet t 0x3000400 = 0x5A0505) = true ∧
    ledger.ddr.window < ledger.time / 1000 * 1000 ∧ (∀ u ∈ ledger.ddr.used, u.2.2 ≤ allowance (streamGet ledger u.1) u.2.1) ∧
    ok (exec .enforcementWindow ledger) (fun t => t.ddr.used = [] ∧ t.ddr.window = 1000000) = true ∧
    tolerant ledger = true ∧ powered ledger 11 = true ∧ capacity ledger ≠ 0 ∧ 7 ∉ ledger.ddr.selfRefresh ∧
    ok (exec (.selfRefreshEntry 7) ledger) (fun t => t.ddr.selfRefresh = [2, 7]) = true ∧
    ok (exec (.selfRefreshExit 2) ledger) (fun t => t.ddr.selfRefresh = []) = true ∧
    ok (exec (.wckDqCheck 15) ledger) (fun t => t.log = []) = true ∧
    ok (exec (.perBankRefresh 15 3) ledger) (fun t => t.ddr.refreshTaken = 3) = true ∧ Tab.wf ledger.shadow = true ∧
    ok (exec (.rtbW3Write .core 15 0) ledger) (fun t => regGet t 0x20001F0 = 7 ∧ regGet t 0x20001F4 = 9 ∧ t.shadow = []) = true := by
  decide +kernel

/-- Seven reads of stream 5 wait for the next window, whose allowance is two; channel pair 7 had a request 2 µs ago. -/
def waitingReads : State :=
  let x := { Stream.free with state := .running, cls := .lineLocked, maxRate := 1, cost := { Cost.zero with ddrRead := 128000000, bandLines := 1 } }
  { streamPut (regPut dev 0x3000404 0x5A0532) 5 x with ddr := { dev.ddr with window := 0, queued := [(5, 0, 7)], touched := [(7, 998000)] } }

theorem witness_MemorySharesAndUpkeep_queued :
    waitingReads.ddr.window < waitingReads.time / 1000 * 1000 ∧ allowance (streamGet waitingReads 5) 0 = 2 ∧
    ok (exec .enforcementWindow waitingReads) (fun t => t.ddr.used = [(5, 0, 2)] ∧ t.ddr.queued = [(5, 0, 5)] ∧
      ok (exec .enforcementWindow t) fun u => u.ddr = t.ddr) = true ∧
    pairIdle ledger 7 = true ∧ pairIdle waitingReads 7 = false ∧ ledger.ddr.queued = [] ∧ 5 ≤ f 0x5A0505 7 0 := by decide +kernel

/-! ### The spool pool, Leek space, cores, admission -/

/-- The pool has two buffers, 0 and 1 of unit 255 of half 0; stream 5 holds `held` and asks for two. -/
def spooling (held : Tab Nat) (x : Stream) : State :=
  { streamPut (withRegs ring [(0x3F04, 1), (0x3F00, 1)]) 5 x with
    spool := held, elapsed := 1001001,
    wins := [(8, ⟨0x40000, 2, 4, true, true, false, false, 5, 0, 0, 0, false, 2, false, 0⟩)] }

def asking : Stream := { running with wants := some (2, 0) }

/-- The same pool with its own window, and a byte in the overflow window's second unit and in the pool's first buffer. -/
def spooled (held : Tab Nat) (x : Stream) : State :=
  let own : Window := ⟨0x4001FE0000, 2, 2, true, true, false, false, 0, 0, 0, 0, false, 2, false, 0⟩
  { spooling held x with
    wins := (spooling held x).wins ++ [(9, own)], mem := [(0x50001, 9), (0x4001FE0003, 7)] }

/-- A copy of one buffer between places that are granted, present and sound stands. -/
theorem spillCopies_one (s : State) (n a b : Nat) (hr : checkRange s (readBy n 0) a 65536 = none) (hp : poisonIn s a 65536 = none)
    (hw : checkRange s (writeBy n 0) b 65536 = none) (hq : poisonPartial s b 65536 = none) :
    ∃ c, spillCopies s n [(a, b)] = .ok c := by
  have hl : (memGetN s.mem a 65536).length = 65536 := by simp [memGetN]
  exact ⟨storeBytes (ddrTouch s [(b, 65536)]) b (memGetN s.mem a 65536), by
    simp only [spillCopies, spillCopy, devRead, devWrite, hr, hp, hl, hw, hq]⟩

/-- Stream 5 holds buffer 0 and waits, as stream 4, which ranks above it, holds buffer 1 and waits. -/
def stuck : State := streamPut (spooled [(0, 5), (1, 4)] asking) 4 asking

theorem witness_SpoolBuffersAndLeekHalves_spill :
    ddrLineWaiting stuck = false ∧ pairLost stuck = false ∧ poolFreeBufs stuck = [] ∧
    lowestRank stuck ((admittedIds stuck).filter fun h => !(poolHeld stuck h).isEmpty) = some 5 ∧
    (match spillWindow stuck 5 with | some w => spillPlan stuck 5 w == [(0, 0x40000)] | none => false) = true ∧
    spoolAddr stuck 0 = 0x4001FE0000 ∧
    checkRange stuck (readBy 5 0) 0x4001FE0000 65536 = none ∧ checkRange stuck (writeBy 5 0) 0x40000 65536 = none ∧
    poisonIn stuck 0x4001FE0000 65536 = none ∧ poisonPartial stuck 0x40000 65536 = none := by decide +kernel

/-- Stream 5's one spilled buffer can return to buffer 0. -/
def spilledOut : State := spooled [(1, 6)] { running with spilled := [(0, 0x40000)] }

theorem witness_SpoolBuffersAndLeekHalves_restore :
    (streamGet spilledOut 5).spilled = [(0, 0x40000)] ∧ ddrLineWaiting spilledOut = false ∧ pairLost spilledOut = false ∧ 0 ∈ poolFreeBufs spilledOut ∧
    (let u := { spilledOut with spool := [(0, 5), (1, 6)] }
     checkRange u (readBy 5 0) 0x40000 65536 = none ∧ checkRange u (writeBy 5 0) 0x4001FE0000 65536 = none ∧
     poisonIn u 0x40000 65536 = none ∧ poisonPartial u 0x4001FE0000 65536 = none) := by decide +kernel

theorem witness_SpoolBuffersAndLeekHalves :
    2 ≤ poolSize (spooling [] running) ∧ running.wants = none ∧ running.spilled = [] ∧ running.faulting = none ∧
    2 ≤ (poolFreeBufs (spooling [] running)).length ∧
    ok (exec (.spoolBufferRequest 5 (.take 2)) (spooling [] running)) (fun t => t.spool = [(0, 5), (1, 5)]) = true ∧
    (poolFreeBufs (spooling [(1, 6)] running)).length < 2 ∧
    ok (exec (.spoolBufferRequest 5 (.take 2)) (spooling [(1, 6)] running)) (fun t => (streamGet t 5).wants = some (2, 1001001)) = true ∧
    poolSize (spooling [] running) < 3 ∧
    ok (exec (.spoolBufferRequest 5 (.take 3)) (spooling [] running)) (fun t => (streamGet t 5).faulting.isSome) = true ∧
    Tab.wf (spooling [(0, 5), (1, 5)] running).spool = true ∧
    ok (exec (.spoolBufferRequest 5 (.give 1)) (spooling [(0, 5), (1, 5)] running)) (fun t => t.spool = [(1, 5)]) = true ∧
    (let s := spooling [(0, 5), (1, 5)] asking
     (5, asking) ∈ s.streams ∧ asking.cls = .deferrable ∧ f (regGet s 0x3F00) 16 0 * 1000 < s.elapsed - 0 ∧ poolFreeBufs s = [] ∧
     (∀ h ∈ admittedIds s, poolHeld s h ≠ [] → (streamGet s h).wants.isSome = true) ∧
     lowestRank s ((admittedIds s).filter fun h => !(poolHeld s h).isEmpty) = some 5 ∧ (spillWindow s 5).isSome = true ∧
     (match spillWindow s 5 with | some w => (spillPlan s 5 w).length | none => 0) = 2) ∧
    (let s := { spooling [(0, 5), (1, 5)] asking with wins := [] }
     spillWindow s 5 = none ∧ ok (exec .spoolDeadlockCheck s) (fun t => t.spool = [] ∧ (streamGet t 5).faulting.isSome ∧
       t.log.map (fun e => (e.code, e.arg)) = [(0x0407, 0x105)]) = true) ∧
    (let s := spooling [] { running with spilled := [(0, 0x40000), (1, 0x50000)] }
     ∀ p ∈ (streamGet s 5).spilled, p.1 ∈ poolFreeBufs s) ∧
    ring.parts = [] ∧ spoolUnits ring 1 = 0 ∧ dev.leekUp[1]? = some true ∧
    ok (exec (.leekHalfPowerDown 1) { ring with mem := [(0x4000000000, 7), (0x4002000000, 8)] }) (fun t => t.leekUp = [true, false] ∧
      t.mem = [(0x4000000000, 7)] ∧ powered t 10 = false) = true ∧
    spoolUnits (spooling [] running) 0 ≠ 0 ∧
    ok (exec (.leekHalfPowerDown 0) (spooling [] running)) (fun t => t.log.map (fun e => (e.code, e.arg)) = [(0x0108, 0)]) = true ∧
    ok (exec (.leekHalfPowerDown 1) { ring with parts := [(0, ⟨5, 1, 0, 2⟩)] }) (fun t => t.log.map (·.code) = [0x0108]) = true := by
  decide +kernel

theorem witness_CoresReachMemoryAndRegisters_refused :
    (let s := poisonUnit dev 0x1000 false
     dev.boot.cores = true ∧ (poisonPartial s 0x1004 1).isSome = true ∧
     ok (exec (.coreMemoryAccess (.store 0x1004 [1]) ⟨[], [], 0⟩) s) (fun t => t.mem = [] ∧ t.resp.error) = true ∧
     ok (exec (.coreMemoryAccess (.store 0x1000 (List.replicate 64 1)) ⟨[], [], 0⟩) s) (fun t => t.mem.length = 64 ∧ !t.resp.error) = true ∧
     ok (exec (.coreMemoryAccess (.store 0x2000 [1]) ⟨[], [], 0⟩) { dev with boot := { dev.boot with cores := false } })
       (fun t => t.mem = []) = true ∧
     ok (exec (.coreMemoryAccess (.atomicOr 0x6000000000 [1]) ⟨[], [], 0⟩) dev) (fun t => t.resp.error ∧ t.log = dev.log) = true) := by
  decide +kernel

theorem witness_CoresReachMemoryAndRegisters :
    regOffset 0x37FFFFFE = none ∧ coreReach dev 0x37FFFFFE 2 = true ∧ poisonPartial dev 0x37FFFFFE 2 = none ∧
    ok (exec (.coreMemoryAccess (.store 0x37FFFFFE [7, 8]) ⟨[], [], 0⟩) dev) (fun t => t.mem = [(0x37FFFFFE, 7), (0x37FFFFFF, 8)]) = true ∧
    coreReach dev 0x38000000 2 = false ∧ ok (exec (.coreMemoryAccess (.store 0x38000000 [7, 8]) ⟨[], [], 0⟩) dev) (fun t => t.resp.error) = true ∧
    poisonIn dev 0x37FFFFFE 2 = none ∧
    ok (exec (.coreMemoryAccess (.load 0x37FFFFFE 2) ⟨[], [], 0⟩) { dev with mem := [(0x37FFFFFF, 8)] }) (fun t => t.resp = ⟨0x800, false⟩) = true ∧
    ok (exec (.coreMemoryAccess (.load 0x38000000 2) ⟨[], [], 0⟩) dev) (fun t => t.resp.error) = true ∧
    (let s := { dev with mem := [(0x1000, 0xFF), (0x1001, 1)] }
     ok (exec (.coreMemoryAccess (.atomicOr 0x1000 [0x10, 2]) ⟨[], [], 0⟩) s) (fun t => t.mem = [(0x1000, 0xFF), (0x1001, 3)] ∧
       t.resp = ⟨0x1FF, false⟩) = true ∧
     ok (exec (.coreMemoryAccess (.atomicAdd 0x1000 [1, 0]) ⟨[], [], 0⟩) s) (fun t => t.mem = [(0x1001, 2)] ∧ t.resp = ⟨0x1FF, false⟩) = true) ∧
    ok (exec (.coreMemoryAccess (.atomicAdd 0x38000000 [1]) ⟨[], [], 0⟩) dev) (fun t => t.resp.error) = true ∧
    (let s := poisonUnit dev 0x1000 false
     (poisonIn s 0x1004 2).isSome = true ∧ (poisonPartial s 0x1004 2).isSome = true ∧
     ok (exec (.coreMemoryAccess (.load 0x1004 2) ⟨[], [], 0⟩) s) (fun t => t.resp.error) = true) ∧
    (regOffset 0x6000000000).isSome = true ∧
    ok (exec (.coreMemoryAccess (.load 0x6000000000 4) ⟨[], [], 0⟩) dev) (fun t => t.resp = ⟨0x2C000000, false⟩) = true := by decide +kernel

/-- A package of one variant that costs nothing, and the SHA3-512 of its bytes from 64 on. -/
def package : List Byte :=
  [0xCE, 0xFC, 0x1D, 0xF6, 0xDF, 0xE5, 0x7A, 0x87, 0x61, 0x8A, 0x19, 0xA4, 0xDE, 0x8E, 0xAB, 0x64, 0xBF, 0xAB,
   0xE8, 0xFB, 0x80, 0x0B, 0x9B, 0x14, 0x3B, 0xFF, 0xAB, 0xBD, 0xC8, 0x3A, 0x6B, 0x6C, 0xE6, 0x53, 0x51, 0xA7,
   0x76, 0xDE, 0xE3, 0x89, 0x88, 0x07, 0xF5, 0xE3, 0xB2, 0x28, 0x91, 0x3E, 0xEE, 0xEB, 0x04, 0x89, 0x3F, 0xB3,
   0x06, 0xB2, 0x9E, 0x91, 0x25, 0x80, 0xA3, 0x22, 0xF9, 0xF5] ++
    leBytes 4 256 ++ [1] ++ leBytes 187 0

/-- ADMIT of stream 5 as deferrable, or only its verdict. -/
def admitting (dry : Nat) (pkg : List Byte) : State :=
  let req := leBytes 8 0x45000 ++ leBytes 2 5 ++ leBytes 1 1 ++ leBytes 1 dry ++ leBytes 20 0 ++ leBytes 8 0x46000 ++ leBytes 24 0
  { ring with works := [(16, { mkWork 0 (strDesc 3 5 (leBytes 8 0x44000 ++ leBytes 48 0)) with stream := 5 })],
              mem := memPutN (memPutN [] 0x45000 pkg) 0x44000 req }

/-- Everything that the statement asks of an ADMIT, and what its result record begins with. -/
def admits (s : State) (fits : Bool) (first : Byte) : Bool :=
  match startedAs s 16 0x03, devRead s (readBy 0 16) 0x44000 64 with
  | some w, .ok b =>
    let q := decRequest b
    (requestErr b w.stream).isNone && (checkRange s (writeBy 0 16) q.result 128).isNone && Memory.wf s.mem &&
    match readPackage s 16 q with
    | .ok (pkg, none) => match decideRequest s q pkg with
      | .fits v c =>
        let t := if q.dry then s else holdUnits (reserve s q v c 0) q.stream Sched.none
        let r := resultBytes s t q (.fits v c)
        fits && r.head? == some first && r.length == 128 && (match devWrite t (writeBy 0 16) q.result r with | .ok _ => true | _ => false)
      | vd =>
        let r := resultBytes s s q vd
        !fits && r.head? == some first && r.length == 128 && (match devWrite s (writeBy 0 16) q.result r with | .ok _ => true | _ => false)
    | _ => false
  | _, _ => false

theorem witness_AdmissionIsAllOrNothing :
    admits (admitting 0 (leBytes 64 0 ++ leBytes 4 256 ++ leBytes 188 0)) false 1 = true ∧ admits (admitting 0 package) true 0 = true ∧
    admits (admitting 1 package) true 2 = true ∧
    ok (exec (.admit_ 16 ⟨false, [Sched.none], ⟨[], [], 0⟩⟩) (admitting 0 package)) (fun t => (streamGet t 5).state = .free ∧
      t.log.map (fun e => (e.code, e.arg)) = [(0x020F, 2), (0x0F02, 1)]) = true ∧
    ok (exec (.admit_ 16 ⟨true, [Sched.none], ⟨[], [], 0⟩⟩) (admitting 0 package)) (fun t => (streamGet t 5).state = .admitted ∧
      t.admitSeq = (admitting 0 package).admitSeq + 1) = true := by decide +kernel

/-- The request's address, or a field of it, changed. -/
def admitBad (at_ : Nat) (k : Nat) (b : List Byte) : State :=
  let s := admitting 0 package
  { s with works := [(16, { mkWork 0 (strDesc 3 5 (leBytes 8 at_ ++ leBytes 48 0)) with stream := 5 })], mem := memPutN s.mem (0x44000 + k) b }

/-- How the request's bytes, its result range and its package are answered. -/
def admitStops (s : State) (at_ : Nat) : Option (Option Nat × Bool × Bool) :=
  match devRead s (readBy 0 16) at_ 64 with
  | .ok b => some (requestErr b 5, (checkRange s (writeBy 0 16) (decRequest b).result 128).isSome,
      match readPackage s 16 (decRequest b) with | .ok _ => false | .error _ => true)
  | .error _ => none

theorem witness_AdmissionIsAllOrNothing_errors :
    (startedAs (admitBad 0x44000 0 []) 16 0x03).isSome = true ∧ admitStops (admitBad 0x38000000 0 []) 0x38000000 = none ∧
    ok (exec (.admit_ 16 ⟨true, [], ⟨[], [], 0⟩⟩) (admitBad 0x38000000 0 [])) (fun t => t.works = [] ∧ memGetN t.mem 0x20004 1 = [5]) = true ∧
    admitStops (admitBad 0x44000 8 [6, 0]) 0x44000 = some (some 1, false, false) ∧
    ok (exec (.admit_ 16 ⟨true, [], ⟨[], [], 0⟩⟩) (admitBad 0x44000 8 [6, 0])) (fun t => t.works = [] ∧ memGetN t.mem 0x20004 2 = [5, 3]) = true ∧
    admitStops (admitBad 0x44000 32 (leBytes 8 0x38000000)) 0x44000 = some (none, true, false) ∧
    ok (exec (.admit_ 16 ⟨true, [], ⟨[], [], 0⟩⟩) (admitBad 0x44000 32 (leBytes 8 0x38000000))) (fun t => t.works = []) = true ∧
    admitStops (admitBad 0x44000 0 (leBytes 8 0x38000000)) 0x44000 = some (none, false, true) ∧
    ok (exec (.admit_ 16 ⟨true, [], ⟨[], [], 0⟩⟩) (admitBad 0x44000 0 (leBytes 8 0x38000000))) (fun t => t.works = []) = true := by
  decide +kernel

/-! ### Displays -/

/-- A plane set of 64 by 64 pixels of four bytes at 0x80000. -/
def planeBytes64 : List Byte :=
  leBytes 5 0x80000 ++ [7] ++ leBytes 10 0 ++ leBytes 4 256 ++ leBytes 4 0 ++ leBytes 2 64 ++ leBytes 2 64 ++ leBytes 36 0

def plane0 : Plane := ⟨planeBytes64, 0, none, false, 1⟩

/-- Output 1 with that mode, in a state; the record stands at 0x40000. -/
def showing (x : Disp) : State :=
  { withRegs ring [(0xA000000, 2 ^ 31), (0xA000004, 25000), (0xA000008, 100 * 65536 + 64), (0xA000010, 80 * 65536 + 64), (0xA000020, 0x40000),
      (0xA000030, 3 * 2 ^ 29)] with
    disps := [(1, x)], mem := memPutN [] 0x40000 planeBytes64 }

/-- A frame of 64 lines has just begun. -/
def scanning : Disp := { Disp.reset with running := true, part := .active, started := 1000000, last := 64 }

def flipping (d n : Nat) : State :=
  { streamPut (showing scanning) 5 { running with dispMask := 2 } with
    works := [(16, { mkWork 0 (strDesc 11 n ([BitVec.ofNat 8 d] ++ leBytes 7 0 ++ leBytes 8 0x40000 ++ leBytes 40 0)) with stream := n })],
    wins := [(3, ⟨0, 256, 0, true, true, true, false, 5, 0, 0, 0, false, 2, false, 0⟩)] }

theorem witness_PlaneSetsAreCommittedAndLatched_commits :
    (startedAs (flipping 1 6) 16 0x0B).isSome = true ∧ dispHolder (flipping 1 6) 1 = 5 ∧
    ok (exec (.flip 16) (flipping 1 6)) (fun t => t.works = [] ∧ (dispGet t 1).pending = none) = true ∧
    ok (exec (.flip 16) (flipping 2 5)) (fun t => t.works = [] ∧ (dispGet t 1).pending = none) = true ∧
    (startedAs (flipping 1 5) 16 0x0B).isSome = true ∧
    (match devRead (flipping 1 5) (readBy 5 0) 0x40000 64 with | .ok b => (planeErr (flipping 1 5) 1 b).isNone | _ => false) = true ∧
    ok (exec (.flip 16) (flipping 1 5)) (fun t => (workGet t 16).map (·.phase) = some .waiting ∧
      (dispGet t 1).pending = some ⟨planeBytes64, 5, some 16, false, 3⟩) = true ∧
    mayWrite (showing scanning) .core = true ∧ frameOver (showing scanning) 1 = false ∧ (dispGet (showing scanning) 1).pending = none ∧
    (match devRead (showing scanning) (readBy 0 0) (reg64 (showing scanning) (dispBase 1 + 0x20)) 64 with
     | .ok b => (planeErr (showing scanning) 1 b).isNone | _ => false) = true ∧
    ok (exec (.commit .core 1 0) (showing scanning)) (fun t => (dispGet t 1).pending = none) = true ∧
    ok (exec (.commit .core 1 1) (showing scanning)) (fun t => (dispGet t 1).pending = some ⟨planeBytes64, 0, none, false, 3⟩) = true := by
  decide +kernel

/-- A plane set of one row. -/
def planeRow1 : Plane := { plane0 with bytes := patch planeBytes64 26 [1, 0] }

theorem witness_PlaneSetsAreCommittedAndLatched_frames :
    (let s := showing { scanning with pending := some planeRow1, line := 64, started := 0 }
     frameOver s 1 = true ∧ (dispGet s 1).pending = some planeRow1 ∧ planeRow1.wid = none ∧ s.time < 2 ^ 64 ∧
     ok (exec (.frameLatch 1) s) (fun t => (dispGet t 1).current = some planeRow1 ∧ (dispGet t 1).pending = none ∧
       reg64 t 0xA000048 = 1000000 ∧ (dispGet t 1).buf.length = 256) = true) ∧
    (let s := showing { scanning with part := .blank, fresh := true, started := 0 }
     (dispGet s 1).running = true ∧ (dispGet s 1).psr = false ∧ frameDue s 1 = true ∧ frameDue (showing scanning) 1 = false ∧
     (dispGet s 1).faulted = false ∧ s.power.unlocked.contains (2, 1) = false ∧
     ok (exec (.frameStart 1) s) (fun t => dispFrame t 1 = 1 ∧ (dispGet t 1).part = .active ∧ reg64 t 0xA000050 = 1000000 ∧
       t.out = [.frame 1 1 (frameAttrs s 1)]) = true) ∧
    (let s := showing { scanning with part := .blank, faulted := true, started := 0 }
     frameDue s 1 = true ∧
     ok (exec (.frameStart 1) s) (fun t => dispFrame t 1 = 1 ∧ (dispGet t 1).aborted ∧ dispReg t 1 0x60 = 1) = true) := by
  decide +kernel

/-- Output 1 enabled for one lane at rate 0 with fallback, its sink present, the link down. -/
def sinking : State := withRegs (showing scanning) [(0xA000000, 2 ^ 31 + 2 ^ 21 + 2 ^ 22), (0xA000030, 2 ^ 30)]

theorem witness_DisplayLinksAndUnderruns_links :
    dispEnabled sinking 1 = true ∧ bitOf (dispReg sinking 1 0x30) 30 = true ∧ bitOf (dispReg sinking 1 0x30) 29 = false ∧
    (trainOrder (dispCfg sinking 1)).find? (fun t => [(0, 0)].contains t && linkCarries sinking 1 t.1 t.2) = some (0, 0) ∧
    ok (exec (.displayEnable 1 [(0, 0)] true) sinking) (fun t => bitOf (dispReg t 1 0x30) 29 ∧ (dispGet t 1).psrSink ∧
      t.log.map (·.code) = [0x0212]) = true ∧
    (∀ x ∈ trainOrder (dispCfg sinking 1), x ∈ ([] : List (Nat × Nat)) → linkCarries sinking 1 x.1 x.2 = false) ∧
    ok (exec (.displayEnable 1 [] true) sinking) (fun t => t.log.map (·.code) = [0x021A]) = true ∧
    ok (exec (.hpdEvent 1 .high) dev) (fun t => bitOf (dispReg t 1 0x30) 30) = true ∧ bitOf (dispReg (showing scanning) 1 0x30) 29 = true ∧
    ok (exec (.hpdEvent 1 .pulseLost) (showing scanning)) (fun t => bitOf (dispReg t 1 0x30) 29 = false) = true ∧
    mayWrite sinking .core = true ∧ f (0x00300123 : Word).toNat 26 24 < 4 ∧ bitOf (dispReg sinking 1 0x84) 31 = false ∧
    ok (exec (.auxCmd .core 1 0x00300123) sinking) (fun t => dispReg t 1 0x84 = 2 ^ 31 ∧ t.out = [.aux 1 0x00300123 [0, 0, 0, 0]] ∧
      f (dispGet t 1).auxCmd 26 24 % 2 = 0 ∧
      ok (exec (.auxDone 1 ⟨2, [1, 2, 3, 4, 5]⟩) t) fun u => dispReg u 1 0x84 = 34) = true := by decide +kernel

theorem witness_DisplayLinksAndUnderruns_stops :
    (let s := showing { scanning with current := some plane0, fetched := 1000 }
     (dispGet s 1).current = some plane0 ∧ (dispGet s 1).running = true ∧ (dispGet s 1).psr = false ∧ (dispGet s 1).part = .active ∧
     (dispGet s 1).faulted = false ∧ (dispGet s 1).underrun = false ∧ (dispGet s 1).aborted = false ∧ (dispGet s 1).line < (dispGet s 1).last ∧
     ok (exec (.underrun 1) s) (fun t => (dispGet t 1).underrun ∧ (dispGet t 1).aborted ∧ dispReg t 1 0x5C = 1 ∧ dispReg t 1 0x60 = 1 ∧
       (dispGet t 1).line = 0 ∧ (dispGet t 1).under.isSome ∧ t.log.map (·.code) = [0x0211]) = true) ∧
    mayWrite (showing scanning) .core = true ∧ dispEnabled (showing scanning) 1 = true ∧ (dispGet (showing scanning) 1).pending = none ∧
    (dispGet (showing scanning) 1).current = none ∧ dispCfg (showing scanning) 1 % 256 = 0 ∧
    (match namedReg (regAddr (dispBase 1)) 4 with
     | some (r, _, _) => setF (dispCfg (showing scanning) 1) 31 31 0 &&& (r.rw ||| r.wo) == setF (dispCfg (showing scanning) 1) 31 31 0 &&
         r.legal (setF (dispCfg (showing scanning) 1) 31 31 0)
     | none => false) = true ∧
    ok (exec (.displayDisable .core 1) (showing scanning)) (fun t => dispEnabled t 1 = false ∧ (dispGet t 1).running = false ∧
      bitOf (dispReg t 1 0x30) 29 = false ∧ powered t 5 = false) = true := by decide +kernel

/-! ### The fabric -/

/-- Node 4 of a torus of 16 by 1 by 1, port 0 up; the window that other nodes reach. -/
def fabDev : State := withRegs (portUp ring 0) [(0xB000000, 2 ^ 31 + 4), (0xB000004, 15)]

def pk (type addr dlen : Nat) (data : List Byte) : Packet := ⟨type, 6, false, 4, 3, 0, dlen, addr, 0, 77, data⟩

def sixteen : List Byte := (List.range 16).map fun i => BitVec.ofNat 8 (i + 1)

/-- A request of this node with tag 77, for work 16. -/
def outReq (type : Nat) : OutReq := ⟨77, ⟨type, 6, false, 3, 4, 0, 0, 0x40000, 0, 77, if type = 6 then leBytes 32 0 else []⟩, some 16, 0, 0⟩

def asked (r : OutReq) : State :=
  { fabDev with elapsed := 4000000, works := [(16, { mkWork 0 (patch dmaDesc 28 [1]) with phase := .running })],
                fab := { fabDev.fab with outstanding := [r] } }

theorem witness_FabricRequestsAndResponses_requests :
    reaches fabDev (pk 1 0x400F0 1 sixteen) 0x01 = true ∧ resetting fabDev = false ∧ requestOk (pk 1 0x400F0 1 sixteen) 16 = true ∧
    (fabricStop fabDev (pk 1 0x400F0 1 sixteen) 16 true).isNone = true ∧ Memory.wf fabDev.mem = true ∧ sixteen.length = 16 ∧
    ok (exec (.fabricWrite (pk 1 0x400F0 1 sixteen)) fabDev) (fun t => memGetN t.mem 0x400F0 16 = sixteen ∧
      (portGet t 0).retry.length + (portGet t 1).queue.length = 1) = true ∧
    ok (exec (.fabricWrite (pk 1 0x400F0 2 sixteen)) fabDev) (fun t => t.mem = [] ∧ regGet t 0xB000010 = 1) = true ∧
    reaches fabDev (pk 2 0x400F0 1 []) 0x02 = true ∧ (fabricStop fabDev (pk 2 0x400F0 1 []) 16 false).isNone = true ∧
    ok (exec (.fabricRead (pk 2 0x400F0 1 [])) fabDev) (fun t => regGet t 0xB000010 = 0) = true ∧
    requestOk (pk 2 0x400F0 2 []) 32 = false ∧ ok (exec (.fabricRead (pk 2 0x400F0 2 [])) fabDev) (fun t => regGet t 0xB000010 = 1) = true ∧
    (let s := regPut fabDev 0 (4 * 2 ^ 28)
     resetting s = true ∧ heldBytes s + pkSize (pk 1 0x400F0 1 sixteen) ≤ 262144 ∧ reaches s (pk 1 0x400F0 1 sixteen) 0x01 = true ∧
     ok (exec (.fabricWrite (pk 1 0x400F0 1 sixteen)) s) (fun t => t.fab.held.length = 1 ∧ regGet t 0xB000014 = 1) = true) ∧
    (let s := { fabDev with elapsed := 2000000, fab := { fabDev.fab with held := [(pk 1 0x400F0 1 sixteen, 0)] } }
     s.rrp.heldMsgs = [] ∧ ok (exec .holdTimeout s) (fun t => t.fab.held = [] ∧ regGet t 0xB000010 = 1) = true) ∧
    reaches fabDev (pk 0x0B 0 0 []) 0x0B = true ∧
    ok (exec (.reconcileReq 0 (pk 0x0B 0 0 [])) fabDev) (fun t => regGet t 0xB000010 = 0) = true := by decide +kernel

theorem witness_FabricRequestsAndResponses_responses :
    reaches (asked (outReq 2)) (pk 3 0 1 sixteen) 0x03 = true ∧ (answered (asked (outReq 2)) (pk 3 0 1 sixteen)) = some (outReq 2) ∧
    (workGet (asked (outReq 2)) 16).isSome = true ∧
    ok (exec (.readData (pk 3 0 1 sixteen)) (asked (outReq 2))) (fun t => (workGet t 16).map (·.buf) = some [(0x40000, sixteen)] ∧
      t.fab.outstanding = []) = true ∧
    reaches (asked (outReq 1)) (pk 4 0 0 []) 0x04 = true ∧
    ok (exec (.done (pk 4 0 0 [])) (asked (outReq 1))) (fun t => t.fab.outstanding = []) = true ∧ answered fabDev (pk 4 0 0 []) = none ∧
    ok (exec (.done (pk 4 0 0 [])) fabDev) (fun t => regGet t 0xB000018 = 1) = true ∧
    reaches (asked (outReq 6)) (pk 5 4 0 []) 0x05 = true ∧ resent (outReq 6) = true ∧ resent (outReq 1) = false ∧
    ok (exec (.refuse (pk 5 4 0 [])) (asked (outReq 6))) (fun t => t.fab.outstanding.length = 1 ∧ regGet t 0xB000010 = 0x10000) = true ∧
    ok (exec (.refuse (pk 5 4 0 [])) (asked (outReq 1))) (fun t => t.fab.outstanding = [] ∧ t.works = []) = true ∧
    e2eTimeout (asked (outReq 1)) ≤ (asked (outReq 1)).elapsed - 0 ∧
    ok (exec (.e2eTimeout 77) (asked { outReq 1 with wid := none })) (fun t => t.fab.outstanding = []) = true ∧
    (let s := { streamPut (asked { outReq 1 with stream := 5 }) 5 running with
        works := [(16, { mkWork 0 [] with pair := none, stream := 5, op := some (plainOp [] []) })] }
     (workGet s 16).map (fun w => (w.pair, w.op.isSome)) = some (none, true) ∧
     ok (exec (.e2eTimeout 77) s) (fun t => t.fab.outstanding = [] ∧
       (streamGet t 5).faulting.map (fun x => (x.1.cause, x.1.addr)) = some (0x0B, 0x40000)) = true) ∧
    ok (exec (.e2eTimeout 77) (asked (outReq 1))) (fun t => t.works = [] ∧ t.fab.outstanding = []) = true ∧
    ((asked (outReq 6)).fab.outstanding.filter fun r => resent r && decide (1000000 ≤ (asked (outReq 6)).elapsed - r.sent)) = [outReq 6] ∧
    (match routeOut (asked (outReq 6)) (outReq 6).packet with | .ok _ => true | _ => false) = true ∧
    ok (exec .assocResend (asked (outReq 6))) (fun t => t.fab.outstanding.map (·.sent) = [4000000]) = true := by decide +kernel

def txFrame (seq : Nat) : TxFrame := ⟨seq, leBytes 256 0, [], 0, 0, 0, 0⟩

/-- Port 0 up with frames 4095 and 0 unacknowledged, 3 cells of channel 9 consumed. -/
def linked : State :=
  { fabDev with elapsed := 1000000, fab := { fabDev.fab with
    ports := modAt fabDev.fab.ports 0 fun x => { x with
      retry := [txFrame 4095, txFrame 0], rxSeq := 7, consumed := List.replicate 10 3, returned := List.replicate 10 0 } } }

/-- A link frame as it comes, with its CRC. -/
def rxFrame (seq ack cvc ccnt : Nat) (body : List Byte) : LinkFrameIn :=
  let b := leBytes 4 (seq + 2 ^ 12 * ack + 2 ^ 24 * cvc + 2 ^ 28 * ccnt) ++ body
  ⟨true, 0, b ++ leBytes 4 (crc32 b)⟩

/-- A body of NULL packets, and one that holds a packet whose last 16 bytes come in the next frame. -/
def nullBody : List Byte := leBytes 256 0

def partBody : List Byte := (pkBytes (pk 1 0x400F0 16 (leBytes 256 5))).take 256

theorem witness_LinkFramesAreRetriedAndCredited :
    fabUp linked 0 = true ∧ 0 < linked.fab.ports.length ∧ (portGet linked 0).queue = [] ∧ (portGet linked 0).rxSeq = 7 ∧
    ok (exec (.linkFrame 0 { rxFrame 7 0 0 0 nullBody with decoded := false }) linked) (fun t => regGet t 0xB001010 = 1) = true ∧
    rxCvc (rxFrame 7 0 10 1 nullBody) = 10 ∧ rxCcnt (rxFrame 7 0 10 1 nullBody) = 1 ∧
    ok (exec (.linkFrame 0 (rxFrame 7 0 10 1 nullBody)) linked) (fun t => regGet t 0xB001010 = 1) = true ∧
    (portGet linked 0).rxPart = [] ∧ rxCrcOk (rxFrame 7 0 0 0 nullBody) = true ∧ rxIdle (rxFrame 7 0 0 0 nullBody) [] = true ∧
    rxSeqOf (rxFrame 7 0 0 0 nullBody) = 7 ∧
    ok (exec (.linkFrame 0 (rxFrame 7 0 0 0 nullBody)) linked) (fun t => (portGet t 0).retry.map (·.seq) = [0] ∧
      (portGet t 0).rxSeq = 7) = true ∧
    rxCrcOk (rxFrame 7 0 9 2 partBody) = true ∧ rxIdle (rxFrame 7 0 9 2 partBody) [] = false ∧ (rxCut (rxFrame 7 0 9 2 partBody) []).1 = [] ∧
    rxCvc (rxFrame 7 0 9 2 partBody) ≤ 9 ∧
    ok (exec (.linkFrame 0 (rxFrame 7 0 9 2 partBody)) linked) (fun t => (portGet t 0).retry.map (·.seq) = [0] ∧
      (portGet t 0).rxSeq = 8 ∧ (portGet t 0).rxPart = partBody ∧ (portGet t 0).returned.getD 9 0 = 2) = true ∧
    (portGet linked 0).retry ≠ [] ∧ ok (exec (.linkRetry 0 0) linked) (fun t => (portGet t 0).retry.map (fun x => (x.seq, x.resent)) = [(0, 1)]) = true ∧
    (portGet linked 0).retry = txFrame 4095 :: [txFrame 0] ∧
    (if f (fabCfg linked 0) 23 16 = 0 then 8 else f (fabCfg linked 0) 23 16) * 1000 ≤ linked.elapsed - 0 ∧
    ok (exec (.linkAckTimeout 0) linked) (fun t => (portGet t 0).retry.map (·.resent) = [1, 1] ∧ regGet t 0xB001008 = 2) = true ∧
    (portGet linked 0).returned.length = 10 ∧
    ok (exec (.credit 0 9 5) linked) (fun t => (portGet t 0).returned.getD 9 0 = 3 ∧ (portGet t 0).returned.getD 8 0 = 0) = true := by
  decide +kernel

def training (good attempts : Nat) : State :=
  { withRegs ring [(0xB001004 + 5 * 0x40, 2 ^ 29)] with
    fab := { ring.fab with ports := modAt ring.fab.ports 5 fun x => { x with good := good, attempts := attempts } } }

def identBytes (port : Nat) : List Byte := leBytes 8 0x1122334455667788 ++ leBytes 2 9 ++ leBytes 1 port ++ [0] ++ leBytes 20 16 ++ leBytes 32 0

theorem witness_FabricPortsTrainFailAndReroute_training :
    fabState (training 0 0) 5 = 1 ∧ powered (training 0 0) 1 = true ∧ tget (training 0 0).tokens 15 = none ∧ 5 < (training 0 0).fab.ports.length ∧
    ok (exec (.portTraining 5 ⟨true, 3, true⟩) (training 0 0)) (fun t => (portGet t 5).good = 3 ∧ f (fabStatus t 5) 28 27 = 1 ∧
      bitOf (fabStatus t 5) 22) = true ∧
    ok (exec (.portTraining 5 ⟨false, 0, false⟩) (training 0 1)) (fun t => (portGet t 5).attempts = 2 ∧ fabState t 5 = 1) = true ∧
    (portGet (training 15 0) 5).good ≠ 0 ∧ (identBytes 4).length = 64 ∧ (portGet (training 15 0) 5).recorded = none ∧
    ok (exec (.ident 5 (identBytes 4)) (training 15 0)) (fun t => fabState t 5 = 2 ∧ reg64 t (0xB001018 + 5 * 0x40) = 0x1122334455667788) = true ∧
    ok (exec (.ident 5 (identBytes 5)) (training 15 0)) (fun t => fabState t 5 = 5) = true := by decide +kernel

/-- Port 0 has failed, with frames unacknowledged. -/
def failed : State :=
  { withRegs linked [(0xB001004, 3 * 2 ^ 29), (0xB001000, 2 ^ 30)] with
    elapsed := 20000000000, fab := { linked.fab with
      ports := modAt linked.fab.ports 0 fun x => { x with recon := true, retrySince := some 0, retry := [{ txFrame 0 with packets := [pk 1 0 0 []] }] } } }

theorem witness_FabricPortsTrainFailAndReroute_failures :
    fabUp linked 0 = true ∧ ok (exec (.portDown 0 1) linked) (fun t => fabState t 0 = 3 ∧ regGet t 0xB001014 = 1) = true ∧
    (portGet failed 0).recon = true ∧ reaches failed (pk 0x0C 0 0 []) 0x0C = true ∧
    (∀ fr ∈ (portGet failed 0).retry, ¬(0 < (fr.seq + 4096 - 0) % 4096 ∧ (fr.seq + 4096 - 0) % 4096 ≤ 1024)) ∧
    ok (exec (.reconcileRsp 0 (pk 0x0C 0 0 [])) failed) (fun t => (portGet t 0).retry = []) = true ∧
    ((portGet failed 0).retry.filter fun fr => decide (0 < (fr.seq + 4096 - 4095) % 4096 ∧ (fr.seq + 4096 - 4095) % 4096 ≤ 1024)).length = 1 ∧
    reaches failed (pk 0x0C 4095 0 []) 0x0C = true ∧
    ok (exec (.reconcileRsp 0 (pk 0x0C 4095 0 [])) failed) (fun t => (portGet t 0).retry = [] ∧ (portGet t 0).recon = false) = true ∧
    (portGet failed 0).retrySince = some 0 ∧ 1000000 ≤ failed.elapsed - 0 ∧
    ok (exec (.reconcileTimeout 0) failed) (fun t => regGet t 0xB000018 = 1 ∧ t.log.map (·.code) = [0x0208]) = true ∧
    fabUp fabDev 0 = true ∧ ownNode fabDev = 4 ∧ fabDev.fab.notices = [] ∧
    ok (exec (.routeNotice 0 9 1 3 50) fabDev) (fun t => t.fab.notices = [(9, 1, 50)] ∧ t.fab.excluded = [(9, 1)] ∧ t.fab.rebuild) = true ∧
    (let s := { fabDev with fab := { fabDev.fab with rebuild := true, excluded := [(9, 1)] } }
     (∀ p ∈ List.range 6, fabUp s p = false → (portGet s p).queue = []) ∧ tget s.tokens 16 = none ∧
     ok (exec .routeRebuild s) (fun t => t.fab.built = [(9, 1)] ∧ t.fab.rebuild = false ∧ regGet t 0xB00000C = 1) = true) ∧
    fabState failed 0 = 3 ∧ bitOf (fabCfg failed 0) 30 = true ∧ tokenConflict failed 5 0 = none ∧
    10 * 1000000000 ≤ failed.elapsed - (portGet failed 0).lastFrame ∧
    ok (exec (.portRetrain 0) failed) (fun t => fabState t 0 = 1 ∧ t.tokens = [(10, ⟨5, 0, false⟩)]) = true := by decide +kernel

/-- 12, worked example: the header of the first hop of a write of 256 bytes. -/
theorem test_packet_header :
    pkHeader ⟨1, 0, false, 0x371, 0x138, 5, 16, 0x4000123400, 0, 0x107, leBytes 256 0⟩ =
      [0x01, 0x00, 0x71, 0x03, 0x38, 0x01, 0x05, 0x10, 0x00, 0x34, 0x12, 0x00, 0x40, 0x00, 0x07, 0x01] := by decide +kernel

/-! ### Security -/

/-- A security request: input at 0x44000, output at 0x45000, result word at 0x4A000. -/
def secDev (op inLen outLen sub : Nat) : State :=
  { ring with
    works := [(16, mkWork 0 (strDesc op 0 (leBytes 8 (if inLen = 0 then 0 else 0x44000) ++ leBytes 8 (if outLen = 0 then 0 else 0x45000) ++
      leBytes 4 inLen ++ leBytes 4 outLen ++ leBytes 8 0x4A000 ++ leBytes 1 sub ++ leBytes 23 0)))],
    mem := memPutN [] 0x44000 [4, 0x61, 0x62, 0x63, 0x64] }

def starts (s : State) (op : Nat) : Bool := match secStart s 16 op with | .ok _ => true | _ => false

def owned : State :=
  let s := secDev 0x27 0 7795 1
  { s with sec := { s.sec with owner := some ⟨[7], 1, [], false, [9]⟩ } }

theorem witness_SecurityRequestsKeysAndDebug_requests :
    starts (secDev 0x20 64 5139 0) 0x20 = true ∧ starts (secDev 0x21 64 4627 0) 0x21 = true ∧ starts (secDev 0x22 1 64 0) 0x22 = true ∧
    starts (secDev 0x23 7481 0 0) 0x23 = true ∧ starts (secDev 0x24 64 128 255) 0x24 = true ∧ starts (secDev 0x25 96 0 6) 0x25 = true ∧
    starts (secDev 0x26 0 4096 0) 0x26 = true ∧ starts (secDev 0x27 0 8723 0) 0x27 = true ∧ starts (secDev 0x27 0 7795 1) 0x27 = true ∧
    starts owned 0x27 = true ∧ owned.sec.owner.isSome = true ∧ (secDev 0x27 0 7795 1).sec.owner = none ∧
    (match devWrite ring (writeBy 0 16) 0x45000 [9, 8] with
     | .ok u => match devWrite u (writeBy 0 16) 0x4A000 (leBytes 1 0 ++ leBytes 3 0 ++ leBytes 4 2 ++ leBytes 8 0) with | .ok _ => true | _ => false
     | _ => false) = true ∧ Memory.wf ring.mem = true ∧ 0x45000 + 2 ≤ 0x4A000 := by decide +kernel

theorem witness_SecurityRequestsKeysAndDebug_results :
    ok (exec (.verify 16 false) (secDev 0x23 7481 0 0)) (fun t => t.works = [] ∧ memGetN t.mem 0x4A000 5 = [1, 0, 0, 0, 0] ∧ regGet t 0xE000074 = 1) = true ∧
    ok (exec (.readCert 16) (secDev 0x27 0 7795 1)) (fun t => t.works = [] ∧ memGetN t.mem 0x4A000 5 = [4, 0, 0, 0, 0]) = true ∧
    1 ≤ leAt [4, 0x61] 0 1 ∧ leAt [4, 0x61] 0 1 ≤ 32 ∧ bitOf 6 0 = false ∧ pairRemote (secDev 0x25 96 0 6) 0 = false ∧
    ok (exec (.macsecCak 16 none) (secDev 0x25 96 0 6)) (fun t => t.works = [] ∧ hasCak t 1 1 ∧ t.sec.caks.map (·.ckn) = [[0x61, 0x62, 0x63, 0x64]] ∧
      t.log.map (·.code) = [0x0607]) = true ∧
    ok (exec (.random 16) (secDev 0x26 0 16 0)) (fun t => t.works = []) = true := by decide +kernel

def keyed : State :=
  { dev with sec := { dev.sec with keyReady := true, caks := [⟨1, 0, [7], [8]⟩, ⟨1, 1, [7], [9]⟩], secondary := [false, false],
                                   live := [false, true], rotations := [0, 0xFFFF] } }

theorem witness_SecurityRequestsKeysAndDebug_keys :
    hasCak keyed 1 0 = true ∧ hasCak keyed 1 1 = true ∧ keyed.sec.secondary[1]? = some false ∧
    ok (exec (.mkaFailover 1) keyed) (fun t => t.sec.secondary = [false, true] ∧ t.sec.live = [false, false]) = true ∧
    hasCak keyed 1 (b2n (keyed.sec.secondary.getD 1 false)) = true ∧ keyed.sec.rotations[1]? = some 0xFFFF ∧
    ok (exec (.sakRotate 1) keyed) (fun t => t.sec.rotations = [0, 0xFFFF]) = true ∧ keyed.sec.keyReady = true ∧ keyed.sec.debug = false ∧
    ok (exec (.debugUnlock true) keyed) (fun t => t.sec.debug ∧ t.log.map (·.code) = [0x0606]) = true ∧
    ok (exec (.debugUnlock false) keyed) (fun t => t.sec.debug = false ∧ t.log = []) = true := by decide +kernel

/-- The device identifier is that of a short record, so that the kernel can compute it. -/
def openable : State :=
  let s := regPut { dev with boot := { dev.boot with nor := { dev.boot.nor with bytes := [1] } } } 0xC004004 1
  let b := leBytes 4 1 ++ leBytes 4 0 ++ (idDigest s).take 8 ++ leBytes 4 9 ++ leBytes 44 0
  { s with rrp := { s.rrp with fragSession := 9, fragCount := 1, frags := [(0, b)], fragTime := 500 } }

theorem witness_OpenTakesTheDeviceOver_accepted :
    fragsWhole openable = true ∧ resetting openable = false ∧ openFail openable (openBody openable) true = none ∧ remoteWorks openable = [] ∧
    ((List.range 64).all fun p => !pairRemote openable p) = true ∧ openable.boot.topoLeft = 0 ∧ rrpUnbound openable = false ∧
    ok (exec (.open_ true) openable) (fun t => t.rrp.state = 1 ∧ t.rrp.session = 9 ∧ t.rrp.rxSeq = 1 ∧ t.rrp.unacked.map (·.type) = [2]) = true := by
  decide +kernel

/-! ### Arithmetic and places, and worked examples of the manual -/

theorem witness_MemoryBlocksHaveTheirOwnPlaces :
    region 0x4002001000 = .leek 1 ∧ leekBank 0x4002001000 = 33 ∧ region (0x4002001000 + 4096) = .leek 1 ∧
    ddrChannel 0x12340 = 13 ∧ ddrPlace 0x12340 = (0x1400, 0x1780) ∧ (0x12340 : Nat) / 64 ≠ 0x12740 / 64 := by decide +kernel

theorem witness_AlignmentRoundsToNearestEven :
    alignTotal 5 1 = 10 ∧ alignTotal 5 (-1) = 2 ∧ alignTotal 7 (-1) = 4 ∧ alignTotal (-5) (-1) = -2 := by decide +kernel

/-- 04 R120: one channel, weights and patch written out: the four sums of the direct form. -/
theorem test_winograd_tile :
    winoTile [(grid 3 3 fun y x => (3 * y + x : Nat), grid 4 4 fun y x => (4 * y + x : Nat))] = [[258, 294], [402, 438]] := by decide +kernel

/-! ### Well-formedness: an ill-formed command for each check, and a well-formed one beside it -/

def pkt0 : Packet := ⟨0, 0, false, 1, 2, 1, 0, 0, 0, 0, []⟩

def hdrOf (session seq ack : Nat) : RrpHdr := ⟨[0, 0, 0, 0], 0, false, session, seq, ack⟩

def hdr1 : RrpHdr := hdrOf 1 1 0

def noFrame : LinkFrameIn := ⟨true, 0, leBytes 264 0⟩

def noEth : EthFrameIn := frame .arp

def badCmds1 : List Instr :=
  [.registerWrite .core (2 ^ 40) 4 0, .loReadCapture .core (2 ^ 40) 4, .rcCounterRead .core (2 ^ 40) 4,
   .resetNRelease 8 ⟨[], true, true⟩, .wavePowerUp 8 true, .podSelfTestDone [(104, 1)], .podSelfTestDone [(0, 5)], .podSelfTestDone [(0, 0)],
   .lpddrTrainingDone 129 0, .lpddrTrainingDone 64 (2 ^ 16), .offer (.fabric 6) 1 0, .offer (.eth 2 []) 1 0, .pull 6 1 0 0,
   .relayData (.fabric 6) 0 0 [], .relayData (.eth 0 []) 0 0 (List.replicate 1025 0), .sqDb .core 64 0, .cqDb .core 64 0, .resDb .core 0 0,
   .pairCfgWrite .core 64 0, .prefetchBlock 0 1 0 0 0 noErrs, .prefetchBlock 1 1 (2 ^ 40) 0 0 noErrs,
   .prefetchBlock 1 1 0 (2 ^ 40) 0 noErrs, .multicastSlotRelease (2 ^ 40) 0, .multicastSlotRelease 0 96, .partialCombine 0 0 0 noErrs, .bandCounterWake 0 0 0 0 0, .bandCounterWake 1 96 0 0 0,
   .tileCompletion 1 96 0, .bandReady 0 [] [], .bandReady 1 [⟨2 ^ 40, [], none, none, [], []⟩] [],
   .bandReady 1 [⟨0, [], none, some ⟨true, 0, 4096, 0, 0, 0, 0, []⟩, [], []⟩] [], .bandReady 1 [] [⟨0, .commit 2 0⟩], .bandReady 1 [] [⟨0, .commit 0 (2 ^ 40)⟩],
   .bandReady 1 [] [⟨0, .alloc 8⟩], .bandReady 1 [] [⟨0, .free 8 0⟩], .bandReady 1 [] [⟨0, .free 0 4096⟩], .bandKept 0 [], .streamDrained 128, .admit_ 1 ⟨true, [{ Sched.none with fedBy := 128 }], noErrs⟩,
   .admit_ 1 ⟨true, [{ Sched.none with group := 16 }], noErrs⟩,
   .streamFault 0 ⟨0, 0, 0, 0, 0, 0, false, none⟩, .haltRecord 0, .cameraAck 1 256 [], .completionWrite 64, .resultRecordWrite 0,
   .coalesceTimer 64]

def badCmds2 : List Instr :=
  [.doorbell (hdrOf 0 1 0) 0 0 0, .doorbell (hdrOf (2 ^ 32) 1 0) 0 0 0, .doorbell (hdrOf 1 (2 ^ 32) 0) 0 0 0,
   .doorbell (hdrOf 1 1 (2 ^ 32)) 0 0 0, .doorbell { hdr1 with src := [] } 0 0 0,
   .doorbell hdr1 3 0 0, .doorbell hdr1 0 256 0, .readResp hdr1 0 (List.replicate 1025 0), .readResp (hdrOf 0 0 0) 0 [], .ack (hdrOf 0 0 0),
   .regRead hdr1 (2 ^ 40), .regRead (hdrOf 0 0 0) 0, .regWrite hdr1 (2 ^ 40) 0, .regWrite (hdrOf 0 0 0) 0 0, .keepalive (hdrOf 0 0 0),
   .lineHeader 16 0 0 false false false, .lineArrival 16 [] false, .cameraLinkUp 16 0 0, .cameraLinkUp 0 3 0, .cameraLinkUp 0 0 7,
   .cameraEventPacket 16 [], .cameraEventPacket 0 (List.replicate 249 0), .cameraLoss 16 false, .encoderEdge 2 .fwd, .triggerDeferred 16,
   .linePositionEval 16, .outputLine 16, .standstill 16, .areaFrame 16, .lineReserveRelease 16, .degradeStep 0, .lineDueDeadline 16,
   .returnStep 128, .detection 0 ⟨List.replicate 32 0, none⟩, .detection 1 ⟨[], none⟩, .watermark 0 0 0, .watermark 16 0 0, .sourceTimeout 0 0,
   .sourceTimeout 16 0, .criticalCompare 0 0 ⟨[], [], [], noErrs⟩, .criticalCompare 1 0 ⟨[], [], [⟨0, [2 ^ 40], none, none, [], []⟩], noErrs⟩,
   .criticalThirdRun 0 0 ⟨[], [], [], noErrs⟩, .spoolBufferRequest 0 (.take 1), .spillRestore 0,
   .selfRefreshEntry 8, .rtbW3Write .core 0 0, .rtbW3Write .core 16 0, .windowCtrlWrite .core 256 0, .autoRefill 0, .poolAlloc .core 8,
   .poolFree .core 8 0, .leekHalfPowerDown 2]

def badCmds3 : List Instr :=
  [.displayEnable 2 [] false, .displayDisable .core 2, .hpdEvent 2 .high, .auxCmd .core 2 0, .auxDone 2 ⟨0, []⟩, .commit .core 2 0, .frameLatch 2,
   .frameStart 2, .underrun 2, .linkFrame 6 noFrame, .linkAckTimeout 6, .linkRetry 6 0, .credit 6 0 0, .credit 0 10 0, .ident 6 [],
   .fabricWrite { pkt0 with vc := 10 }, .fabricRead { pkt0 with dst := 4096 }, .readData { pkt0 with src := 4096 }, .done { pkt0 with stream := 128 },
   .refuse { pkt0 with addr := 2 ^ 40 }, .assoc { pkt0 with tag := 2 ^ 16 }, .wmark { pkt0 with vc := 10 }, .e2eTimeout (2 ^ 16), .portTraining 6 ⟨true, 0, false⟩,
   .portDown 6 1, .portDown 0 0, .portDown 0 4, .reconcileReq 6 pkt0, .reconcileReq 0 { pkt0 with vc := 10 }, .reconcileRsp 6 pkt0,
   .reconcileRsp 0 { pkt0 with vc := 10 }, .reconcileTimeout 6, .routeNotice 6 0 0 0 0, .portRetrain 6, .ethFrame 2 noEth,
   .gptpMessage ⟨2, 0, true, 0⟩, .qbvCycleStart 2, .mkaFailover 2, .sakRotate 2, .governorTick [] 0 true, .thermalTick [], .supplyFault 11 0,
   .pllLockLoss 12 0, .podFailure 104 true, .wake 3 true, .maintPeriodicStart 0 0, .maintPeriodicStart 8 0, .maintUnitDone 19 false false noErrs,
   .cameraHeartbeat 16, .ethernetLinkChange 2 true, .pllRelock 12 0, .supplyRestored 11, .selfRefreshExit 8, .wckDqCheck 16, .perBankRefresh 16 0,
   .coreMemoryAccess (.load (2 ^ 40) 1) noErrs, .coreMemoryAccess (.store (2 ^ 40) []) noErrs,
   .coreMemoryAccess (.atomicOr 0 []) noErrs, .coreMemoryAccess (.atomicAdd 0 [1, 2, 3]) noErrs]

theorem test_ill_formed_commands_are_refused :
    ((badCmds1 ++ badCmds2 ++ badCmds3).any Instr.wf) = false := by decide +kernel

theorem test_boundary_commands_are_well_formed :
    ([.registerWrite .core (2 ^ 40 - 1) 4 0, .resetNRelease 7 ⟨[], true, true⟩, .podSelfTestDone [(103, 4)], .sqDb .core 63 0, .resDb .core 127 0,
      .bandReady 127 [] [⟨0, .commit 1 0⟩, ⟨0, .alloc 7⟩, ⟨0, .free 7 4095⟩], .doorbell hdr1 2 255 0, .cameraLinkUp 15 2 6, .detection 1 ⟨List.replicate 32 0, none⟩,
      .windowCtrlWrite .core 255 0, .credit 5 9 0, .fabricWrite pkt0, .portDown 5 3, .governorTick (List.replicate 104 0) 0 true, .supplyFault 10 0,
      .maintPeriodicStart 7 0, .maintUnitDone 18 false false noErrs, .powerUp true true true, .nop 0] : List Instr).all Instr.wf = true := by
  decide +kernel

/-! ### Worked examples of the manual -/

/-- 08, one element in each mode: the 24-bit forms, their bytes in the Fast block, and the two sums. -/
theorem test_partials_of_one_element :
    fastForm 149999617 = (10, 146484, false) ∧ fastForm (-100454400) = (9, -196200, false) ∧
    partialBytes false 149999617 = [0x34, 0x3C, 0x52] ∧ partialBytes false (-100454400) = [0x98, 0x01, 0x4D] ∧
    (combine true true [149999617, -100454400]).v = 49545217 ∧ (combine true false [149999617, -100454400]).v = 49545216 ∧
    roundEven 49545217 19 = 0x5F ∧ roundEven 49545216 19 = 0x5E := by decide +kernel

/-- 09, a wrap on a remote pair: completion 64 of a ring of 64, of tag 0x105 of stream 5 in scoreboard slot 17. -/
theorem test_completion_after_a_wrap :
    complBytes { withRegs dev [(0x50010D0, 0xD0060600)] with time := 1000000000, pairs := [(3, { Pair.reset with cqTail := 64 })] } 3
        ⟨none, 0x105, 0, 2, 5, false, some 17, 0, false⟩ =
      [0x05, 0x01, 0x00, 0x00, 0x00, 0x02, 0x05, 0x03, 0x11, 0x00, 0x00, 0x00, 0x00, 0xCA, 0x9A, 0x3B] := by decide +kernel

/-- 02 and 05, the latency of W1: 6,689 µs, and 4,689 µs with the smallest reserve. -/
theorem test_latency_of_w1 :
    (let c : Cost := { Cost.zero with latBands := 5, bandLines := 64, latFixed := 22000 }
     (latencyBound c 120000 4000, latencyBound c 120000 2000)) = (6689, 4689) := by decide +kernel

/-- A node of a 10 × 10 × 4 torus. -/
def torus (node : Nat) : State :=
  withRegs dev [(0xB000000, 0x80000000 + node), (0xB000004, 0x399)]

/-- 12, a route around a failed link: + X from 0x138, then + Y and + Z; the dateline lies ahead on X only; and with port 0 of
node (9, 3, 1) excluded the way from 0x138 is - X, which crosses none. -/
theorem test_route_around_a_failed_link :
    ((nextHop (torus 0x138) 0x371).toOption, (nextHop (torus 0x131) 0x371).toOption, (nextHop (torus 0x171) 0x371).toOption) =
      (some 0, some 2, some 4) ∧
    (crossesDateline (torus 0x138) 0x371 0, crossesDateline (torus 0x139) 0x371 0, crossesDateline (torus 0x130) 0x371 0) = (true, true, false) ∧
    (let s := { torus 0x138 with fab := { (torus 0x138).fab with built := [(0x139, 0)] } }
     ((nextHop s 0x371).toOption, crossesDateline s 0x371 1)) = (some 1, false) := by decide +kernel

/-- 07, W1 at 270 km/h: i = 1002, phase 26, spacing 40,960; the next position takes i = 1003 and phase 13; bank 1 at th1 = 64. -/
theorem test_taps_of_w1 :
    (let l (j : Nat) : PosLine := ⟨⟨1000 + j, 0, false, false, false, 0, false, false, 0, none, false⟩, 65536000000 + 40960 * j⟩
     let ls := [l 4, l 3, l 2, l 1, l 0]
     (selectTap false ls ls (2000003 * 32768), selectTap false ls ls (2000004 * 32768))) = (some ⟨1002, 26, 40960⟩, some ⟨1003, 13, 40960⟩) ∧
    bankOf 64 40960 32768 = 1 ∧ (outHeader ⟨[], 0, 3, 0, 0, 26 + 64, 320⟩ 0).drop 24 = [0x5A, 0, 0x40, 0x01, 0, 0, 0, 0] := by decide +kernel

/-- 03, ties settle before range: 254 takes k = 1, 255 takes k = 2. -/
theorem test_measured_exponents : measureExp 254 0 true = 1 ∧ measureExp 255 0 true = 2 ∧ measureExp 0 5 true = -32 := by decide +kernel

/-- 14, a pod fails in W1: the log entry's bytes. -/
theorem test_log_entry_bytes :
    (⟨80000000000, 0x0201, 1, 2, 0x00612728⟩ : LogEntry).bytes =
      [0x00, 0x20, 0x5F, 0xA0, 0x12, 0x00, 0x00, 0x00, 0x01, 0x02, 0x01, 0x02, 0x28, 0x27, 0x61, 0x00] := by decide +kernel

end Sys2Proof.Tests
end

