-- ==== Sys2Proof/Proofs/BusErrors.lean ====
section
/-! An access that names no register (00 R11): what the bus answers, for a write and for a read. -/
namespace Sys2Proof.Machine

/-! ### The three register accesses are accesses of the bus -/

@[simp] theorem exec_registerWrite (w : Writer) (addr width : Nat) (v : Word) (s : State) :
    exec (.registerWrite w addr width v) s = .next (busWrite s w addr width v) := rfl

@[simp] theorem exec_loReadCapture (w : Writer) (addr width : Nat) (s : State) :
    exec (.loReadCapture w addr width) s = .next (busRead s w addr width) := rfl

@[simp] theorem exec_rcCounterRead (w : Writer) (addr width : Nat) (s : State) :
    exec (.rcCounterRead w addr width) s = .next (busRead s w addr width) := rfl

/-! ### Which accesses name no register -/

/-- The offset of an address within the register region (02 R30). -/
theorem regOffset_of_mem_region {addr : Nat} (h : 0x6000000000 ≤ addr ∧ addr < 0x6010000000) :
    regOffset addr = some (addr - 0x6000000000) := if_pos h

theorem namedReg_of_not_aligned_word {addr width : Nat} (h : width ≠ 4 ∨ addr % 4 ≠ 0) :
    namedReg addr width = none := if_pos h

theorem namedReg_of_hole {addr a : Nat} (width : Nat) (ha : regOffset addr = some a) (hf : findReg a = none) :
    namedReg addr width = none := by
  unfold namedReg
  split
  · rfl
  · rw [ha]; exact hf

/-! ### What the bus answers where no register is named -/

/-- Of the three things that a bus write can do, only the error response is left to an awake writer. -/
theorem busWrite_of_namedReg_none {s : State} {w : Writer} {addr width : Nat} (v : Word)
    (hw : awake s w = true) (hn : namedReg addr width = none) :
    busWrite s w addr width v = answer s 0 true := by
  rcases busWrite_cases s w addr width v with ⟨asleep, -⟩ | ⟨-, hb⟩ | ⟨r, i, a, hr, -⟩
  · rw [hw] at asleep; cases asleep
  · exact hb
  · rw [hn] at hr; cases hr

theorem busRead_of_namedReg_none {s : State} {w : Writer} {addr width : Nat}
    (hw : awake s w = true) (hn : namedReg addr width = none) :
    busRead s w addr width = answer s 0 true := by
  simp [busRead, hw, hn]

/-- Settles O11: an access of another width, a misaligned one and one at an offset that holds no register all name no
register, and the bus answers each with an error. -/
theorem accessNamingNoRegisterAnswersError : Obligations.AccessNamingNoRegisterAnswersError := by
  intro w addr width v s hw hbad
  have hn : namedReg addr width = none := by
    rcases hbad with hwidth | halign | ⟨hlo, hhi, hfind⟩
    · exact namedReg_of_not_aligned_word (.inl hwidth)
    · exact namedReg_of_not_aligned_word (.inr halign)
    · exact namedReg_of_hole width (regOffset_of_mem_region ⟨hlo, hhi⟩) hfind
  have hread := busRead_of_namedReg_none hw hn
  refine ⟨?_, ?_, ?_⟩
  · rw [exec_registerWrite, busWrite_of_namedReg_none v hw hn]; rfl
  · rw [exec_loReadCapture, hread]; rfl
  · rw [exec_rcCounterRead, hread]; rfl

end Sys2Proof.Machine
end

