-- ==== Sys2Proof/Proofs/MemoryPlaces.lean ====
section
/-! Where memory blocks lie: the bank of a Leek address (02 R31), and the places in its channel of an LPDDR block's data
and check bytes (10 R342). -/
namespace Sys2Proof.Machine

/-! ### The bank of a Leek address -/

/-- The two halves of the Leek are the two blocks of 32 MiB from 0x40_0000_0000 (02 R30). -/
theorem region_eq_leek_iff {a h : Nat} :
    region a = .leek h ↔
      h < 2 ∧ 0x4000000000 + h * 0x2000000 ≤ a ∧ a < 0x4000000000 + (h + 1) * 0x2000000 := by
  unfold region
  split_ifs <;> simp only [Region.leek.injEq, false_iff] <;> omega

theorem f_eq_div_mod (v hi lo : Nat) : f v hi lo = v / 2 ^ lo % 2 ^ (hi + 1 - lo) := by
  rw [f, Nat.shiftRight_eq_div_pow]

theorem leekBank_eq_div_mod (a : Nat) : leekBank a = a / 0x2000000 % 2 * 32 + a / 4096 % 32 := by
  simp only [leekBank, f_eq_div_mod]; rfl

/-- The base of the Leek and the size of a half are multiples of 2 ^ 25, so bit 25 is the half. -/
theorem bit25_of_region_leek {a h : Nat} (ha : region a = .leek h) : a / 0x2000000 % 2 = h := by
  obtain ⟨hh, hlo, hhi⟩ := region_eq_leek_iff.1 ha
  omega

theorem leekBank_of_region {a h : Nat} (ha : region a = .leek h) : leekBank a = h * 32 + a / 4096 % 32 := by
  rw [leekBank_eq_div_mod, bit25_of_region_leek ha]

theorem leekBank_next_block {a h : Nat} (hnext : region (a + 4096) = .leek h) :
    leekBank (a + 4096) = h * 32 + (a / 4096 + 1) % 32 := by
  rw [leekBank_of_region hnext, Nat.add_div_right a (by decide)]

/-! ### The page and the slot of an LPDDR block -/

/-- The page of 2 KiB of its channel that holds an LPDDR block (10 R342). -/
def ddrPage (a : Nat) : Nat := a / 64 / 16 / 28

/-- The slot of an LPDDR block in its page (10 R342). -/
def ddrSlot (a : Nat) : Nat := a / 64 / 16 % 28

theorem ddrSlot_lt (a : Nat) : ddrSlot a < 28 := Nat.mod_lt _ (by decide)

theorem ddrPlace_data (a : Nat) : (ddrPlace a).1 = ddrPage a * 2048 + ddrSlot a * 64 := rfl

theorem ddrPlace_check (a : Nat) : (ddrPlace a).2 = ddrPage a * 2048 + 1792 + ddrSlot a * 8 := rfl

/-- Page, slot and channel together are the number of the block. -/
theorem ddrPage_slot_channel (a : Nat) : (ddrPage a * 28 + ddrSlot a) * 16 + ddrChannel a = a / 64 := by
  rw [ddrPage, ddrSlot, ddrChannel, Nat.div_add_mod', Nat.div_add_mod']

/-- Blocks of one channel differ in their page, or lie in two slots of one page. -/
theorem ddrPage_ne_or_ddrSlot_ne {a b : Nat} (hblock : a / 64 ≠ b / 64) (hchan : ddrChannel a = ddrChannel b) :
    ddrPage a ≠ ddrPage b ∨ ddrPage a = ddrPage b ∧ ddrSlot a ≠ ddrSlot b := by
  by_cases hpage : ddrPage a = ddrPage b
  · refine .inr ⟨hpage, fun hslot => hblock ?_⟩
    rw [← ddrPage_slot_channel a, ← ddrPage_slot_channel b, hpage, hslot, hchan]
  · exact .inl hpage

/-! ### No two places overlap -/

/-- The 28 data slots fill the first 1792 bytes of the page. -/
theorem ddrPlace_data_bounds (a : Nat) :
    ddrPage a * 2048 ≤ (ddrPlace a).1 ∧ (ddrPlace a).1 + 64 ≤ ddrPage a * 2048 + 1792 := by
  have hslot := ddrSlot_lt a
  rw [ddrPlace_data]; omega

/-- The check bytes of the 28 slots lie behind the data, in the same page. -/
theorem ddrPlace_check_bounds (a : Nat) :
    ddrPage a * 2048 + 1792 ≤ (ddrPlace a).2 ∧ (ddrPlace a).2 + 8 ≤ (ddrPage a + 1) * 2048 := by
  have hslot := ddrSlot_lt a
  rw [ddrPlace_check]; omega

theorem ddrPlace_data_disjoint {a b : Nat} (hblock : a / 64 ≠ b / 64) (hchan : ddrChannel a = ddrChannel b) :
    (ddrPlace a).1 + 64 ≤ (ddrPlace b).1 ∨ (ddrPlace b).1 + 64 ≤ (ddrPlace a).1 := by
  rcases ddrPage_ne_or_ddrSlot_ne hblock hchan with hpage | ⟨hpage, hslot⟩
  · have ha := ddrPlace_data_bounds a
    have hb := ddrPlace_data_bounds b
    omega
  · rw [ddrPlace_data, ddrPlace_data, hpage]; omega

theorem ddrPlace_check_disjoint {a b : Nat} (hblock : a / 64 ≠ b / 64) (hchan : ddrChannel a = ddrChannel b) :
    (ddrPlace a).2 + 8 ≤ (ddrPlace b).2 ∨ (ddrPlace b).2 + 8 ≤ (ddrPlace a).2 := by
  rcases ddrPage_ne_or_ddrSlot_ne hblock hchan with hpage | ⟨hpage, hslot⟩
  · have ha := ddrPlace_check_bounds a
    have hb := ddrPlace_check_bounds b
    omega
  · rw [ddrPlace_check, ddrPlace_check, hpage]; omega

theorem ddrPlace_data_check_disjoint (a b : Nat) :
    (ddrPlace a).1 + 64 ≤ (ddrPlace b).2 ∨ (ddrPlace b).2 + 8 ≤ (ddrPlace a).1 := by
  have ha := ddrPlace_data_bounds a
  have hb := ddrPlace_check_bounds b
  omega

/-- Settles O59: bit 25 of a Leek address is its half, and the place of an LPDDR block is that of its slot in its page, by
which the blocks of one channel differ. -/
theorem memoryBlocksHaveTheirOwnPlaces : Obligations.MemoryBlocksHaveTheirOwnPlaces := by
  refine ⟨fun _ _ => leekBank_of_region, fun _ _ _ => leekBank_next_block, ?_, ddrPlace_data_check_disjoint, rfl, rfl⟩
  intro a b hblock hchan
  exact ⟨ddrPlace_data_disjoint hblock hchan, ddrPlace_check_disjoint hblock hchan⟩

end Sys2Proof.Machine
end

