-- ==== Sys2Proof/Proofs/SubmissionDoorbell.lean ====
section
/-! A write of PAIR_n.SQ_DB (09 R284): the register that it names, and what the submission doorbell does with the index. -/
namespace Sys2Proof.Machine

@[simp] theorem exec_sqDb (w : Writer) (p : Nat) (v : Word) (s : State) :
    exec (.sqDb w p v) s = .next (busWrite s w (0x6005001018 + p * 0x40) 4 v) := rfl

/-! ### The register that the doorbell names -/

/-- A table finds the first of its rows that the address hits. -/
theorem findRow_append_cons {before after : List RegRow} {r : RegRow} {a i j : Nat}
    (hbefore : ∀ q ∈ before, q.hit a = none) (hr : r.hit a = some (i, j)) :
    findRow (before ++ r :: after) a = some (r, i, j) := by
  induction before with
  | nil => simp [findRow, hr]
  | cons q rest ih =>
    rw [List.forall_mem_cons] at hbefore
    obtain ⟨hq, hrest⟩ := hbefore
    simp [findRow, hq, ih hrest]

/-- The row stands for a single register. -/
def RegRow.Single (r : RegRow) : Prop := r.n1 = 1 ∧ r.n2 = 1

/-- The row stands for one register of each of the 64 ring pairs, whose registers lie 0x40 apart. -/
def RegRow.OfPairs (r : RegRow) : Prop := r.n1 = 64 ∧ r.s1 = 0x40 ∧ r.n2 = 1 ∧ r.s2 = 0

theorem RegRow.Single.hit_eq_none {r : RegRow} {a : Nat} (h : r.Single) (ha : r.addr < a) : r.hit a = none := by
  obtain ⟨hn1, hn2⟩ := h
  have hne : a - r.addr ≠ 0 := by omega
  simp [RegRow.hit, hn1, hn2, hne]

/-- Of the registers of pair p, a row that stands for one of each pair has the one at its own place of a pair. -/
theorem RegRow.OfPairs.hit_eq {r : RegRow} {place p : Nat} (h : r.OfPairs) (hp : p < 64) (hlo : r.addr ≤ place)
    (hhi : place < r.addr + 0x40) : r.hit (place + p * 0x40) = if place = r.addr then some (p, 0) else none := by
  obtain ⟨hn1, hs1, hn2, hs2⟩ := h
  have hidx : (place + p * 0x40 - r.addr) / 0x40 = p := by omega
  have hrest : (place + p * 0x40 - r.addr) % 0x40 = place - r.addr := by omega
  have hge : ¬ place + p * 0x40 < r.addr := by omega
  have hat : place - r.addr = 0 ↔ place = r.addr := by omega
  simp [RegRow.hit, hn1, hs1, hn2, hs2, hidx, hrest, hge, hp, hat]

/-- The row of RING.PAIR_n.SQ_DB. -/
def sqDbRow : RegRow := ringRows0[10]

/-- The rows that a search for SQ_DB passes: single registers below the pairs, and other registers of a pair. -/
theorem ringRows_before_sqDb : ∀ q ∈ ringRows0.take 10, q.addr < 0x5001018 ∧
    (q.Single ∨ q.OfPairs ∧ 0x5001018 < q.addr + 0x40) := by
  unfold RegRow.Single RegRow.OfPairs
  decide

theorem findReg_sqDb {p : Nat} (hp : p < 64) : findReg (0x5001018 + p * 0x40) = some (sqDbRow, p, 0) := by
  have hblock : (0x5001018 + p * 0x40) / 2 ^ 24 = 5 := by omega
  have hrows : regBlock 5 = ringRows0.take 10 ++ sqDbRow :: (ringRows0.drop 11 ++ ringRows1) := rfl
  rw [findReg, hblock, hrows]
  refine findRow_append_cons ?_ ?_
  · intro q hq
    obtain ⟨hlo, hsingle | ⟨hpairs, hhi⟩⟩ := ringRows_before_sqDb q hq
    · exact hsingle.hit_eq_none (by omega)
    · rw [hpairs.hit_eq hp hlo.le hhi, if_neg hlo.ne']
  · have hpairs : sqDbRow.OfPairs := ⟨rfl, rfl, rfl, rfl⟩
    exact hpairs.hit_eq hp le_rfl (by decide)

theorem namedReg_sqDb {p : Nat} (hp : p < 64) :
    namedReg (0x6005001018 + p * 0x40) 4 = some (sqDbRow, p, 0) := by
  have halign : ¬ (4 ≠ 4 ∨ (0x6005001018 + p * 0x40) % 4 ≠ 0) := by omega
  have hoff : 0x6005001018 + p * 0x40 - 0x6000000000 = 0x5001018 + p * 0x40 := by omega
  rw [namedReg, if_neg halign, regOffset_of_mem_region (by omega), hoff]
  exact findReg_sqDb hp

/-! ### A write that the bus takes -/

theorem busWrite_of_gateWrite {s t : State} {w : Writer} {addr width i j : Nat} {v : Word} {r : RegRow}
    (hw : mayWrite s w = true) (hr : namedReg addr width = some (r, i, j))
    (hlegal : r.legal (v.toNat &&& (r.rw ||| r.wo)) = true)
    (hg : gateWrite s w r i (addr - 0x6000000000) (v.toNat &&& (r.rw ||| r.wo)) = some t) :
    busWrite s w addr width v = answer t 0 false := by
  have hawake : awake s w = true := (Bool.and_eq_true_iff.1 hw).1
  simp [busWrite, hawake, hr, hw, hlegal, hg]

theorem gateWrite_sqDbRow (s : State) (w : Writer) (i a v : Nat) :
    gateWrite s w sqDbRow i a v = some (sqDoorbell s i v) := rfl

/-- Every bit of SQ_DB acts, so the doorbell gets the written index as it is. -/
theorem exec_sqDb_eq_sqDoorbell {s : State} {w : Writer} {p : Nat} (v : Word) (hp : p < 64)
    (hw : mayWrite s w = true) : exec (.sqDb w p v) s = .next (answer (sqDoorbell s p v.toNat) 0 false) := by
  have hv : v.toNat &&& (sqDbRow.rw ||| sqDbRow.wo) = v.toNat := Nat.and_two_pow_sub_one_of_lt_two_pow v.isLt
  rw [exec_sqDb, busWrite_of_gateWrite hw (namedReg_sqDb hp) rfl (gateWrite_sqDbRow ..), hv]

/-! ### The four answers of the submission doorbell -/

theorem sqDoorbell_of_disabled {s : State} {p : Nat} (v : Nat) (he : pairEnabled s p = false) :
    sqDoorbell s p v = logAdd s 0x0214 5 1 p := by
  simp [sqDoorbell, doorbellOff, he]

theorem sqDoorbell_of_behind {s : State} {p v : Nat} (he : pairEnabled s p = true)
    (hb : serialGe 32 (pairGet s p).sqDb v = true) : sqDoorbell s p v = s := by
  simp [sqDoorbell, he, hb]

theorem sqDoorbell_of_within {s : State} {p v : Nat} (he : pairEnabled s p = true)
    (hs : (pairGet s p).stopped = false) (hb : serialGe 32 (pairGet s p).sqDb v = false)
    (hv : (v + 2 ^ 32 - (pairGet s p).fetch) % 2 ^ 32 ≤ 2 ^ sqLog2 s p) :
    sqDoorbell s p v = pairPut s p { pairGet s p with sqDb := v } := by
  simp only [sqDoorbell, he, hs, hb, Nat.not_lt.2 hv]; rfl

theorem sqDoorbell_of_beyond {s : State} {p v : Nat} (he : pairEnabled s p = true)
    (hs : (pairGet s p).stopped = false) (hb : serialGe 32 (pairGet s p).sqDb v = false)
    (hv : 2 ^ sqLog2 s p < (v + 2 ^ 32 - (pairGet s p).fetch) % 2 ^ 32) :
    sqDoorbell s p v = stopPair s p := by
  simp only [sqDoorbell, he, hs, hb, hv]; rfl

/-! ### A pair after a change, and a log after an entry -/

@[simp] theorem pairGet_pairPut_same (s : State) (p : Nat) (x : Pair) : pairGet (pairPut s p x) p = x := by
  simp [pairGet]

theorem pairGet_pairPut_other (s : State) {p q : Nat} (x : Pair) (h : q ≠ p) :
    pairGet (pairPut s p x) q = pairGet s q := by
  simp [pairGet, tget_tset_other _ _ h]

@[simp] theorem pairGet_logAdd (s : State) (code source sev arg p : Nat) :
    pairGet (logAdd s code source sev arg) p = pairGet s p := rfl

theorem logged_logAdd (s : State) (code source sev : Nat) {arg : Nat} (h : arg < 2 ^ 32) :
    logged (logAdd s code source sev arg) code arg :=
  ⟨_, List.mem_cons_self, rfl, Nat.mod_eq_of_lt h⟩

theorem posted_of_stopped {s : State} {p : Nat} (h : (pairGet s p).stopped = true) : posted s p = false := by
  simp [posted, h]

/-- The state in which a pair that stops raises its event: the pair is stopped and the stop is logged. -/
def stopMarked (s : State) (p : Nat) : State :=
  logAdd (pairPut s p { pairGet s p with stopped := true }) 0x0214 5 1 (p + 2 ^ 8)

theorem stopPair_eq (s : State) (p : Nat) : stopPair s p = eventAdd (stopMarked s p) 0x45 p := rfl

@[simp] theorem stopMarked_stopped (s : State) (p : Nat) : (pairGet (stopMarked s p) p).stopped = true := by
  simp [stopMarked]

/-- Settles O23: the bus gives the written index to the doorbell, and each condition of R284 is one of its branches. -/
theorem submissionDoorbellRules : Obligations.SubmissionDoorbellRules := by
  intro w p v s hp hw
  rw [exec_sqDb_eq_sqDoorbell v hp hw]
  refine ⟨?_, ?_, ?_, ?_⟩
  · intro he _ hb
    rw [sqDoorbell_of_behind he hb]; rfl
  · intro he hs hb hv
    rw [sqDoorbell_of_within he hs hb hv]
    exact ⟨_, rfl, rfl, pairGet_pairPut_same .., fun q hq => pairGet_pairPut_other _ _ hq⟩
  · intro he hs hb hv
    rw [sqDoorbell_of_beyond he hs hb hv, stopPair_eq]
    exact ⟨stopMarked s p, rfl, stopMarked_stopped s p, posted_of_stopped (stopMarked_stopped s p), rfl, rfl,
      logged_logAdd _ _ _ _ (by omega)⟩
  · intro he
    rw [sqDoorbell_of_disabled _ he]
    exact ⟨_, rfl, rfl, logged_logAdd _ _ _ _ (by omega)⟩

end Sys2Proof.Machine
end

