-- ==== Sys2Proof/Proofs/PodsKept.lean ====
section
/-! What leaves the pods alone: of the operations that a start runs after its harvest (13 R417), each leaves the ranking of the
pods as the harvest made it. -/
namespace Sys2Proof.Machine

/-- A fold keeps what each of its steps keeps. -/
theorem foldl_keeps {σ α β : Type} {g : σ → α → σ} (proj : σ → β) (h : ∀ s x, proj (g s x) = proj s) (l : List α) (s : σ) :
    proj (l.foldl g s) = proj s :=
  List.foldlRecOn (motive := fun t => proj t = proj s) l g rfl fun t ht x _ => (h t x).trans ht

theorem foldl_pods {α : Type} {g : State → α → State} (h : ∀ s x, (g s x).pods = s.pods) (l : List α) (s : State) :
    (l.foldl g s).pods = s.pods := foldl_keeps State.pods h l s

/-! ### Messages, slots and works -/

@[simp] theorem rrpSend_pods (s : State) (type : Nat) (b : List Byte) : (rrpSend s type b).pods = s.pods := by
  unfold rrpSend
  split <;> rfl

@[simp] theorem rrpWrite_pods (n : Nat) (s : State) (a : Nat) (b : List Byte) : (rrpWrite n s a b).pods = s.pods := by
  induction n generalizing s a b with
  | zero => rfl
  | succ n ih =>
    unfold rrpWrite
    split
    · rfl
    · exact (ih ..).trans (rrpSend_pods ..)

@[simp] theorem hostWrite_pods (s : State) (a : Nat) (b : List Byte) : (hostWrite s a b).pods = s.pods := rrpWrite_pods ..

@[simp] theorem freeSlot_pods (s : State) (n : Nat) : (freeSlot s n).pods = s.pods := by
  unfold freeSlot
  split <;> rfl

@[simp] theorem dropRefs_pods (s : State) (holder : Nat) : (dropRefs s holder).pods = s.pods := by
  refine foldl_pods (fun s p => ?_) _ s
  dsimp only
  split <;> rfl

@[simp] theorem noteEnded_pods (s : State) (wid : Nat) : (noteEnded s wid).pods = s.pods := by
  unfold noteEnded
  split
  · split <;> rfl
  · rfl

@[simp] theorem endWork_pods (s : State) (wid : Nat) (slot : Option Nat) : (endWork s wid slot).pods = s.pods := by
  cases slot <;> simp [endWork]

/-! ### Events and the states of streams -/

@[simp] theorem noteStop_pods (s : State) (owner : Nat) (m : MemStop) : (noteStop s owner m).pods = s.pods := by
  cases m <;> rfl

theorem devWrite_ok_pods {s t : State} {ac : Access} {a : Nat} {b : List Byte} (h : devWrite s ac a b = .ok t) :
    t.pods = s.pods := by
  obtain ⟨-, -, rfl⟩ := devWrite_eq_ok.1 h
  rfl

@[simp] theorem notifyNow_pods (s : State) (p : Nat) : (notifyNow s p).pods = s.pods := by
  unfold notifyNow
  split
  · exact rrpSend_pods ..
  · rfl

@[simp] theorem notifyPair_pods (s : State) (p : Nat) : (notifyPair s p).pods = s.pods := by
  unfold notifyPair
  dsimp only
  split
  · exact notifyNow_pods ..
  · split <;> rfl

theorem tryWrite_ok_pods {s t : State} {p : Nat} {c : Compl} (h : tryWrite s p c = .ok t) : t.pods = s.pods := by
  unfold tryWrite at h
  dsimp only at h
  split at h
  · cases h
  · next u hu =>
    have written : u.pods = s.pods := by
      split at hu
      · cases hu; exact hostWrite_pods ..
      · exact devWrite_ok_pods hu
    cases h
    cases c.wid <;> simp [apply_ite State.pods, written]

theorem tryWrite_error_pods {s t : State} {p : Nat} {c : Compl} (h : tryWrite s p c = .error t) : t.pods = s.pods := by
  unfold tryWrite at h
  dsimp only at h
  split at h <;> cases h
  exact noteStop_pods ..

@[simp] theorem holdEvent_pods (s : State) (p : Nat) (c : Compl) : (holdEvent s p c).pods = s.pods := by
  unfold holdEvent
  dsimp only
  split
  · rfl
  · split
    · rfl
    · split <;> rfl

@[simp] theorem eventTo_pods (s : State) (p status stream detail : Nat) :
    (eventTo s p status stream detail).pods = s.pods := by
  unfold eventTo
  dsimp only
  split
  · rfl
  · split
    · split
      · next h => exact tryWrite_ok_pods h
      · next h => exact (holdEvent_pods ..).trans (tryWrite_error_pods h)
    · exact holdEvent_pods ..

@[simp] theorem streamEvent_pods (s : State) (n status detail : Nat) : (streamEvent s n status detail).pods = s.pods :=
  eventTo_pods ..

@[simp] theorem setStream_pods (s : State) (n : Nat) (new : StState) (byHome : Bool) :
    (setStream s n new byHome).pods = s.pods := by
  cases byHome <;> simp [setStream]

/-- The admission that a loss of pods re-runs reads their number and changes streams alone (02 R47). -/
@[simp] theorem rerunAdmission_pods (s : State) : (rerunAdmission s).pods = s.pods := by
  refine foldl_keeps (fun r : State × List Load => r.1.pods) (fun r k => ?_) _ _
  dsimp only
  generalize (if r.1.pods.below = true then _ else _ : Nat) = reason
  split
  · simp
  · split <;> simp

/-! ### Packets on the fabric -/

@[simp] theorem portPut_pods (s : State) (p : Nat) (x : FPort) : (portPut s p x).pods = s.pods := rfl

@[simp] theorem sendFrames_pods (s : State) (p : Nat) (pk : Packet) : (sendFrames s p pk).pods = s.pods := rfl

@[simp] theorem leaveInput_pods (s : State) (w : Waiting) : (leaveInput s w).pods = s.pods := by
  unfold leaveInput
  split <;> rfl

@[simp] theorem drainPort_pods (n : Nat) (s : State) (p : Nat) : (drainPort n s p).pods = s.pods := by
  induction n generalizing s with
  | zero => rfl
  | succ n ih =>
    unfold drainPort
    dsimp only
    split
    · simp [ih]
    · split
      · simp [ih]
      · rfl

@[simp] theorem creditPort_pods (n : Nat) (s : State) (p : Nat) : (creditPort n s p).pods = s.pods := by
  induction n generalizing s with
  | zero => rfl
  | succ n ih =>
    unfold creditPort
    dsimp only
    split
    · rfl
    · exact (ih _).trans (sendFrames_pods ..)

@[simp] theorem drainAll_pods (s : State) (p : Nat) : (drainAll s p).pods = s.pods :=
  (foldl_pods (fun _ _ => creditPort_pods ..) _ _).trans (drainPort_pods ..)

@[simp] theorem queueAt_pods (s : State) (p : Nat) (pk : Packet) : (queueAt s p pk).pods = s.pods := by
  simp [queueAt, queueFrom]

@[simp] theorem broadcast_pods (s : State) (except : Option Nat) (pk : Packet) : (broadcast s except pk).pods = s.pods := by
  refine foldl_pods (fun s p => ?_) _ s
  split
  · exact queueAt_pods ..
  · rfl

/-! ### Step 11: the topology check, and ready -/

@[simp] theorem topoAssign_pods (s : State) (t : Topo) : (topoAssign s t).pods = s.pods := by
  unfold topoAssign
  split
  · split <;> rfl
  · rfl

@[simp] theorem topoReport_pods (s : State) (l : List TopoDiff) : (topoReport s l).pods = s.pods := by
  unfold topoReport
  refine (foldl_pods (fun _ _ => logAdd2_pods ..) _ _).trans ?_
  split
  · exact hostWrite_pods ..
  · split <;> rfl

@[simp] theorem topoExclude_pods (s : State) (d : TopoDiff) : (topoExclude s d).pods = s.pods := by
  unfold topoExclude
  split
  · exact broadcast_pods ..
  · rfl

@[simp] theorem becomeReady_pods (s : State) : (becomeReady s).pods = s.pods := by
  unfold becomeReady
  refine (foldl_pods (fun s h => ?_) _ _).trans ?_
  · split <;> rfl
  · dsimp only
    split <;> rfl

@[simp] theorem topoRun_pods (s : State) : (topoRun s).pods = s.pods := by
  unfold topoRun
  split
  · rfl
  · split
    · rfl
    · next t _ =>
      have checked (l : List TopoDiff) (b : Boot) : (topoReport { topoAssign s t with boot := b } l).pods = s.pods :=
        (topoReport_pods ..).trans (topoAssign_pods s t)
      dsimp only
      split
      · exact (becomeReady_pods _).trans (checked ..)
      · split
        · exact (becomeReady_pods _).trans ((foldl_pods topoExclude_pods _ _).trans (checked ..))
        · exact checked ..

/-! ### The steps that follow the harvest -/

@[simp] theorem logStep_pods (s : State) (kind n : Nat) : (logStep s kind n).pods = s.pods := by
  unfold logStep
  split <;> rfl

@[simp] theorem markStep_pods (s : State) (k : Nat) : (markStep s k).pods = s.pods := by
  refine (logStep_pods ..).trans ?_
  split <;> rfl

@[simp] theorem failStart_pods (s : State) (code : Nat) : (failStart s code).pods = s.pods := rfl

@[simp] theorem sendPull_pods (s : State) (p : BootPort) (id chunk : Nat) : (sendPull s p id chunk).pods = s.pods := by
  cases p
  · exact queueAt_pods ..
  · rfl

@[simp] theorem startPull_pods (s : State) : (startPull s).pods = s.pods := by
  unfold startPull
  dsimp only
  split
  · rfl
  · split
    · exact foldl_pods (fun _ _ => sendPull_pods ..) _ _
    · rfl

@[simp] theorem step10_pods (s : State) : (step10 s).pods = s.pods := (startPull_pods _).trans (markStep_pods ..)

@[simp] theorem step11_pods (s : State) : (step11 s).pods = s.pods := (topoRun_pods _).trans (markStep_pods ..)

@[simp] theorem step10Done_pods (s : State) : (step10Done s).pods = s.pods := by
  unfold step10Done
  dsimp only
  split
  · split <;> simp
  · exact step11_pods _

@[simp] theorem winRegs_pods (s : State) (e : Nat × Window) : (winRegs s e).pods = s.pods := by
  unfold winRegs
  dsimp only
  split
  · rfl
  · exact foldl_pods (fun _ _ => regPut_pods ..) _ _

@[simp] theorem restoreTables_pods (s : State) : (restoreTables s).pods = s.pods := by
  unfold restoreTables
  split
  · exact foldl_pods winRegs_pods _ _
  · rfl

@[simp] theorem restoreDormant_pods (s : State) : (restoreDormant s).pods = s.pods := by
  unfold restoreDormant
  dsimp only
  split
  · split <;> simp
  · simp

@[simp] theorem step9_pods (s : State) : (step9 s).pods = s.pods := markStep_pods ..

@[simp] theorem marchEnd_pods (s : State) : (marchEnd s).pods = s.pods := by
  unfold marchEnd
  dsimp only
  split
  · exact failStart_pods ..
  · exact step9_pods _

@[simp] theorem step8_pods (s : State) : (step8 s).pods = s.pods := by
  unfold step8
  dsimp only
  split_ifs <;> simp

/-- Whatever follows the harvest, in a full start, a partial one or the exit from Dormant, the pods stay as ranked. -/
@[simp] theorem afterHarvest_pods (s : State) : (afterHarvest s).pods = s.pods := by
  unfold afterHarvest
  dsimp only
  split_ifs <;> simp

end Sys2Proof.Machine
end

