-- ==== Sys2Proof/Proofs/Harvest.lean ====
section
/-! The ranking of the pods (13 R423): what the self-test's harvest makes of the good pods, and what a failed pod's spare takes
over (14 R456). -/
namespace Sys2Proof.Machine

@[simp] theorem exec_podSelfTestDone (failed : List (Nat × Nat)) (s : State) :
    exec (.podSelfTestDone failed) s = execPodSelfTestDone failed s := rfl

@[simp] theorem exec_podFailure (pod : Nat) (agree : Bool) (s : State) :
    exec (.podFailure pod agree) s = execPodFailure pod agree s := rfl

/-! ### The good pods, in ascending order -/

/-- The state in which the harvest finds the good pods: the failed pods of the powered waves are logged (13 R422). -/
def failedPodsLogged (s : State) (failed : List (Nat × Nat)) : State :=
  (failed.filter fun x => (wavePods s).contains x.1).foldl (fun s x => logAdd s 0x0005 1 1 (x.1 + 2 ^ 8 * x.2)) s

theorem wavePods_failedPodsLogged (s : State) (failed : List (Nat × Nat)) :
    wavePods (failedPodsLogged s failed) = wavePods s := by
  refine foldl_keeps wavePods (fun t x => ?_) _ s
  rw [wavePods, logAdd_boot, wavePods]

/-- A pod of a powered wave is among the failed pods that count where the self-test reported it. -/
theorem contains_failed_of_mem_wavePods {s : State} {p : Nat} (failed : List (Nat × Nat)) (hp : p ∈ wavePods s) :
    ((failed.filter fun x => (wavePods s).contains x.1).map (·.1)).contains p = failed.any fun x => x.1 == p := by
  rw [Bool.eq_iff_iff]
  simp only [List.contains_iff_mem, List.mem_map, List.mem_filter, List.any_eq_true, beq_iff_eq]
  constructor
  · rintro ⟨x, ⟨hx, -⟩, rfl⟩
    exact ⟨x, hx, rfl⟩
  · rintro ⟨x, hx, rfl⟩
    exact ⟨x, ⟨hx, hp⟩, rfl⟩

/-- The harvest finds good the pods of the powered waves that the self-test did not report. -/
theorem wavePods_filter_not_failed (s : State) (failed : List (Nat × Nat)) :
    ((wavePods (failedPodsLogged s failed)).filter fun p =>
      !((failed.filter fun x => (wavePods s).contains x.1).map (·.1)).contains p) = goodPods s failed := by
  rw [wavePods_failedPodsLogged]
  calc (wavePods s).filter _
      = (wavePods s).filter fun p => !failed.any fun x => x.1 == p :=
        List.filter_congr fun p hp => by rw [contains_failed_of_mem_wavePods failed hp]
    _ = goodPods s failed := by
        rw [wavePods, List.filter_filter, goodPods]
        exact List.filter_congr fun p _ => Bool.and_comm ..

theorem goodPods_pairwise_lt (s : State) (failed : List (Nat × Nat)) : (goodPods s failed).Pairwise (· < ·) :=
  List.pairwise_lt_range.filter _

theorem goodPods_length_le (s : State) (failed : List (Nat × Nat)) : (goodPods s failed).length ≤ 104 :=
  (List.length_filter_le ..).trans_eq List.length_range

/-! ### The harvest -/

/-- The end of the self-test in step 7: the harvest, and then the failure of the start or its next step (13 R423, R424). -/
theorem exec_podSelfTestDone_of_step {s : State} (failed : List (Nat × Nat)) (hstep : s.boot.step = 7) :
    exec (.podSelfTestDone failed) s =
      .next (let t := harvest (failedPodsLogged s failed) (goodPods s failed)
        if (goodPods s failed).length < 88 then failStart { t with pods := { t.pods with lmap := [], spares := [] } } 4
        else afterHarvest t) := by
  rw [exec_podSelfTestDone, ← wavePods_filter_not_failed s failed]
  exact if_neg (not_not.2 hstep)

/-- With 88 good pods or more the start goes on with the pods that the harvest ranked. -/
theorem exec_podSelfTestDone_pods {s : State} {failed : List (Nat × Nat)} (hstep : s.boot.step = 7)
    (hgood : 88 ≤ (goodPods s failed).length) :
    ∃ t, exec (.podSelfTestDone failed) s = .next t ∧
      t.pods = (harvest (failedPodsLogged s failed) (goodPods s failed)).pods := by
  rw [exec_podSelfTestDone_of_step failed hstep]
  dsimp only
  rw [if_neg hgood.not_gt]
  exact ⟨_, rfl, afterHarvest_pods _⟩

/-! ### A spare takes a logical index -/

theorem modAt_const_eq_set {α : Type} (l : List α) (i : Nat) (a : α) : modAt l i (fun _ => a) = l.set i a := by
  induction l generalizing i with
  | nil => rfl
  | cons b l ih =>
    cases i with
    | zero => rfl
    | succ i => exact congrArg (b :: ·) (ih i)

@[simp] theorem giveToken_pods (s : State) (k outcome : Nat) : (giveToken s k outcome).pods = s.pods := by
  unfold giveToken
  split <;> rfl

@[simp] theorem giveToken_regs (s : State) (k outcome : Nat) : (giveToken s k outcome).regs = s.regs := by
  unfold giveToken
  split <;> rfl

theorem abandonTest_pods (s : State) (pod : Nat) :
    (abandonTest s pod).pods = { s.pods with selfTest := (abandonTest s pod).pods.selfTest } := by
  unfold abandonTest
  split <;> simp

@[simp] theorem abandonTest_regs (s : State) (pod : Nat) : (abandonTest s pod).regs = s.regs := by
  unfold abandonTest
  split <;> simp

@[simp] theorem headerPut_pods (s : State) (part stream offset : Nat) (b : List Byte) :
    (headerPut s part stream offset b).pods = s.pods := by
  unfold headerPut
  split <;> rfl

@[simp] theorem headerPut_regs (s : State) (part stream offset : Nat) (b : List Byte) :
    (headerPut s part stream offset b).regs = s.regs := by
  unfold headerPut
  split <;> rfl

@[simp] theorem reissueRecords_pods (s : State) : (reissueRecords s).pods = s.pods := by
  refine foldl_pods (fun t e => ?_) _ s
  exact headerPut_pods (freeBytes t 64).2 ..

@[simp] theorem reissueRecords_regs (s : State) : (reissueRecords s).regs = s.regs := by
  refine foldl_keeps State.regs (fun t e => ?_) _ s
  exact headerPut_regs (freeBytes t 64).2 ..

/-- The state in which the failed pod is fenced and the spare has taken its logical index (14 R456 steps 1 to 3). -/
def spareRanked (s : State) (pod lidx spare : Nat) : State :=
  let t := abandonTest (fencePod s pod) spare
  { t with pods := { t.pods with lmap := t.pods.lmap.set lidx spare, spares := t.pods.spares.filter (· != spare) } }

theorem substitute_eq (s : State) (pod lidx spare : Nat) :
    substitute s pod lidx spare =
      logAdd (bump (reissueTiles (reissueRecords (moveDrain (spareRanked s pod lidx spare) pod spare)) lidx) 0xD000048)
        0x0201 1 2 (pod + 2 ^ 8 * lidx + 2 ^ 16 * spare) := by
  simp only [substitute, spareRanked, modAt_const_eq_set]

@[simp] theorem spareRanked_regs (s : State) (pod lidx spare : Nat) : (spareRanked s pod lidx spare).regs = s.regs :=
  abandonTest_regs (fencePod s pod) spare

/-- The failed pod is good no longer; the spare stands in its place and is spare no longer. -/
theorem spareRanked_pods (s : State) (pod lidx spare : Nat) :
    (spareRanked s pod lidx spare).pods =
      { (fencePod s pod).pods with
        lmap := s.pods.lmap.set lidx spare, spares := (s.pods.spares.filter (· != pod)).filter (· != spare),
        selfTest := (abandonTest (fencePod s pod) spare).pods.selfTest } := by
  rw [spareRanked, abandonTest_pods]
  rfl

theorem substitute_pods (s : State) (pod lidx spare : Nat) :
    (substitute s pod lidx spare).pods = (spareRanked s pod lidx spare).pods := by
  rw [substitute_eq, logAdd_pods, bump_pods]
  exact reissueRecords_pods _

/-! ### The count of substitutions -/

theorem tget_filter_of_true {α : Type} {q : Nat → Bool} {a : Nat} (t : Tab α) (h : q a = true) :
    tget (t.filter fun e => q e.1) a = tget t a := by
  induction t with
  | nil => rfl
  | cons e t ih =>
    obtain ⟨k, v⟩ := e
    by_cases hk : k = a
    · subst hk
      simp [h, tget]
    · by_cases hq : q k = true <;> simp [hq, tget, hk, ih]

theorem drainOf_eq_false {pod a : Nat} (hpod : pod < 104) (ha : 0x19A0000 ≤ a) : drainOf pod a = false := by
  have hend : ¬ (drainBase pod ≤ a ∧ a < drainBase pod + 0x4000) := by
    rw [drainBase]
    omega
  exact decide_eq_false hend

/-- Moving the scale entries of a pod leaves every register that is a scale entry of neither pod (03 R98). -/
theorem regGet_moveDrain {s : State} {old new a : Nat} (hold : drainOf old a = false) (hnew : drainOf new a = false) :
    regGet (moveDrain s old new) a = regGet s a := by
  have hmoved : ∀ e : Nat × Word, drainOf old e.1 = true → a ≠ e.1 - drainBase old + drainBase new := by
    intro e he h
    have hin : drainOf new a = true := by
      simp only [drainOf, decide_eq_true_eq] at he ⊢
      omega
    rw [hnew] at hin
    cases hin
  have hstay : tget (s.regs.filter fun e => !drainOf old e.1 && !drainOf new e.1) a = tget s.regs a :=
    tget_filter_of_true (q := fun k => !drainOf old k && !drainOf new k) s.regs (by simp [hold, hnew])
  have htable : tget (moveDrain s old new).regs a = tget s.regs a :=
    List.foldlRecOn (motive := fun t => tget t a = tget s.regs a) _ _ hstay fun t ht e he =>
      (tget_tset_other t e.2 (hmoved e (List.mem_filter.1 he).2)).trans ht
  rw [regGet, htable, regGet]

theorem regGet_bump_same (s : State) (a : Nat) : regGet (bump s a) a = min (regGet s a + 1) (2 ^ 32 - 1) := by
  have hlt : min (regGet s a + 1) (2 ^ 32 - 1) < 2 ^ 32 := by omega
  rw [bump, bumpBy, if_neg one_ne_zero, regGet_regPut_same, Nat.mod_eq_of_lt hlt]

/-- SUBST_COUNT counts the substitution. -/
theorem regGet_substitute_count {s : State} {pod spare : Nat} (lidx : Nat) (hpod : pod < 104) (hspare : spare < 104) :
    regGet (substitute s pod lidx spare) 0xD000048 = min (regGet s 0xD000048 + 1) (2 ^ 32 - 1) := by
  have hold : drainOf pod 0xD000048 = false := drainOf_eq_false hpod (by decide)
  have hnew : drainOf spare 0xD000048 = false := drainOf_eq_false hspare (by decide)
  rw [substitute_eq, regGet_logAdd, regGet_bump_same]
  congr 2
  calc regGet (reissueTiles (reissueRecords (moveDrain (spareRanked s pod lidx spare) pod spare)) lidx) 0xD000048
      = regGet (moveDrain (spareRanked s pod lidx spare) pod spare) 0xD000048 := regGet_congr (reissueRecords_regs _) _
    _ = regGet (spareRanked s pod lidx spare) 0xD000048 := regGet_moveDrain hold hnew
    _ = regGet s 0xD000048 := regGet_congr (spareRanked_regs ..) _

/-- The substitution is logged with the pod, its logical index and the spare. -/
theorem logged_substitute (s : State) (pod lidx spare : Nat) :
    logged (substitute s pod lidx spare) 0x0201 ((pod + 2 ^ 8 * lidx + 2 ^ 16 * spare) % 2 ^ 32) := by
  rw [substitute_eq]
  exact ⟨_, List.mem_cons_self, rfl, rfl⟩

/-! ### The spare taken -/

/-- The spares in ascending order, without the failed pod among them: the one taken is the lowest, and the rest stay. -/
theorem spares_after_substitute {pod sp : Nat} {rest : List Nat} (hsorted : (sp :: rest).Pairwise (· < ·))
    (hpod : pod ∉ sp :: rest) : ((sp :: rest).filter (· != pod)).filter (· != sp) = rest := by
  obtain ⟨hlow, -⟩ := List.pairwise_cons.1 hsorted
  have hkeep : (sp :: rest).filter (· != pod) = sp :: rest :=
    List.filter_eq_self.2 fun x hx => bne_iff_ne.2 fun h => hpod (h ▸ hx)
  have hrest : rest.filter (· != sp) = rest :=
    List.filter_eq_self.2 fun x hx => bne_iff_ne.2 (hlow x hx).ne'
  rw [hkeep, List.filter_cons_of_neg (by simp), hrest]

/-- An active pod in service fails where a spare is left: the first spare takes its logical index. -/
theorem exec_podFailure_of_spare {s : State} {pod i sp : Nat} {rest : List Nat} (hgood : pod ∈ s.pods.good)
    (hstep : 7 < s.boot.step) (hpow : powered s (12 + pod / 13) = true) (hi : logicalOf s pod = some i)
    (hsp : s.pods.spares = sp :: rest) :
    exec (.podFailure pod true) s = .next (substitute s pod i sp) := by
  have hin : inService s pod = true := by simp [inService, waveOf, hgood, hstep, hpow]
  simp [execPodFailure, podFailed, hin, hi, hsp]

/-- Settles O18: the harvest finds the good pods in ascending order and ranks them, and a substitution takes the first
spare, which is the lowest. -/
theorem harvestRanksPodsAndSpares : Obligations.HarvestRanksPodsAndSpares := by
  refine ⟨?_, ?_⟩
  · intro failed s hstep hgood
    obtain ⟨t, hexec, hpods⟩ := exec_podSelfTestDone_pods hstep hgood
    have hle := goodPods_length_le s failed
    refine ⟨t, hexec, ?_⟩
    rw [hpods]
    refine ⟨rfl, rfl, rfl, goodPods_pairwise_lt s failed, ?_⟩
    exact List.length_drop.trans_le (Nat.sub_le_of_le_add hle)
  · intro pod i sp rest s hgood hstep hpow hi hsp hsorted hpod hlt hsplt
    rw [hsp] at hsorted hpod
    refine ⟨_, exec_podFailure_of_spare hgood hstep hpow hi hsp, ?_⟩
    rw [substitute_pods, spareRanked_pods, hsp, spares_after_substitute hsorted hpod]
    exact ⟨rfl, rfl, rfl, (List.pairwise_cons.1 hsorted).1, regGet_substitute_count i hlt hsplt, logged_substitute ..⟩

end Sys2Proof.Machine
end
